-- ==== Sys2Proof/Syntax.lean ====
section
/-!
DEFINITION. The commands of the part: one constructor of `Instr` per row of the opcode table, with the operands the
outside world or the hardware event gives it. Indices, addresses and counts are natural numbers, register values are bit
vectors.
-/
namespace Sys2Proof

/-- A PCI Express function of the part: PF0, the work function, or the virtual function of a flask (R832). PF1 is reached
through its mailbox commands. -/
inductive Fn where
  | pf0
  | vf (v : Nat)
deriving DecidableEq, Repr

/-- The channels that post mailbox commands: the PF0 block mailboxes, the VF mailboxes, the management port mailbox and
the word mailbox (R866), and the secure mailboxes of PF1 and of the management port (R936, R937). -/
inductive Box where
  | pf (m : Nat)
  | vf (v : Nat)
  | mgmt
  | word
  | secPf1
  | secMgmt
deriving DecidableEq, Repr

/-- Where a register access arrives: BAR0 of a function (R838), BAR0 of PF1 (R936), the management port (R900), the doorbell pages in
BAR4 of a function (R848, R849), or the configuration space of a function (R832, R834). A write through the management port says whether
it carried a correct PEC (R896, R897); in I3C mode there is none to carry. -/
inductive RegPort where
  | bar0 (fn : Fn)
  | pf1
  | mgmt (pecOk : Bool)
  | bar4 (fn : Fn)
  | config (fn : Fn)
  | configPf1
deriving DecidableEq, Repr

/-- The pattern table registers that software writes (R439). -/
inductive TableReg where
  | cfg
  | rows
  | baseA
  | baseB
deriving DecidableEq, Repr

/-- The units that R959 measures: stacks with their base dies, compute dies and optical engines. -/
inductive ThermalUnit where
  | stack (s : Nat)
  | die (d : Nat)
  | engine (e : Nat)
deriving DecidableEq, Repr

/-- The fields of a flit header (R671) and the payload bytes that FILL covers. The kind is the command's own; a flit that
reaches one of the flit commands has passed R674. `fecCorrected` is no header field: the FEC codewords that the port corrected in a flit
that it received, which PORT_FEC_CORR counts. -/
structure Flit where
  tc : Nat
  startValid : Bool
  ackValid : Bool
  startOff : Nat
  seq : Nat
  ack : Nat
  creditTc0 : Nat
  creditTc1 : Nat
  creditTc2 : Nat
  creditTc3 : Nat
  payload : List Byte
  fecCorrected : Nat := 0
deriving DecidableEq, Repr

/-- Why a flit fails R674, with the FEC codewords corrected in it. -/
inductive CorruptKind where
  /-- A wrong LINK_CRC. -/
  | crc (corrected : Nat)
  /-- A number of uncorrectable FEC codewords. -/
  | fec (codewords corrected : Nat)
  /-- A reserved KIND with a correct LINK_CRC. -/
  | reservedKind (corrected : Nat)
deriving DecidableEq, Repr

/-- The FEC codewords corrected in a corrupt flit. -/
def CorruptKind.corrected : CorruptKind → Nat
  | .crc n | .fec _ n | .reservedKind n => n

/-- What the checker of one pseudo-channel found in one run of the traffic generator (R990, R1039): the stack and the channel,
the corrected words and the uncorrectable words counted. -/
structure ChannelTest where
  stack : Nat
  channel : Nat
  corrected : Nat
  uncorrectable : Nat
deriving DecidableEq, Repr

/-- The commands, in the order of the opcode table. -/
inductive Instr where
  /-- VIN_50_RISE (R981). -/
  | vin50Rise (straps : Nat)
  /-- VIN_50_FALL (R976). -/
  | vin50Fall
  /-- UNDERVOLTAGE_SHUTDOWN (R948). -/
  | undervoltageShutdown
  /-- OVERVOLTAGE_SHUTDOWN (R948). -/
  | overvoltageShutdown
  /-- BOOT_ROM_CHECK_DONE (R909). -/
  | bootRomCheckDone
  /-- START_CONDITION (R977). -/
  | startCondition
  /-- POWER_PHASE_END (R976). -/
  | powerPhaseEnd (ok : Bool)
  /-- IDENTITY_PHASE_END (R995). -/
  | identityPhaseEnd (ok : Bool)
  /-- RECORD_PHASE_END (R1006). -/
  | recordPhaseEnd (ok : Bool)
  /-- SELFTEST_PHASE_END (R987). -/
  | selftestPhaseEnd (arrays : List (Nat × Nat)) (routers : List Nat) (srams : List Nat)
  /-- STACK_QUALIFICATION_END (R992). -/
  | stackQualificationEnd (stack : Nat) (results : List ChannelTest)
  /-- CONFIG_PHASE_END (R998). -/
  | configPhaseEnd
  /-- PERST_N_ASSERT (R982). -/
  | perstNAssert
  /-- PERST_N_DEASSERT (R981). -/
  | perstNDeassert
  /-- FLR_PF0 (R837). -/
  | flrPf0
  /-- FLR_VF (R836). -/
  | flrVf (v : Nat)
  /-- VF_ENABLE_CLEAR (R836). -/
  | vfEnableClear
  /-- BAR2_READ (R842). -/
  | bar2Read (fn : Fn) (off len : Nat)
  /-- BAR2_WRITE (R842). -/
  | bar2Write (fn : Fn) (off : Nat) (data : List Byte) (relaxed : Bool)
  /-- DOORBELL (R493). -/
  | doorbell (fn : Fn) (page : Nat) (value : Word32)
  /-- REGISTER_WRITE (R10). -/
  | registerWrite (port : RegPort) (off : Nat) (be : Nat) (value : Word64)
  /-- RC_COUNTER_READ (R121): a read of registers, which clears the RC fields it covers. -/
  | rcCounterRead (port : RegPort) (off : Nat) (len : Nat)
  /-- ALMANAC_NOW_LO_READ (R445). -/
  | almanacNowLoRead (fn : Fn)
  /-- SEM_WRITE (R197). -/
  | semWrite (n : Nat) (value : Word32)
  /-- CQ_HEAD_WRITE (R856). -/
  | cqHeadWrite (f : Nat) (value : Word32)
  /-- EQ_HEAD_WRITE (R858). -/
  | eqHeadWrite (f : Nat) (value : Word32)
  /-- LADLE_HEAD_WRITE (R503). -/
  | ladleHeadWrite (n : Nat) (value : Word32)
  /-- RESUME (R503). -/
  | resume (n : Nat)
  /-- ABORT (R550). -/
  | abort (n : Nat)
  /-- ABORT_CANCEL_DONE (R551). -/
  | abortCancelDone (n : Nat)
  /-- FLASK_RESET (R555). -/
  | flaskReset (f : Nat)
  /-- FLASK_RESET_DONE (R557). -/
  | flaskResetDone (f : Nat)
  /-- HOST_INT_WRITE (R860). -/
  | hostIntWrite (enable : Bool) (value : Word32)
  /-- TIME_CFG_WRITE (R1079). -/
  | timeCfgWrite (value : Word32)
  /-- TICK_LOAD_ARM (R461). -/
  | tickLoadArm (delay : Option (BitVec 16))
  /-- ALMANAC_ENTRY_ARM (R465). -/
  | almanacEntryArm (e : Nat) (high : Bool) (value : Word64)
  /-- ALMANAC_ENTRY_FREE (R468). -/
  | almanacEntryFree (e : Nat) (high : Bool) (value : Word64)
  /-- WATCH_AVG_WRITE (R320). -/
  | watchAvgWrite (n : Nat) (value : Word32)
  /-- TABLE_REGISTER_WRITE (R408). -/
  | tableRegisterWrite (n : Nat) (reg : TableReg) (be : Nat) (value : Word64)
  /-- GROUP_ENTRY_WRITE (R731). -/
  | groupEntryWrite (g word : Nat) (value : Word32)
  /-- PORT_CFG_WRITE (R711). -/
  | portCfgWrite (port : Nat) (value : Word32)
  /-- CT_SEL_WRITE (R1022). -/
  | ctSelWrite (mgmt : Bool) (value : Word32)
  /-- CT_DATA_READ (R1024). -/
  | ctDataRead
  /-- BUF_DATA_ACCESS (R937). -/
  | bufDataAccess (value : Option Word32)
  /-- PROBE_CFG_WRITE (R1031). -/
  | probeCfgWrite (value : Word32)
  /-- ERR_LOG_HEAD_WRITE (R1067). -/
  | errLogHeadWrite (value : Word32)
  /-- MBOX_GO (R862). -/
  | mboxGo (box : Box) (value : Word32)
  /-- MBOX_COMMAND_END (R864). -/
  | mboxCommandEnd (secure : Bool)
  /-- GET_INFO (R878). -/
  | getInfo (box : Box)
  /-- FLASK_ENABLE (R884). -/
  | flaskEnable (box : Box)
  /-- FLASK_DISABLE (R885). -/
  | flaskDisable (box : Box)
  /-- SET_ALLOT (R886). -/
  | setAllot (box : Box)
  /-- WATCH_ALLOT (R887). -/
  | watchAllot (box : Box)
  /-- SEG_WRITE (R582). -/
  | segWrite (box : Box)
  /-- SEG_READ (R878). -/
  | segRead (box : Box)
  /-- ALMANAC_ARM (R888). -/
  | almanacArm (box : Box)
  /-- ALMANAC_FREE (R878). -/
  | almanacFree (box : Box)
  /-- TABLE_WRITE (R440). -/
  | tableWrite (box : Box)
  /-- GROUP_WRITE (R731). -/
  | groupWrite (box : Box)
  /-- LEND (R889). -/
  | lend (box : Box)
  /-- LOAN_END (R890). -/
  | loanEnd (box : Box)
  /-- MAP_BAY (R891). -/
  | mapBay (box : Box)
  /-- REVOKE_BAY (R892). -/
  | revokeBay (box : Box)
  /-- UNMAP_BAY (R893). -/
  | unmapBay (box : Box)
  /-- SET_MODES (R967). -/
  | setModes (box : Box)
  /-- GET_POWER (R967). -/
  | getPower (box : Box)
  /-- CFG_READ (R1001). -/
  | cfgRead (box : Box)
  /-- CFG_WRITE (R997). -/
  | cfgWrite (box : Box)
  /-- START (R1003). -/
  | start (box : Box)
  /-- STOP (R982). -/
  | stop (box : Box)
  /-- GET_STARTUP (R1001). -/
  | getStartup (box : Box)
  /-- GET_CERT (R939). -/
  | getCert (box : Box)
  /-- GET_EVIDENCE (R924). -/
  | getEvidence (box : Box)
  /-- FW_BEGIN (R916). -/
  | fwBegin (box : Box)
  /-- FW_WRITE (R916). -/
  | fwWrite (box : Box)
  /-- FW_VERIFY (R907). -/
  | fwVerify (box : Box)
  /-- FW_ACTIVATE (R913). -/
  | fwActivate (box : Box)
  /-- FW_COMMIT (R914). -/
  | fwCommit (box : Box)
  /-- DEBUG_CHALLENGE (R930). -/
  | debugChallenge (box : Box)
  /-- DEBUG_UNLOCK (R930). -/
  | debugUnlock (box : Box)
  /-- RETIRE_ARM (R939). -/
  | retireArm (box : Box)
  /-- RETIRE (R935). -/
  | retire (box : Box)
  /-- LIFECYCLE_PRODUCTION (R927). -/
  | lifecycleProduction (box : Box)
  /-- CONTRAIL_CLEAR (R1020). -/
  | contrailClear (box : Box)
  /-- CONTRAIL_READ (R1037). -/
  | contrailRead (box : Box)
  /-- TGEN_RUN (R1039). -/
  | tgenRun (box : Box) (results : List ChannelTest)
  /-- TGEN_RESULT (R1037). -/
  | tgenResult (box : Box)
  /-- MBOX_WORD (R871). -/
  | mboxWord (port : Nat)
  /-- MBOX_WORD_TAKE (R873). -/
  | mboxWordTake
  /-- TAP_RESET (R1034). -/
  | tapReset
  /-- IDCODE (R1034). -/
  | idcode
  /-- SAMPLE_PRELOAD (R1034). -/
  | samplePreload (cells : List Bool)
  /-- EXTEST (R1035). -/
  | extest
  /-- CLAMP (R1035). -/
  | clamp
  /-- HIGHZ (R1035). -/
  | highz
  /-- BYPASS (R1034). -/
  | bypass (code : Nat)
  /-- POWER_MEASUREMENT (R955). -/
  | powerMeasurement (volts amps watts : Nat)
  /-- TEMPERATURE_SAMPLE (R960). -/
  | temperatureSample (stackTemps dies engines : List Nat)
  /-- THERMAL_CLASS_EXIT (R961). -/
  | thermalClassExit (unit : ThermalUnit)
  /-- BEACON (R457). -/
  | beacon (port : Nat)
  /-- DELAY_RESP (R457). -/
  | delayResp (port : Nat)
  /-- TICK_IN_MARKER (R461). -/
  | tickInMarker
  /-- ACQUIRING_TIMEOUT (R449). -/
  | acquiringTimeout
  /-- BEACON_SILENCE (R449). -/
  | beaconSilence
  /-- TICK_IN_SILENCE (R449). -/
  | tickInSilence
  /-- HOLDOVER_LIMIT (R449). -/
  | holdoverLimit
  /-- COLL_PHASE (R743). -/
  | collPhase (e : Nat)
  /-- SLICE (R541). -/
  | slice (e : Nat)
  /-- SCRUB (R649). -/
  | scrub (e : Nat)
  /-- TELEMETRY (R968). -/
  | telemetry (e : Nat)
  /-- BAY_DEADLINE (R621). -/
  | bayDeadline (e : Nat)
  /-- HEAT_GATE (R464). -/
  | heatGate (e : Nat)
  /-- ENTRY_WINDOW_CLOSE (R472). -/
  | entryWindowClose (e : Nat)
  /-- DEFER_LEAD_CHECK (R475). -/
  | deferLeadCheck (e : Nat)
  /-- SHIFT (R479). -/
  | shift (port : Nat)
  /-- GROUP_ABORT (R483). -/
  | groupAbort (port : Nat)
  /-- SCRUB_PAGE (R651). -/
  | scrubPage (stack : Nat)
  /-- LADLE_RECORD_DISPATCH (R496). -/
  | ladleRecordDispatch (n : Nat)
  /-- HEAT_CARD (R517). -/
  | heatCard (n : Nat)
  /-- HEAT_PASS_START (R520). -/
  | heatPassStart (n : Nat)
  /-- PASS_BLOCK_READY (R520). -/
  | passBlockReady (n : Nat)
  /-- HEAT_SECTION_DISPATCH (R526). -/
  | heatSectionDispatch (n sec : Nat)
  /-- HEAT_END (R536). -/
  | heatEnd (n : Nat)
  /-- POUR_WAIT_RELEASE (R182). -/
  | pourWaitRelease (p : Nat)
  /-- NOP (R144). -/
  | nop (p : Nat)
  /-- MM (R55). -/
  | mm (p : Nat)
  /-- MMC (R210). -/
  | mmc (p : Nat)
  /-- CONV (R357). -/
  | conv (p : Nat)
  /-- DW (R289). -/
  | dw (p : Nat)
  /-- ROW (R265). -/
  | row (p : Nat)
  /-- TILES (R593). -/
  | tiles (p : Nat)
  /-- VISIT (R599). -/
  | visit (p : Nat)
  /-- REGROUP (R602). -/
  | regroup (p : Nat)
  /-- FILL (R604). -/
  | fill (p : Nat)
  /-- GATHER (R429). -/
  | gather (p : Nat)
  /-- GATHER_END (R412). -/
  | gatherEnd (p : Nat)
  /-- FLIP (R413). -/
  | flip (p : Nat)
  /-- FLIP_SWITCH (R413). -/
  | flipSwitch (p : Nat)
  /-- DECODE (R393). -/
  | decode (p : Nat)
  /-- NMS (R394). -/
  | nms (p : Nat)
  /-- CROP (R398). -/
  | crop (p : Nat)
  /-- PASTE (R401). -/
  | paste (p : Nat)
  /-- COLL (R741). -/
  | coll (p : Nat)
  /-- WAIT (R191). -/
  | wait (p : Nat)
  /-- SIGNAL (R192). -/
  | signal (p : Nat)
  /-- SIGNAL_AFTER_COMPLETE (R192). -/
  | signalAfterComplete (p : Nat)
  /-- FENCE (R193). -/
  | fence (p : Nat)
  /-- FENCE_FLASK (R194). -/
  | fenceFlask (p : Nat)
  /-- MARK (R797). -/
  | mark (p : Nat)
  /-- MARK_RECORD (R798). -/
  | markRecord (p : Nat)
  /-- ENUMERATE (R332). -/
  | enumerate (flask addr : Nat)
  /-- OPERANDS_LANDED (R163). -/
  | operandsLanded (p : Nat)
  /-- BANK_RELEASE (R50). -/
  | bankRelease (a bank : Nat)
  /-- MESH_TILE_ARRIVE (R223). -/
  | meshTileArrive (a : Nat)
  /-- EMPTY_MARKER_ARRIVE (R230). -/
  | emptyMarkerArrive (a : Nat)
  /-- BREAK_ARRIVE (R232). -/
  | breakArrive (a : Nat)
  /-- CREDIT_ARRIVE (R217). -/
  | creditArrive (a : Nat)
  /-- WATCH_EVALUATE (R301). -/
  | watchEvaluate (p : Nat)
  /-- POUR_COMPLETE (R179). -/
  | pourComplete (p : Nat)
  /-- POUR_FAULT (R199). -/
  | pourFault (p : Nat)
  /-- HELD_COMPLETION_WRITE (R508). -/
  | heldCompletionWrite (f : Nat)
  /-- DATAPATH_PARITY (R44). -/
  | datapathParity (a : Nat) (router : Bool)
  /-- ARRAY_PARK_SAVE (R542). -/
  | arrayParkSave (a : Nat)
  /-- ARRAY_TAKE_OWNER (R540). -/
  | arrayTakeOwner (a : Nat)
  /-- ARRAY_RESTORE_DONE (R545). -/
  | arrayRestoreDone (a : Nat)
  /-- TRANSIENT_FAULT (R812). -/
  | transientFault (n : Nat)
  /-- REPLAY_CANCEL_DONE (R812). -/
  | replayCancelDone (n : Nat)
  /-- REPLAY_CONDITION_MET (R809). -/
  | replayConditionMet (n : Nat)
  /-- REPLAY_WAIT_TIMEOUT (R811). -/
  | replayWaitTimeout (n : Nat)
  /-- RD_REQ (R696). -/
  | rdReq (port : Nat)
  /-- WR_REQ (R697). -/
  | wrReq (port : Nat)
  /-- RD_RESP (R702). -/
  | rdResp (port : Nat)
  /-- WR_ACK (R702). -/
  | wrAck (port : Nat)
  /-- TC2_RESPONSE_TIMEOUT (R620). -/
  | tc2ResponseTimeout (r : Nat)
  /-- LOAN_DEADLINE (R623). -/
  | loanDeadline (g : Nat)
  /-- DATA_FLIT (R677). -/
  | dataFlit (port : Nat) (flit : Flit)
  /-- IDLE_FLIT (R684). -/
  | idleFlit (port : Nat) (flit : Flit)
  /-- NAK_FLIT (R679). -/
  | nakFlit (port : Nat) (flit : Flit)
  /-- TIME_FLIT (R674). -/
  | timeFlit (port : Nat) (flit : Flit)
  /-- INIT_FLIT (R712). -/
  | initFlit (port : Nat) (flit : Flit)
  /-- FLIT_SLOT (R687). -/
  | flitSlot (port : Nat)
  /-- ACK_TIMER (R680). -/
  | ackTimer (port : Nat)
  /-- RETRY_TIMEOUT (R681). -/
  | retryTimeout (port : Nat)
  /-- TRAINING_COMPLETE (R711). -/
  | trainingComplete (port : Nat)
  /-- TRAIN_TIMEOUT (R714). -/
  | trainTimeout (port : Nat)
  /-- RETRAIN_WAIT_END (R711). -/
  | retrainWaitEnd (port : Nat)
  /-- LOS (R714). -/
  | los (port lanes : Nat)
  /-- FEC_LOCK (R714). -/
  | fecLock (port : Nat)
  /-- SILENCE (R714). -/
  | silence (port : Nat)
  /-- SYMBOL_ERRORS (R714). -/
  | symbolErrors (port lanes : Nat)
  /-- LANE_POWER_SAMPLE (R718). -/
  | lanePowerSample (lane : Nat) (power : Int)
  /-- LASER_SAMPLE (R721). -/
  | laserSample (port bias : Nat) (power : Int) (fault : Bool)
  /-- PORT_DOWN (R717). -/
  | portDown (port : Nat)
  /-- GRANT (R748). -/
  | grant (port : Nat)
  /-- REFUSE (R747). -/
  | refuse (port : Nat)
  /-- RESERVE_TIMEOUT (R747). -/
  | reserveTimeout (e plane : Nat)
  /-- CHUNK (R756). -/
  | chunk (c plane : Nat)
  /-- RESULT (R762). -/
  | result (port : Nat)
  /-- PASS (R778). -/
  | pass (port : Nat)
  /-- REDUCE_CHUNK_DONE (R781). -/
  | reduceChunkDone (c plane : Nat)
  /-- POISON (R773). -/
  | poison (port : Nat)
  /-- SEAL (R766). -/
  | seal (port : Nat)
  /-- SEAL_WAIT_END (R766). -/
  | sealWaitEnd (c plane : Nat)
  /-- VERDICT (R767). -/
  | verdict (port : Nat)
  /-- VERDICT_TIMEOUT (R787). -/
  | verdictTimeout (c plane : Nat)
  /-- CONTRAIL_ENTRY_WRITE (R1013). -/
  | contrailEntryWrite
  /-- FLR_PF1 (R867). -/
  | flrPf1
  /-- MB_TIMEOUT (R886). -/
  | mbTimeout
  /-- VF_ENABLE_SET (R854). -/
  | vfEnableSet (numVfs : Nat)
  /-- PCIE_LINK_UP (R827). -/
  | pcieLinkUp (gen width : Nat)
  /-- DYNAMIC_ADDRESS_ASSIGNMENT (R898). -/
  | dynamicAddressAssignment (addr : Nat)
  /-- PRIVATE_SCAN_INSTRUCTION (R1034). -/
  | privateScanInstruction (code : Nat)
  /-- CORRUPT_FLIT (R674). -/
  | corruptFlit (port : Nat) (why : CorruptKind)
deriving DecidableEq, Repr

end Sys2Proof
end

