-- ==== Sys2Proof/Config.lean ====
section
/-!
DEFINITION. The free values of the model: what the specification leaves open. Each is an opaque constant without a body, so
nothing can be proved about its value. Where a fresh value is needed at each use, the constant is applied to the counter
`fresh` of the state.
-/
namespace Sys2Proof

/-- A free 64-bit word: the value of any undefined or unstated result, at a use numbered by the argument
(log entry 8). -/
opaque Config.freeWord : Nat → BitVec 64

/-- The outcome of reading a word that has never been written (R648), by word address and use: the data, or a bus error
that is uncorrectable (`none`) (log entry 9). -/
opaque Config.unwrittenWord : Nat → Nat → Option (BitVec 64)

/-- The set of the memory-side cache in which a base die holds a line, by base die and line number; the specification gives
the sets and ways (R572) and no mapping (log entry 10). -/
opaque Config.cacheSet : Nat → Nat → Nat

/-- FP32 bits that the polynomials of the function stage give (R275), by function code (0 exp, 1 log, 2 recip, 3 rsqrt), segment and reduced
argument: f of exp in units of 2^-40, m of the others as FP32 bits (log entry 11). -/
opaque Config.polynomial : Nat → Nat → Nat → BitVec 32

/-- t = x * log2(e) of exp for an FP32 argument, in units of 2^-40, as its 48-bit product gives it: R275 does not say how the product is cut
(log entry 11). -/
opaque Config.expProduct : BitVec 32 → Int

/-- SHA-384 of an octet string (R906, R907, R924): 48 bytes (log entry 12). -/
opaque Config.sha384 : List Byte → List Byte

/-- Whether an ECDSA signature over a digest verifies under a named key (log entry 12). -/
opaque Config.ecdsaVerify : Nat → List Byte → List Byte → Bool

/-- Whether an LMS signature over a digest verifies under a named key (log entry 12). -/
opaque Config.lmsVerify : Nat → List Byte → List Byte → Bool

/-- The 448-bit output of HMAC-SHA-384 of a device secret over the fixed label of the ECDSA identity key (R919; log entry 12). -/
opaque Config.identityBits : List Byte → Nat

/-- HMAC-SHA-256 of a device secret under the fixed label of a number (R920; log entry 12). -/
opaque Config.identityHmac : List Byte → Nat → List Byte

/-- An ECDSA signature by a private scalar over a digest, at a use (log entry 12). -/
opaque Config.ecdsaSign : Nat → Nat → List Byte → List Byte

/-- A signature by a two-level HSS key, the seed and the identifier of each level, with the leaf index used, over a digest (log entry 12). -/
opaque Config.hssSign : List (List Byte) → Nat → List Byte → List Byte

/-- A certificate of the part (R939), 0 ECDSA identity, 1 HSS identity, 2 issuer: its octets (log entry 12). -/
opaque Config.certificate : Nat → List Byte

/-- The octets of the boot ROM that M_ROM measures (R924; log entry 12). -/
opaque Config.bootRom : List Byte

/-- A random nonce or code drawn by the part at a use (log entry 12). -/
opaque Config.random : Nat → List Byte

/-- The output power recorded for a laser at manufacture, in 0.1 dBm, by port (R721; log entry 36). -/
opaque Config.laserMade : Nat → Int

/-- The offset in the configuration space of a function (0 PF0, v VF v, 64 PF1) of the first word of its MSI-X capability, with MSI-X Enable
and Function Mask in bits 31 and 30, and of the Resizable BAR Control of PF0's BAR2, with the BAR size in bits [13:8]: PCI Express gives the
words, and no one gives their places (log entry 16). -/
opaque Config.msixControlAt : Nat → Nat
opaque Config.barControlAt : Nat
/-- The offset of the power management control word of a function, with the power state in bits [1:0] (log entry 16). -/
opaque Config.powerControlAt : Nat → Nat

/-- The frequency of the source against REF_IN that a LOCKED part has learned at a use, in parts of 9,000,000 ns for each a-cycle (R447; log
entry 60). -/
opaque Config.learnedRate : Nat → Int

end Sys2Proof
end

