-- ==== Sys2Proof/Machine/Sparse.lean ====
section
/-!
DEFINITION. Sparse tables: lists of index and value pairs kept in rising index order by every operation, so that tables
with equal contents are equal data. Every register array, memory and table of units in the state is one of these.
-/
namespace Sys2Proof.Machine

/-- A sparse table: (index, value) pairs. -/
abbrev Sp (α : Type) := List (Nat × α)

/-- The value at an index, if the table lists one. -/
def Sp.get? {α : Type} : Sp α → Nat → Option α
  | [], _ => none
  | (k', v) :: r, k => if k' = k then some v else Sp.get? r k

/-- The value at an index, or a default where the table lists none. -/
def Sp.getD {α : Type} (m : Sp α) (k : Nat) (d : α) : α := (Sp.get? m k).getD d

/-- The table with a value stored at an index. -/
def Sp.put {α : Type} : Sp α → Nat → α → Sp α
  | [], k, v => [(k, v)]
  | (k', v') :: r, k, v =>
    if k' = k then (k, v) :: r
    else if k < k' then (k, v) :: (k', v') :: r
    else (k', v') :: Sp.put r k v

/-- The table without an index. -/
def Sp.del {α : Type} (m : Sp α) (k : Nat) : Sp α := m.filter (fun e => e.1 ≠ k)

/-- The table with a value stored at an index, where storing the default removes the entry. -/
def Sp.setD {α : Type} [DecidableEq α] (m : Sp α) (k : Nat) (v d : α) : Sp α :=
  if v = d then Sp.del m k else Sp.put m k v

/-- The table with the value at an index changed by a function of it. -/
def Sp.modify {α : Type} (m : Sp α) (k : Nat) (d : α) (f : α → α) : Sp α :=
  Sp.put m k (f (Sp.getD m k d))

/-- The canonical form: indices strictly rise. -/
def Sp.sorted {α : Type} : Sp α → Bool
  | [] => true
  | [_] => true
  | (k, _) :: (k', v') :: r => decide (k < k') && Sp.sorted ((k', v') :: r)

end Sys2Proof.Machine
end

