-- ==== Sys2Proof/Machine/Regs.lean ====
section
/-!
DEFINITION. The register fields of the part: one constructor of `FKind` per field of the field maps of spec/, under the
field's manual name, with its block (R840), its access code (R10), its width and its reset value; and the table of
registers at their BAR0 offsets. Fields marked "from start-up" or "from record" have reset value 0 here and are loaded
by the start-up commands. A field with access `derived` is computed from other state whenever it is read.
-/
namespace Sys2Proof.Machine

/-- The register blocks of R840, and the registers that only the secure and management channels hold. -/
inductive Block where
  /-- Host, interrupts and mailboxes (R903). -/
  | host
  /-- Arrays and fencing (R75). -/
  | array
  /-- Quantisation counters (R119). -/
  | quant
  /-- Semaphores (R197). -/
  | sem
  /-- Watch slots (R318). -/
  | watch
  /-- Flasks, ladles and rings (R559). -/
  | ladle
  /-- Almanac (R485). -/
  | almanac
  /-- Memory, segments and bays (R567). -/
  | memory
  /-- Integrity (R659). -/
  | integrity
  /-- Fabric (R723). -/
  | fabric
  /-- Collectives (R791). -/
  | coll
  /-- Riser (R824). -/
  | riser
  /-- Pattern tables (R439). -/
  | table
  /-- Power, thermal and modes (R971). -/
  | power
  /-- Start-up (R1005). -/
  | startup
  /-- Contrail, probes and test (R1042). -/
  | contrail
  /-- Secure channel registers (R936, R937). -/
  | sec
  /-- Registers of the management port windows alone (R1022, R1025). -/
  | mgt
deriving DecidableEq, Repr

/-- Access codes of R10; `derived` marks a read-only field whose value other state determines. -/
inductive Acc where
  | ro | rw | w1c | w1s | rc | derived
deriving DecidableEq, Repr

/-- One constructor per register field; the index of a register array is given beside it. -/
inductive FKind where
  /-- DEVICE_ID of HOST_ID. -/
  | hostDeviceId
  /-- ORDER of HOST_ID. -/
  | hostOrder
  /-- STEPPING of HOST_ID. -/
  | hostStepping
  /-- GEN of HOST_LINK. -/
  | linkGen
  /-- WIDTH of HOST_LINK. -/
  | linkWidth
  /-- FLIT of HOST_LINK. -/
  | linkFlit
  /-- NUM_VF of HOST_LINK. -/
  | linkNumVf
  /-- VF_ENABLE of HOST_LINK. -/
  | linkVfEnable
  /-- ADDR of BAR2_WIN. -/
  | bar2Win
  /-- CAUSE of HOST_INT_CAUSE. -/
  | hostIntCause
  /-- ENABLES of HOST_INT_EN. -/
  | hostIntEn
  /-- ARMED of CQ_ARMED. -/
  | cqArmed
  /-- ARMED of EQ_ARMED. -/
  | eqArmed
  /-- VECTOR of INT_ROUTE. -/
  | intRoute
  /-- GO of MBOX_CTRL. -/
  | mboxGo
  /-- INT_EN of MBOX_CTRL. -/
  | mboxIntEn
  /-- CMD of MBOX_CTRL. -/
  | mboxCmd
  /-- SEQ of MBOX_CTRL. -/
  | mboxSeq
  /-- DONE of MBOX_ACK. -/
  | mboxDone
  /-- RC of MBOX_ACK. -/
  | mboxRc
  /-- SEQ_ECHO of MBOX_ACK. -/
  | mboxSeqEcho
  /-- VALUE of MBOX_DATA. -/
  | mboxData
  /-- WORD_EN of WMB_CFG. -/
  | wmbWordEn
  /-- MGR_DEVICE of WMB_CFG. -/
  | wmbMgrDevice
  /-- WORD of WMB_IN. -/
  | wmbIn
  /-- WORD of WMB_OUT. -/
  | wmbOut
  /-- FULL of WMB_STATUS. -/
  | wmbFull
  /-- OPEN of WMB_STATUS. -/
  | wmbOpen
  /-- NEXT of WMB_STATUS. -/
  | wmbNext
  /-- COUNT of WMB_REJECT. -/
  | wmbReject
  /-- ADDR of VF_WIN. -/
  | vfWin
  /-- ADDR_LO of MSIX_ADDR_LO. -/
  | msixAddrLo
  /-- ADDR_HI of MSIX_ADDR_HI. -/
  | msixAddrHi
  /-- DATA of MSIX_DATA. -/
  | msixData
  /-- MASK of MSIX_CTRL. -/
  | msixMask
  /-- PENDING of MSIX_PBA. -/
  | msixPba
  /-- COLUMNS of ARRAY_GRID. -/
  | gridColumns
  /-- GRID_ROWS of ARRAY_GRID. -/
  | gridRows
  /-- DIES of ARRAY_GRID. -/
  | gridDies
  /-- FENCED of FENCE_COUNT. -/
  | fenceCount
  /-- ROUTE_FENCED of FENCE_COUNT. -/
  | routeFenceCount
  /-- NEW_FENCE of FENCE_STATUS. -/
  | newFence
  /-- NEW_ROUTE_FENCE of FENCE_STATUS. -/
  | newRouteFence
  /-- MAP of FENCE_MAP. -/
  | fenceMap
  /-- MAP of ROUTE_FENCE_MAP. -/
  | routeFenceMap
  /-- CAUSE of FENCE_CAUSE. -/
  | fenceCause
  /-- PARITY_COUNT of FENCE_CAUSE. -/
  | parityCount
  /-- UE_COUNT of FENCE_CAUSE. -/
  | ueCount
  /-- COUNT of QUANT_VANISHED. -/
  | quantVanished
  /-- COUNT of QUANT_SATURATED. -/
  | quantSaturated
  /-- COUNT of QUANT_NAN. -/
  | quantNan
  /-- VALUE of SEM. -/
  | sem
  /-- ENABLE of WATCH_CFG. -/
  | watchEnable
  /-- STOP_HEAT of WATCH_CFG. -/
  | watchStopHeat
  /-- K of WATCH_CFG. -/
  | watchK
  /-- HIGH_RATIO of WATCH_CFG. -/
  | watchHighRatio
  /-- LOW_RATIO of WATCH_CFG. -/
  | watchLowRatio
  /-- VANISH_LIMIT of WATCH_LIMITS. -/
  | watchVanishLimit
  /-- SAT_LIMIT of WATCH_LIMITS. -/
  | watchSatLimit
  /-- AVG of WATCH_AVG. -/
  | watchAvg
  /-- LAST_RMS of WATCH_LAST. -/
  | watchLast
  /-- SEEDED of WATCH_STATUS. -/
  | watchSeeded
  /-- FLAG_HIGH of WATCH_STATUS. -/
  | watchFlagHigh
  /-- FLAG_LOW of WATCH_STATUS. -/
  | watchFlagLow
  /-- FLAG_NAN of WATCH_STATUS. -/
  | watchFlagNan
  /-- FLAG_VANISH of WATCH_STATUS. -/
  | watchFlagVanish
  /-- FLAG_SAT of WATCH_STATUS. -/
  | watchFlagSat
  /-- FLAG_COUNT of WATCH_STATUS. -/
  | watchFlagCount
  /-- BASE of WATCH_ALLOT. -/
  | watchBase
  /-- COUNT of WATCH_ALLOT. -/
  | watchCount
  /-- STORM_LIMIT of STORM_CFG. -/
  | stormLimit
  /-- ENABLED of FLASK_CTRL. -/
  | flaskEnabled
  /-- RESET of FLASK_CTRL. -/
  | flaskReset
  /-- CQ_INT_EN of FLASK_CTRL. -/
  | cqIntEn
  /-- EQ_INT_EN of FLASK_CTRL. -/
  | eqIntEn
  /-- RESET_BUSY of FLASK_STATUS. -/
  | resetBusy
  /-- CQ_FULL of FLASK_STATUS. -/
  | cqFull
  /-- EQ_OVERFLOW of FLASK_STATUS. -/
  | eqOverflow
  /-- ELIGIBLE of FLASK_STATUS. -/
  | flaskEligible
  /-- ARRAYS_OWNED of FLASK_STATUS. -/
  | arraysOwned
  /-- ADDR_LO of CQ_BASE_LO. -/
  | cqBaseLo
  /-- ADDR_HI of CQ_BASE_HI. -/
  | cqBaseHi
  /-- SIZE_LOG2 of CQ_CFG. -/
  | cqSizeLog2
  /-- ENABLE of CQ_CFG. -/
  | cqEnable
  /-- HEAD of CQ_HEAD. -/
  | cqHead
  /-- TAIL of CQ_TAIL. -/
  | cqTail
  /-- ADDR_LO of EQ_BASE_LO. -/
  | eqBaseLo
  /-- ADDR_HI of EQ_BASE_HI. -/
  | eqBaseHi
  /-- SIZE_LOG2 of EQ_CFG. -/
  | eqSizeLog2
  /-- ENABLE of EQ_CFG. -/
  | eqEnable
  /-- HEAD of EQ_HEAD. -/
  | eqHead
  /-- TAIL of EQ_TAIL. -/
  | eqTail
  /-- LOST of EQ_LOST. -/
  | eqLost
  /-- ADDR_LO of SAVE_BASE_LO. -/
  | saveBaseLo
  /-- ADDR_HI of SAVE_BASE_HI. -/
  | saveBaseHi
  /-- ADDR_LO of LADLE_BASE_LO. -/
  | ladleBaseLo
  /-- ADDR_HI of LADLE_BASE_HI. -/
  | ladleBaseHi
  /-- SIZE_LOG2 of LADLE_CFG. -/
  | ladleSizeLog2
  /-- ENABLE of LADLE_CFG. -/
  | ladleEnable
  /-- HEAD of LADLE_HEAD. -/
  | ladleHead
  /-- TAIL of LADLE_TAIL. -/
  | ladleTail
  /-- STATE of LADLE_STATUS. -/
  | ladleState
  /-- TAIL_ERROR of LADLE_STATUS. -/
  | tailError
  /-- HEAT_RUNNING of LADLE_STATUS. -/
  | heatRunning
  /-- IN_FLIGHT of LADLE_STATUS. -/
  | inFlight
  /-- STOP_CODE of LADLE_STATUS. -/
  | stopCode
  /-- RESUME of LADLE_CTRL. -/
  | ladleResume
  /-- ABORT of LADLE_CTRL. -/
  | ladleAbort
  /-- INDEX of LADLE_ABORT_INDEX. -/
  | ladleAbortIndex
  /-- PASS of HEAT_STATUS. -/
  | heatPass
  /-- SECTION of HEAT_STATUS. -/
  | heatSection
  /-- STOP_PENDING of HEAT_STATUS. -/
  | heatStopPending
  /-- FLASKS of SLICE_ELIGIBLE. -/
  | sliceEligible
  /-- FLASK of ARRAY_OWNER. -/
  | arrayOwnerFlask
  /-- OWNED of ARRAY_OWNER. -/
  | arrayOwned
  /-- NOW_LO of ALMANAC_NOW_LO. -/
  | nowLo
  /-- NOW_HI of ALMANAC_NOW_HI. -/
  | nowHi
  /-- LOCK_STATE of TIME_STATUS. -/
  | lockState
  /-- SOURCE of TIME_STATUS. -/
  | timeSource
  /-- TIME_PORT of TIME_STATUS. -/
  | timePort
  /-- LOCK_LOST of TIME_STATUS. -/
  | lockLost
  /-- LATE_FIRE of TIME_STATUS. -/
  | lateFire
  /-- EPOCH_CHANGED of TIME_STATUS. -/
  | epochChanged
  /-- EPOCH_ID of TIME_STATUS. -/
  | epochId
  /-- SOURCE_SEL of TIME_CFG. -/
  | sourceSel
  /-- TIME_PLANE of TIME_CFG. -/
  | timePlane
  /-- HOLDOVER_LIMIT of TIME_CFG. -/
  | holdoverLimit
  /-- DEFER_LEAD of TIME_CFG. -/
  | deferLead
  /-- DEFER_POLICY of TIME_CFG. -/
  | deferPolicy
  /-- QUANTUM_US of TIME_QUANTUM. -/
  | quantumUs
  /-- DEFERS_SENT of TIME_QUANTUM. -/
  | defersSent
  /-- ABANDONS_SENT of TIME_QUANTUM. -/
  | abandonsSent
  /-- OFFSET of TIME_OFFSET. -/
  | timeOffset
  /-- TICK_DELAY of TICK_CFG. -/
  | tickDelay
  /-- TICK_LOAD_ARM of TICK_CFG. -/
  | tickLoadArm
  /-- LOAD_LO of TICK_LOAD_LO. -/
  | tickLoadLo
  /-- LOAD_HI of TICK_LOAD_HI. -/
  | tickLoadHi
  /-- DELAY of PORT_DELAY. -/
  | portDelay
  /-- VALID of PORT_DELAY. -/
  | portDelayValid
  /-- ASYM of PORT_ASYM. -/
  | portAsym
  /-- TIME of ALMANAC_ENTRY_00. -/
  | entTime
  /-- PERIOD of ALMANAC_ENTRY_08. -/
  | entPeriod
  /-- REPEAT of ALMANAC_ENTRY_08. -/
  | entRepeat
  /-- KIND of ALMANAC_ENTRY_10. -/
  | entKind
  /-- STATE of ALMANAC_ENTRY_10. -/
  | entState
  /-- FLASK of ALMANAC_ENTRY_10. -/
  | entFlask
  /-- FLASK_EN of ALMANAC_ENTRY_10. -/
  | entFlaskEn
  /-- LATE of ALMANAC_ENTRY_10. -/
  | entLate
  /-- DEFERS of ALMANAC_ENTRY_10. -/
  | entDefers
  /-- READY_SEM of ALMANAC_ENTRY_10. -/
  | entReadySem
  /-- DURATION of ALMANAC_ENTRY_10. -/
  | entDuration
  /-- ARG of ALMANAC_ENTRY_18. -/
  | entArg
  /-- MODE of MEM_CFG. -/
  | memMode
  /-- FAST_INTERLEAVE of MEM_CFG. -/
  | fastInterleave
  /-- PIN_RESERVE of MEM_CFG. -/
  | pinReserve
  /-- STACK_GIB of MEM_CFG. -/
  | stackGib
  /-- STACK_MASK of PIN_CFG. -/
  | pinStackMask
  /-- GIB_PER_STACK of PIN_CFG. -/
  | pinGibPerStack
  /-- VALID of PIN_CFG. -/
  | pinValid
  /-- BASE_GIB of PIN_BASE. -/
  | pinBaseGib
  /-- COUNT of CACHE_HIT. -/
  | cacheHit
  /-- COUNT of CACHE_MISS. -/
  | cacheMiss
  /-- COUNT of CACHE_DROP. -/
  | cacheDrop
  /-- BUSY of RUNNER_STATUS. -/
  | runnerBusy
  /-- QUEUED of RUNNER_STATUS. -/
  | runnerQueued
  /-- ALLOT_FAST of ALLOT_FAST. -/
  | allotFast
  /-- USED_FAST of USED_FAST. -/
  | usedFast
  /-- ALLOT_STACK of ALLOT_STACK. -/
  | allotStack
  /-- USED_STACK of USED_STACK. -/
  | usedStack
  /-- ALLOT_BAYS of ALLOT_BAYS. -/
  | allotBays
  /-- USED_BAYS of ALLOT_BAYS. -/
  | usedBays
  /-- ALLOT_JOURNAL of ALLOT_JOURNAL. -/
  | allotJournal
  /-- STATE of BAY_MAP. -/
  | bayState
  /-- FLASK of BAY_MAP. -/
  | bayFlask
  /-- DEVICE of BAY_MAP. -/
  | bayDevice
  /-- LENDER_GIB of BAY_MAP. -/
  | bayLenderGib
  /-- DEADLINE_ENTRY of BAY_MAP. -/
  | bayDeadlineEntry
  /-- DEADLINE_SET of BAY_MAP. -/
  | bayDeadlineSet
  /-- LENT of LEND_MAP. -/
  | lent
  /-- DEVICE of LEND_MAP. -/
  | lentDevice
  /-- BAY of LEND_MAP. -/
  | lentBay
  /-- BASE of SEG_ENTRY_00. -/
  | segBase
  /-- LIMIT of SEG_ENTRY_08. -/
  | segLimit
  /-- VALID of SEG_ENTRY_10. -/
  | segValid
  /-- TIER of SEG_ENTRY_10. -/
  | segTier
  /-- HINT of SEG_ENTRY_10. -/
  | segHint
  /-- READ of SEG_ENTRY_10. -/
  | segRead
  /-- WRITE of SEG_ENTRY_10. -/
  | segWrite
  /-- REMOTE_READ of SEG_ENTRY_10. -/
  | segRemoteRead
  /-- REMOTE_WRITE of SEG_ENTRY_10. -/
  | segRemoteWrite
  /-- USER of SEG_ENTRY_18. -/
  | segUser
  /-- POISON_CPL of ECC_CFG. -/
  | poisonCpl
  /-- UE_INT_EN of ECC_CFG. -/
  | ueIntEn
  /-- CE_INT_EN of ECC_CFG. -/
  | ceIntEn
  /-- CE_THRESHOLD of ECC_CFG. -/
  | ceThreshold
  /-- UE_SEEN of ECC_STATUS. -/
  | ueSeen
  /-- CE_OVER of ECC_STATUS. -/
  | ceOver
  /-- LOG_OVERRUN of ECC_STATUS. -/
  | logOverrun
  /-- SCRUB_SKIPPED of ECC_STATUS. -/
  | scrubSkipped
  /-- SCRUB_BW of SCRUB_CFG. -/
  | scrubBw
  /-- TAIL of ERR_LOG_TAIL. -/
  | errLogTail
  /-- HEAD of ERR_LOG_HEAD. -/
  | errLogHead
  /-- COUNT of ECC_CE. -/
  | eccCe
  /-- COUNT of ECC_UE. -/
  | eccUe
  /-- COUNT of ECC_CE_SRAM. -/
  | eccCeSram
  /-- COUNT of ECC_UE_SRAM. -/
  | eccUeSram
  /-- COUNT of ECC_CE_ARRAY. -/
  | eccCeArray
  /-- COUNT of ECC_UE_ARRAY. -/
  | eccUeArray
  /-- COUNT of POISON_READS. -/
  | poisonReads
  /-- PAGE of SCRUB_POS. -/
  | scrubPos
  /-- PASSES of SCRUB_PASSES. -/
  | scrubPasses
  /-- ADDR of ERR_LOG_00. -/
  | errAddr
  /-- STORE of ERR_LOG_00. -/
  | errStore
  /-- KIND of ERR_LOG_00. -/
  | errKind
  /-- REQUESTER of ERR_LOG_00. -/
  | errRequester
  /-- FLASK of ERR_LOG_00. -/
  | errFlask
  /-- TIME of ERR_LOG_08. -/
  | errTime
  /-- MASK of ERR_LOG_10. -/
  | errMask
  /-- DEVICE of ERR_LOG_10. -/
  | errDevice
  /-- DEVICE of FABRIC_ID. -/
  | fabDevice
  /-- PLANES of FABRIC_ID. -/
  | fabPlanes
  /-- MODE of FABRIC_CFG. -/
  | fabMode
  /-- W_TC1 of FABRIC_CFG. -/
  | wTc1
  /-- W_TC2 of FABRIC_CFG. -/
  | wTc2
  /-- W_TC3 of FABRIC_CFG. -/
  | wTc3
  /-- PORTS_UP of FABRIC_STATUS. -/
  | portsUp
  /-- PORT_EVENT of FABRIC_STATUS. -/
  | portEvent
  /-- POWER_EVENT of FABRIC_STATUS. -/
  | fabPowerEvent
  /-- COUNT of BAD_PKT. -/
  | badPkt
  /-- COUNT of E2E_ERR. -/
  | e2eErr
  /-- COUNT of STALE_RESP. -/
  | staleResp
  /-- LOW_WARN of RX_THRESH. -/
  | rxLowWarn
  /-- LOW_ALARM of RX_THRESH. -/
  | rxLowAlarm
  /-- ENABLE of PORT_CFG. -/
  | portEnable
  /-- PLANE of PORT_CFG. -/
  | portPlane
  /-- STATE of PORT_STATUS. -/
  | portState
  /-- LANE_FAULT of PORT_STATUS. -/
  | laneFault
  /-- DOWN_CAUSE of PORT_STATUS. -/
  | downCause
  /-- FAILED_TRAININGS of PORT_STATUS. -/
  | failedTrainings
  /-- DOWN_EVENTS of PORT_STATUS. -/
  | downEvents
  /-- COUNT of PORT_RETRY. -/
  | portRetry
  /-- COUNT of PORT_CRC_ERR. -/
  | portCrcErr
  /-- COUNT of PORT_FEC_CORR. -/
  | portFecCorr
  /-- COUNT of PORT_FEC_UNCORR. -/
  | portFecUncorr
  /-- RX_POWER of LANE_RX. -/
  | rxPower
  /-- LOS of LANE_RX. -/
  | laneLos
  /-- LOW_WARN of LANE_RX. -/
  | laneLowWarn
  /-- LOW_ALARM of LANE_RX. -/
  | laneLowAlarm
  /-- HIGH_ALARM of LANE_RX. -/
  | laneHighAlarm
  /-- BIAS of LASER. -/
  | laserBias
  /-- TX_POWER of LASER. -/
  | laserTxPower
  /-- FAULT of LASER. -/
  | laserFault
  /-- AGED of LASER. -/
  | laserAged
  /-- LEN_0 of POD_GRID_0. -/
  | gridLen0
  /-- LEN_1 of POD_GRID_0. -/
  | gridLen1
  /-- LEN_2 of POD_GRID_1. -/
  | gridLen2
  /-- LEN_3 of POD_GRID_1. -/
  | gridLen3
  /-- CONTEXTS of COLL_STATUS. -/
  | collContexts
  /-- GRID_VALID of COLL_STATUS. -/
  | gridValid
  /-- COUNT of REFUSED. -/
  | collRefusals
  /-- COUNT of PASSED. -/
  | collPassed
  /-- COUNT of SEAL_FAIL. -/
  | sealFail
  /-- COUNT of STALE_COLL. -/
  | staleColl
  /-- ADDR_LO of COLL_TABLE_LO. -/
  | collTableLo
  /-- ADDR_HI of COLL_TABLE_HI. -/
  | collTableHi
  /-- GROUP_ID of GROUP_W0. -/
  | groupId
  /-- FLASK of GROUP_W0. -/
  | groupFlask
  /-- VALID of GROUP_W0. -/
  | groupValid
  /-- RANK of GROUP_W1. -/
  | groupRank
  /-- MEMBERS of GROUP_W1. -/
  | groupMembers
  /-- MEMBER of GROUP_W1. -/
  | groupMember
  /-- START of GROUP_AXIS. -/
  | groupStart
  /-- EXTENT of GROUP_AXIS. -/
  | groupExtent
  /-- STRIDE of GROUP_AXIS. -/
  | groupStride
  /-- STATE of COLL_CTX_W0. -/
  | ctxState
  /-- FLASK of COLL_CTX_W0. -/
  | ctxFlask
  /-- ATTEMPT of COLL_CTX_W0. -/
  | ctxAttempt
  /-- PASSED of COLL_CTX_W0. -/
  | ctxPassed
  /-- COLL_ID of COLL_CTX_W0. -/
  | ctxCollId
  /-- GROUP_ID of COLL_CTX_W1. -/
  | ctxGroupId
  /-- LANDED of COLL_CTX_W2. -/
  | ctxLanded
  /-- COUNT of REPLAYS. -/
  | replays
  /-- COUNT of REPLAYS_FAILED. -/
  | replaysFailed
  /-- REPLAY_EN of RISER_CFG. -/
  | replayEn
  /-- WAIT_LIMIT of RISER_CFG. -/
  | waitLimit
  /-- ADDR_LO of JOURNAL_BASE_LO. -/
  | journalBaseLo
  /-- ADDR_HI of JOURNAL_BASE_HI. -/
  | journalBaseHi
  /-- HAS_RISER of RISER_STATUS. -/
  | hasRiser
  /-- REPLAYING of RISER_STATUS. -/
  | replaying
  /-- ATTEMPT of RISER_STATUS. -/
  | riserAttempt
  /-- SLOT of RISER_STATUS. -/
  | riserSlot
  /-- LAST_CODE of RISER_STATUS. -/
  | riserLastCode
  /-- INDEX of RISER_MARK. -/
  | riserMark
  /-- VALID of TABLE_CFG. -/
  | tableValid
  /-- FORMAT of TABLE_CFG. -/
  | tableFormat
  /-- ROW_ELEMS_32 of TABLE_CFG. -/
  | tableRowElems32
  /-- OWNER of TABLE_CFG. -/
  | tableOwner
  /-- RETIRE_SIG_EN of TABLE_CFG. -/
  | tableRetireSigEn
  /-- RETIRE_SEM of TABLE_CFG. -/
  | tableRetireSem
  /-- ROWS_M1 of TABLE_ROWS. -/
  | tableRowsM1
  /-- ADDR of TABLE_BASE_A. -/
  | tableBaseA
  /-- ADDR of TABLE_BASE_B. -/
  | tableBaseB
  /-- STATE_A of TABLE_STATUS. -/
  | tableStateA
  /-- STATE_B of TABLE_STATUS. -/
  | tableStateB
  /-- INFLIGHT_A of TABLE_STATUS. -/
  | tableInflightA
  /-- INFLIGHT_B of TABLE_STATUS. -/
  | tableInflightB
  /-- GEN_A of TABLE_GEN. -/
  | tableGenA
  /-- GEN_B of TABLE_GEN. -/
  | tableGenB
  /-- ENVELOPE of PWR_CFG. -/
  | envelope
  /-- STRICTNESS of PWR_CFG. -/
  | strictness
  /-- SCRUB_RATE of PWR_CFG. -/
  | scrubRate
  /-- GOVERNED of PWR_EVENT. -/
  | pwrGoverned
  /-- STACK_CLASS of PWR_EVENT. -/
  | pwrStackClass
  /-- DIE_CLASS of PWR_EVENT. -/
  | pwrDieClass
  /-- INPUT_WARN of PWR_EVENT. -/
  | pwrInputWarn
  /-- COUNT of TELEM_DROPPED. -/
  | telemDropped
  /-- VOLTS of PWR_IN. -/
  | pwrVolts
  /-- AMPS of PWR_IN. -/
  | pwrAmps
  /-- WATTS of PWR_IN_W. -/
  | pwrWatts
  /-- DUTY of DUTY_STATUS. -/
  | duty
  /-- STACK_CAP of DUTY_STATUS. -/
  | stackCap
  /-- TEMP of STACK_TEMP. -/
  | stackTemp
  /-- CLASS of STACK_TEMP. -/
  | stackClass
  /-- TEMP of DIE_TEMP. -/
  | dieTemp
  /-- CLASS of DIE_TEMP. -/
  | dieClass
  /-- TEMP of ENGINE_TEMP. -/
  | engineTemp
  /-- CLASS of ENGINE_TEMP. -/
  | engineClass
  /-- PHASE of STARTUP_STATE. -/
  | startPhase
  /-- START_CAUSE of STARTUP_STATE. -/
  | startCause
  /-- FAIL_CAUSE of STARTUP_STATE. -/
  | failCause
  /-- MS_TO_READY of STARTUP_TIME. -/
  | msToReady
  /-- RESULT of STACK_QUAL. -/
  | qualResult
  /-- ATTEMPTS of STACK_QUAL. -/
  | qualAttempts
  /-- FAILED_CHANNELS of STACK_QUAL. -/
  | qualFailedChannels
  /-- SLOT of CT_SEL. -/
  | ctSlot
  /-- REGION of CT_SEL. -/
  | ctRegion
  /-- SEQ of CT_SEQ. -/
  | ctSeq
  /-- FF_COUNT of CT_FF. -/
  | ffCount
  /-- FF_FULL of CT_FF. -/
  | ffFull
  /-- COUNT of CT_LOST. -/
  | ctLost
  /-- FF_NEW of CT_ALERT. -/
  | ffNew
  /-- WORD of CT_ENTRY. -/
  | ctEntry
  /-- GROUP of PROBE_CFG. -/
  | probeGroup
  /-- DIV of PROBE_CFG. -/
  | probeDiv
  /-- ENABLE of PROBE_CFG. -/
  | probeEnable
  /-- ACT_FLASK of PROBE_CFG. -/
  | probeActFlask
  /-- DENIED of PROBE_STATUS. -/
  | probeDenied
  /-- UNLOCKED of PROBE_STATUS. -/
  | probeUnlocked
  /-- RESULT of TGEN_STATUS. -/
  | tgenResult
  /-- FAILED_CHANNELS of TGEN_STATUS. -/
  | tgenFailed
  /-- LIFECYCLE of SEC_STATUS. -/
  | lifecycle
  /-- RUN_BANK of SEC_STATUS. -/
  | runBank
  /-- PREFERRED of SEC_STATUS. -/
  | preferredBank
  /-- RUN_TRIAL of SEC_STATUS. -/
  | runTrial
  /-- RECOVERY of SEC_STATUS. -/
  | recovery
  /-- IDLE_VERIFIED of SEC_STATUS. -/
  | idleVerified
  /-- FW_SVN of SEC_STATUS. -/
  | fwSvn
  /-- TOKEN_SVN of SEC_STATUS. -/
  | tokenSvn
  /-- PTR of BUF_PTR. -/
  | bufPtr
  /-- SLOT of MGT_CT_SEL. -/
  | mgtCtSlot
  /-- REGION of MGT_CT_SEL. -/
  | mgtCtRegion
deriving DecidableEq, Repr

/-- What a field map says of a field: its block, access code, width in bits, reset value, and the amount by which the
reset value grows with the register's index (INT_ROUTE_i resets to i, WATCH_ALLOT_f BASE to 64f). -/
structure FInfo where
  block : Block
  acc : Acc
  width : Nat
  reset : Nat
  step : Nat
deriving DecidableEq, Repr

/-- The field maps of the register blocks. -/
def FKind.info : FKind → FInfo
  | .hostDeviceId => ⟨.host, .ro, 16, 0x9160, 0⟩
  | .hostOrder => ⟨.host, .ro, 2, 0, 0⟩
  | .hostStepping => ⟨.host, .ro, 8, 0xB1, 0⟩
  | .linkGen => ⟨.host, .ro, 4, 0, 0⟩
  | .linkWidth => ⟨.host, .ro, 4, 0, 0⟩
  | .linkFlit => ⟨.host, .ro, 1, 0, 0⟩
  | .linkNumVf => ⟨.host, .ro, 6, 0, 0⟩
  | .linkVfEnable => ⟨.host, .ro, 1, 0, 0⟩
  | .bar2Win => ⟨.host, .rw, 14, 0, 0⟩
  | .hostIntCause => ⟨.host, .w1c, 7, 0, 0⟩
  | .hostIntEn => ⟨.host, .rw, 7, 0, 0⟩
  | .cqArmed => ⟨.host, .ro, 32, 0xFFFFFFFF, 0⟩
  | .eqArmed => ⟨.host, .ro, 32, 0xFFFFFFFF, 0⟩
  | .intRoute => ⟨.host, .rw, 11, 0, 1⟩
  | .mboxGo => ⟨.host, .w1s, 1, 0, 0⟩
  | .mboxIntEn => ⟨.host, .rw, 1, 0, 0⟩
  | .mboxCmd => ⟨.host, .rw, 8, 0, 0⟩
  | .mboxSeq => ⟨.host, .rw, 16, 0, 0⟩
  | .mboxDone => ⟨.host, .ro, 1, 0, 0⟩
  | .mboxRc => ⟨.host, .ro, 16, 0, 0⟩
  | .mboxSeqEcho => ⟨.host, .ro, 16, 0, 0⟩
  | .mboxData => ⟨.host, .rw, 32, 0, 0⟩
  | .wmbWordEn => ⟨.host, .ro, 1, 0, 0⟩
  | .wmbMgrDevice => ⟨.host, .ro, 12, 0, 0⟩
  | .wmbIn => ⟨.host, .ro, 64, 0, 0⟩
  | .wmbOut => ⟨.host, .ro, 64, 0, 0⟩
  | .wmbFull => ⟨.host, .ro, 1, 0, 0⟩
  | .wmbOpen => ⟨.host, .ro, 1, 0, 0⟩
  | .wmbNext => ⟨.host, .ro, 2, 0, 0⟩
  | .wmbReject => ⟨.host, .rc, 32, 0, 0⟩
  | .vfWin => ⟨.host, .rw, 8, 0, 0⟩
  | .msixAddrLo => ⟨.host, .rw, 32, 0, 0⟩
  | .msixAddrHi => ⟨.host, .rw, 32, 0, 0⟩
  | .msixData => ⟨.host, .rw, 32, 0, 0⟩
  | .msixMask => ⟨.host, .rw, 1, 1, 0⟩
  | .msixPba => ⟨.host, .derived, 32, 0, 0⟩
  | .gridColumns => ⟨.array, .ro, 6, 0x20, 0⟩
  | .gridRows => ⟨.array, .ro, 5, 0x10, 0⟩
  | .gridDies => ⟨.array, .ro, 3, 0x4, 0⟩
  | .fenceCount => ⟨.array, .derived, 10, 0, 0⟩
  | .routeFenceCount => ⟨.array, .derived, 10, 0, 0⟩
  | .newFence => ⟨.array, .w1c, 1, 0, 0⟩
  | .newRouteFence => ⟨.array, .w1c, 1, 0, 0⟩
  | .fenceMap => ⟨.array, .ro, 32, 0, 0⟩
  | .routeFenceMap => ⟨.array, .ro, 32, 0, 0⟩
  | .fenceCause => ⟨.array, .ro, 4, 0, 0⟩
  | .parityCount => ⟨.array, .derived, 8, 0, 0⟩
  | .ueCount => ⟨.array, .derived, 8, 0, 0⟩
  | .quantVanished => ⟨.quant, .rc, 32, 0, 0⟩
  | .quantSaturated => ⟨.quant, .rc, 32, 0, 0⟩
  | .quantNan => ⟨.quant, .rc, 32, 0, 0⟩
  | .sem => ⟨.sem, .rw, 32, 0, 0⟩
  | .watchEnable => ⟨.watch, .rw, 1, 0, 0⟩
  | .watchStopHeat => ⟨.watch, .rw, 1, 0, 0⟩
  | .watchK => ⟨.watch, .rw, 4, 4, 0⟩
  | .watchHighRatio => ⟨.watch, .rw, 8, 0x40, 0⟩
  | .watchLowRatio => ⟨.watch, .rw, 8, 0x10, 0⟩
  | .watchVanishLimit => ⟨.watch, .rw, 16, 0xFFFF, 0⟩
  | .watchSatLimit => ⟨.watch, .rw, 16, 0xFFFF, 0⟩
  | .watchAvg => ⟨.watch, .rw, 32, 0, 0⟩
  | .watchLast => ⟨.watch, .ro, 32, 0, 0⟩
  | .watchSeeded => ⟨.watch, .rw, 1, 0, 0⟩
  | .watchFlagHigh => ⟨.watch, .w1c, 1, 0, 0⟩
  | .watchFlagLow => ⟨.watch, .w1c, 1, 0, 0⟩
  | .watchFlagNan => ⟨.watch, .w1c, 1, 0, 0⟩
  | .watchFlagVanish => ⟨.watch, .w1c, 1, 0, 0⟩
  | .watchFlagSat => ⟨.watch, .w1c, 1, 0, 0⟩
  | .watchFlagCount => ⟨.watch, .rc, 16, 0, 0⟩
  | .watchBase => ⟨.watch, .ro, 12, 0, 64⟩
  | .watchCount => ⟨.watch, .ro, 13, 64, 0⟩
  | .stormLimit => ⟨.watch, .rw, 12, 0x10, 0⟩
  | .flaskEnabled => ⟨.ladle, .ro, 1, 0, 0⟩
  | .flaskReset => ⟨.ladle, .w1s, 1, 0, 0⟩
  | .cqIntEn => ⟨.ladle, .rw, 1, 0, 0⟩
  | .eqIntEn => ⟨.ladle, .rw, 1, 0, 0⟩
  | .resetBusy => ⟨.ladle, .ro, 1, 0, 0⟩
  | .cqFull => ⟨.ladle, .ro, 1, 0, 0⟩
  | .eqOverflow => ⟨.ladle, .w1c, 1, 0, 0⟩
  | .flaskEligible => ⟨.ladle, .derived, 1, 1, 0⟩
  | .arraysOwned => ⟨.ladle, .derived, 10, 0, 0⟩
  | .cqBaseLo => ⟨.ladle, .rw, 20, 0, 0⟩
  | .cqBaseHi => ⟨.ladle, .rw, 12, 0, 0⟩
  | .cqSizeLog2 => ⟨.ladle, .rw, 5, 6, 0⟩
  | .cqEnable => ⟨.ladle, .rw, 1, 0, 0⟩
  | .cqHead => ⟨.ladle, .rw, 32, 0, 0⟩
  | .cqTail => ⟨.ladle, .ro, 32, 0, 0⟩
  | .eqBaseLo => ⟨.ladle, .rw, 20, 0, 0⟩
  | .eqBaseHi => ⟨.ladle, .rw, 12, 0, 0⟩
  | .eqSizeLog2 => ⟨.ladle, .rw, 5, 6, 0⟩
  | .eqEnable => ⟨.ladle, .rw, 1, 0, 0⟩
  | .eqHead => ⟨.ladle, .rw, 32, 0, 0⟩
  | .eqTail => ⟨.ladle, .ro, 32, 0, 0⟩
  | .eqLost => ⟨.ladle, .rc, 32, 0, 0⟩
  | .saveBaseLo => ⟨.ladle, .ro, 20, 0, 0⟩
  | .saveBaseHi => ⟨.ladle, .ro, 12, 0, 0⟩
  | .ladleBaseLo => ⟨.ladle, .rw, 20, 0, 0⟩
  | .ladleBaseHi => ⟨.ladle, .rw, 12, 0, 0⟩
  | .ladleSizeLog2 => ⟨.ladle, .rw, 5, 6, 0⟩
  | .ladleEnable => ⟨.ladle, .rw, 1, 0, 0⟩
  | .ladleHead => ⟨.ladle, .rw, 32, 0, 0⟩
  | .ladleTail => ⟨.ladle, .rw, 32, 0, 0⟩
  | .ladleState => ⟨.ladle, .ro, 2, 0, 0⟩
  | .tailError => ⟨.ladle, .w1c, 1, 0, 0⟩
  | .heatRunning => ⟨.ladle, .derived, 1, 0, 0⟩
  | .inFlight => ⟨.ladle, .derived, 1, 0, 0⟩
  | .stopCode => ⟨.ladle, .ro, 16, 0, 0⟩
  | .ladleResume => ⟨.ladle, .w1s, 1, 0, 0⟩
  | .ladleAbort => ⟨.ladle, .w1s, 1, 0, 0⟩
  | .ladleAbortIndex => ⟨.ladle, .rw, 32, 0, 0⟩
  | .heatPass => ⟨.ladle, .ro, 12, 0, 0⟩
  | .heatSection => ⟨.ladle, .ro, 2, 0, 0⟩
  | .heatStopPending => ⟨.ladle, .ro, 1, 0, 0⟩
  | .sliceEligible => ⟨.ladle, .ro, 32, 0xFFFFFFFF, 0⟩
  | .arrayOwnerFlask => ⟨.ladle, .ro, 6, 0, 0⟩
  | .arrayOwned => ⟨.ladle, .ro, 1, 0, 0⟩
  | .nowLo => ⟨.almanac, .derived, 32, 0, 0⟩
  | .nowHi => ⟨.almanac, .ro, 32, 0, 0⟩
  | .lockState => ⟨.almanac, .ro, 2, 0, 0⟩
  | .timeSource => ⟨.almanac, .ro, 2, 0, 0⟩
  | .timePort => ⟨.almanac, .ro, 5, 0, 0⟩
  | .lockLost => ⟨.almanac, .w1c, 1, 0, 0⟩
  | .lateFire => ⟨.almanac, .w1c, 1, 0, 0⟩
  | .epochChanged => ⟨.almanac, .w1c, 1, 0, 0⟩
  | .epochId => ⟨.almanac, .ro, 16, 0, 0⟩
  | .sourceSel => ⟨.almanac, .rw, 2, 0, 0⟩
  | .timePlane => ⟨.almanac, .rw, 3, 0, 0⟩
  | .holdoverLimit => ⟨.almanac, .rw, 8, 4, 0⟩
  | .deferLead => ⟨.almanac, .rw, 8, 0x14, 0⟩
  | .deferPolicy => ⟨.almanac, .rw, 2, 0, 0⟩
  | .quantumUs => ⟨.almanac, .ro, 16, 0x28, 0⟩
  | .defersSent => ⟨.almanac, .rc, 8, 0, 0⟩
  | .abandonsSent => ⟨.almanac, .rc, 8, 0, 0⟩
  | .timeOffset => ⟨.almanac, .ro, 32, 0, 0⟩
  | .tickDelay => ⟨.almanac, .rw, 16, 0, 0⟩
  | .tickLoadArm => ⟨.almanac, .w1s, 1, 0, 0⟩
  | .tickLoadLo => ⟨.almanac, .rw, 32, 0, 0⟩
  | .tickLoadHi => ⟨.almanac, .rw, 32, 0, 0⟩
  | .portDelay => ⟨.almanac, .ro, 16, 0, 0⟩
  | .portDelayValid => ⟨.almanac, .ro, 1, 0, 0⟩
  | .portAsym => ⟨.almanac, .rw, 16, 0, 0⟩
  | .entTime => ⟨.almanac, .rw, 64, 0, 0⟩
  | .entPeriod => ⟨.almanac, .rw, 40, 0, 0⟩
  | .entRepeat => ⟨.almanac, .rw, 24, 0, 0⟩
  | .entKind => ⟨.almanac, .rw, 4, 0, 0⟩
  | .entState => ⟨.almanac, .rw, 2, 0, 0⟩
  | .entFlask => ⟨.almanac, .rw, 6, 0, 0⟩
  | .entFlaskEn => ⟨.almanac, .rw, 1, 0, 0⟩
  | .entLate => ⟨.almanac, .ro, 1, 0, 0⟩
  | .entDefers => ⟨.almanac, .ro, 4, 0, 0⟩
  | .entReadySem => ⟨.almanac, .rw, 6, 0, 0⟩
  | .entDuration => ⟨.almanac, .rw, 32, 0, 0⟩
  | .entArg => ⟨.almanac, .rw, 64, 0, 0⟩
  | .memMode => ⟨.memory, .ro, 2, 0, 0⟩
  | .fastInterleave => ⟨.memory, .ro, 1, 0, 0⟩
  | .pinReserve => ⟨.memory, .ro, 7, 0, 0⟩
  | .stackGib => ⟨.memory, .derived, 8, 0, 0⟩
  | .pinStackMask => ⟨.memory, .ro, 16, 0, 0⟩
  | .pinGibPerStack => ⟨.memory, .ro, 7, 0, 0⟩
  | .pinValid => ⟨.memory, .ro, 1, 0, 0⟩
  | .pinBaseGib => ⟨.memory, .ro, 11, 0, 0⟩
  | .cacheHit => ⟨.memory, .rc, 32, 0, 0⟩
  | .cacheMiss => ⟨.memory, .rc, 32, 0, 0⟩
  | .cacheDrop => ⟨.memory, .rc, 32, 0, 0⟩
  | .runnerBusy => ⟨.memory, .derived, 1, 0, 0⟩
  | .runnerQueued => ⟨.memory, .derived, 8, 0, 0⟩
  | .allotFast => ⟨.memory, .ro, 32, 0, 0⟩
  | .usedFast => ⟨.memory, .derived, 32, 0, 0⟩
  | .allotStack => ⟨.memory, .ro, 32, 0, 0⟩
  | .usedStack => ⟨.memory, .derived, 32, 0, 0⟩
  | .allotBays => ⟨.memory, .ro, 13, 0, 0⟩
  | .usedBays => ⟨.memory, .derived, 13, 0, 0⟩
  | .allotJournal => ⟨.memory, .ro, 32, 0, 0⟩
  | .bayState => ⟨.memory, .ro, 2, 0, 0⟩
  | .bayFlask => ⟨.memory, .ro, 6, 0, 0⟩
  | .bayDevice => ⟨.memory, .ro, 12, 0, 0⟩
  | .bayLenderGib => ⟨.memory, .ro, 11, 0, 0⟩
  | .bayDeadlineEntry => ⟨.memory, .ro, 12, 0, 0⟩
  | .bayDeadlineSet => ⟨.memory, .ro, 1, 0, 0⟩
  | .lent => ⟨.memory, .ro, 1, 0, 0⟩
  | .lentDevice => ⟨.memory, .ro, 12, 0, 0⟩
  | .lentBay => ⟨.memory, .ro, 12, 0, 0⟩
  | .segBase => ⟨.memory, .ro, 44, 0, 0⟩
  | .segLimit => ⟨.memory, .ro, 44, 0, 0⟩
  | .segValid => ⟨.memory, .ro, 1, 0, 0⟩
  | .segTier => ⟨.memory, .ro, 2, 0, 0⟩
  | .segHint => ⟨.memory, .ro, 2, 0, 0⟩
  | .segRead => ⟨.memory, .ro, 1, 0, 0⟩
  | .segWrite => ⟨.memory, .ro, 1, 0, 0⟩
  | .segRemoteRead => ⟨.memory, .ro, 1, 0, 0⟩
  | .segRemoteWrite => ⟨.memory, .ro, 1, 0, 0⟩
  | .segUser => ⟨.memory, .ro, 64, 0, 0⟩
  | .poisonCpl => ⟨.integrity, .rw, 1, 0, 0⟩
  | .ueIntEn => ⟨.integrity, .rw, 1, 0, 0⟩
  | .ceIntEn => ⟨.integrity, .rw, 1, 0, 0⟩
  | .ceThreshold => ⟨.integrity, .rw, 16, 0x100, 0⟩
  | .ueSeen => ⟨.integrity, .w1c, 1, 0, 0⟩
  | .ceOver => ⟨.integrity, .w1c, 1, 0, 0⟩
  | .logOverrun => ⟨.integrity, .w1c, 1, 0, 0⟩
  | .scrubSkipped => ⟨.integrity, .w1c, 1, 0, 0⟩
  | .scrubBw => ⟨.integrity, .ro, 16, 0x28, 0⟩
  | .errLogTail => ⟨.integrity, .ro, 32, 0, 0⟩
  | .errLogHead => ⟨.integrity, .rw, 32, 0, 0⟩
  | .eccCe => ⟨.integrity, .rc, 32, 0, 0⟩
  | .eccUe => ⟨.integrity, .rc, 32, 0, 0⟩
  | .eccCeSram => ⟨.integrity, .rc, 32, 0, 0⟩
  | .eccUeSram => ⟨.integrity, .rc, 32, 0, 0⟩
  | .eccCeArray => ⟨.integrity, .rc, 32, 0, 0⟩
  | .eccUeArray => ⟨.integrity, .rc, 32, 0, 0⟩
  | .poisonReads => ⟨.integrity, .rc, 32, 0, 0⟩
  | .scrubPos => ⟨.integrity, .ro, 25, 0, 0⟩
  | .scrubPasses => ⟨.integrity, .ro, 32, 0, 0⟩
  | .errAddr => ⟨.integrity, .ro, 44, 0, 0⟩
  | .errStore => ⟨.integrity, .ro, 4, 0, 0⟩
  | .errKind => ⟨.integrity, .ro, 2, 0, 0⟩
  | .errRequester => ⟨.integrity, .ro, 4, 0, 0⟩
  | .errFlask => ⟨.integrity, .ro, 6, 0, 0⟩
  | .errTime => ⟨.integrity, .ro, 64, 0, 0⟩
  | .errMask => ⟨.integrity, .ro, 32, 0, 0⟩
  | .errDevice => ⟨.integrity, .ro, 12, 0, 0⟩
  | .fabDevice => ⟨.fabric, .ro, 12, 0, 0⟩
  | .fabPlanes => ⟨.fabric, .ro, 4, 0, 0⟩
  | .fabMode => ⟨.fabric, .ro, 1, 0, 0⟩
  | .wTc1 => ⟨.fabric, .rw, 4, 8, 0⟩
  | .wTc2 => ⟨.fabric, .rw, 4, 8, 0⟩
  | .wTc3 => ⟨.fabric, .rw, 4, 1, 0⟩
  | .portsUp => ⟨.fabric, .derived, 6, 0, 0⟩
  | .portEvent => ⟨.fabric, .w1c, 1, 0, 0⟩
  | .fabPowerEvent => ⟨.fabric, .w1c, 1, 0, 0⟩
  | .badPkt => ⟨.fabric, .rc, 32, 0, 0⟩
  | .e2eErr => ⟨.fabric, .rc, 32, 0, 0⟩
  | .staleResp => ⟨.fabric, .rc, 32, 0, 0⟩
  | .rxLowWarn => ⟨.fabric, .rw, 16, 0xFE3E, 0⟩
  | .rxLowAlarm => ⟨.fabric, .rw, 16, 0xFDDA, 0⟩
  | .portEnable => ⟨.fabric, .rw, 1, 0, 0⟩
  | .portPlane => ⟨.fabric, .rw, 3, 0, 0⟩
  | .portState => ⟨.fabric, .ro, 3, 0, 0⟩
  | .laneFault => ⟨.fabric, .ro, 4, 0, 0⟩
  | .downCause => ⟨.fabric, .ro, 4, 0, 0⟩
  | .failedTrainings => ⟨.fabric, .ro, 4, 0, 0⟩
  | .downEvents => ⟨.fabric, .ro, 8, 0, 0⟩
  | .portRetry => ⟨.fabric, .rc, 32, 0, 0⟩
  | .portCrcErr => ⟨.fabric, .rc, 32, 0, 0⟩
  | .portFecCorr => ⟨.fabric, .rc, 32, 0, 0⟩
  | .portFecUncorr => ⟨.fabric, .rc, 32, 0, 0⟩
  | .rxPower => ⟨.fabric, .ro, 16, 0, 0⟩
  | .laneLos => ⟨.fabric, .ro, 1, 0, 0⟩
  | .laneLowWarn => ⟨.fabric, .w1c, 1, 0, 0⟩
  | .laneLowAlarm => ⟨.fabric, .w1c, 1, 0, 0⟩
  | .laneHighAlarm => ⟨.fabric, .w1c, 1, 0, 0⟩
  | .laserBias => ⟨.fabric, .ro, 8, 0, 0⟩
  | .laserTxPower => ⟨.fabric, .ro, 8, 0, 0⟩
  | .laserFault => ⟨.fabric, .ro, 1, 0, 0⟩
  | .laserAged => ⟨.fabric, .w1c, 1, 0, 0⟩
  | .gridLen0 => ⟨.coll, .rw, 12, 0, 0⟩
  | .gridLen1 => ⟨.coll, .rw, 12, 0, 0⟩
  | .gridLen2 => ⟨.coll, .rw, 12, 0, 0⟩
  | .gridLen3 => ⟨.coll, .rw, 12, 0, 0⟩
  | .collContexts => ⟨.coll, .derived, 7, 0, 0⟩
  | .gridValid => ⟨.coll, .derived, 1, 0, 0⟩
  | .collRefusals => ⟨.coll, .rc, 32, 0, 0⟩
  | .collPassed => ⟨.coll, .rc, 32, 0, 0⟩
  | .sealFail => ⟨.coll, .rc, 32, 0, 0⟩
  | .staleColl => ⟨.coll, .rc, 32, 0, 0⟩
  | .collTableLo => ⟨.coll, .rw, 20, 0, 0⟩
  | .collTableHi => ⟨.coll, .rw, 12, 0, 0⟩
  | .groupId => ⟨.coll, .rw, 16, 0, 0⟩
  | .groupFlask => ⟨.coll, .rw, 6, 0, 0⟩
  | .groupValid => ⟨.coll, .rw, 1, 0, 0⟩
  | .groupRank => ⟨.coll, .ro, 12, 0, 0⟩
  | .groupMembers => ⟨.coll, .ro, 12, 0, 0⟩
  | .groupMember => ⟨.coll, .ro, 1, 0, 0⟩
  | .groupStart => ⟨.coll, .rw, 12, 0, 0⟩
  | .groupExtent => ⟨.coll, .rw, 12, 0, 0⟩
  | .groupStride => ⟨.coll, .rw, 8, 0, 0⟩
  | .ctxState => ⟨.coll, .derived, 2, 0, 0⟩
  | .ctxFlask => ⟨.coll, .derived, 6, 0, 0⟩
  | .ctxAttempt => ⟨.coll, .derived, 2, 0, 0⟩
  | .ctxPassed => ⟨.coll, .derived, 1, 0, 0⟩
  | .ctxCollId => ⟨.coll, .derived, 16, 0, 0⟩
  | .ctxGroupId => ⟨.coll, .derived, 16, 0, 0⟩
  | .ctxLanded => ⟨.coll, .derived, 24, 0, 0⟩
  | .replays => ⟨.riser, .rc, 32, 0, 0⟩
  | .replaysFailed => ⟨.riser, .rc, 32, 0, 0⟩
  | .replayEn => ⟨.riser, .rw, 1, 0, 0⟩
  | .waitLimit => ⟨.riser, .rw, 16, 0x7D0, 0⟩
  | .journalBaseLo => ⟨.riser, .ro, 19, 0, 0⟩
  | .journalBaseHi => ⟨.riser, .ro, 12, 0, 0⟩
  | .hasRiser => ⟨.riser, .ro, 1, 0, 0⟩
  | .replaying => ⟨.riser, .ro, 1, 0, 0⟩
  | .riserAttempt => ⟨.riser, .ro, 2, 0, 0⟩
  | .riserSlot => ⟨.riser, .ro, 1, 0, 0⟩
  | .riserLastCode => ⟨.riser, .ro, 16, 0, 0⟩
  | .riserMark => ⟨.riser, .ro, 32, 0, 0⟩
  | .tableValid => ⟨.table, .rw, 1, 0, 0⟩
  | .tableFormat => ⟨.table, .rw, 4, 3, 0⟩
  | .tableRowElems32 => ⟨.table, .rw, 8, 1, 0⟩
  | .tableOwner => ⟨.table, .rw, 6, 0, 0⟩
  | .tableRetireSigEn => ⟨.table, .rw, 1, 0, 0⟩
  | .tableRetireSem => ⟨.table, .rw, 6, 0, 0⟩
  | .tableRowsM1 => ⟨.table, .rw, 32, 0, 0⟩
  | .tableBaseA => ⟨.table, .rw, 32, 0, 0⟩
  | .tableBaseB => ⟨.table, .rw, 32, 0, 0⟩
  | .tableStateA => ⟨.table, .ro, 2, 0, 0⟩
  | .tableStateB => ⟨.table, .ro, 2, 0, 0⟩
  | .tableInflightA => ⟨.table, .ro, 5, 0, 0⟩
  | .tableInflightB => ⟨.table, .ro, 5, 0, 0⟩
  | .tableGenA => ⟨.table, .ro, 16, 0, 0⟩
  | .tableGenB => ⟨.table, .ro, 16, 0, 0⟩
  | .envelope => ⟨.power, .ro, 2, 1, 0⟩
  | .strictness => ⟨.power, .ro, 2, 1, 0⟩
  | .scrubRate => ⟨.power, .ro, 2, 1, 0⟩
  | .pwrGoverned => ⟨.power, .w1c, 1, 0, 0⟩
  | .pwrStackClass => ⟨.power, .w1c, 1, 0, 0⟩
  | .pwrDieClass => ⟨.power, .w1c, 1, 0, 0⟩
  | .pwrInputWarn => ⟨.power, .w1c, 1, 0, 0⟩
  | .telemDropped => ⟨.power, .rc, 32, 0, 0⟩
  | .pwrVolts => ⟨.power, .ro, 16, 0, 0⟩
  | .pwrAmps => ⟨.power, .ro, 16, 0, 0⟩
  | .pwrWatts => ⟨.power, .ro, 16, 0, 0⟩
  | .duty => ⟨.power, .ro, 9, 0x100, 0⟩
  | .stackCap => ⟨.power, .ro, 9, 0xCD, 0⟩
  | .stackTemp => ⟨.power, .ro, 10, 0, 0⟩
  | .stackClass => ⟨.power, .ro, 2, 0, 0⟩
  | .dieTemp => ⟨.power, .ro, 10, 0, 0⟩
  | .dieClass => ⟨.power, .ro, 2, 0, 0⟩
  | .engineTemp => ⟨.power, .ro, 10, 0, 0⟩
  | .engineClass => ⟨.power, .ro, 2, 0, 0⟩
  | .startPhase => ⟨.startup, .derived, 4, 3, 0⟩
  | .startCause => ⟨.startup, .ro, 2, 0, 0⟩
  | .failCause => ⟨.startup, .ro, 4, 0, 0⟩
  | .msToReady => ⟨.startup, .ro, 16, 0, 0⟩
  | .qualResult => ⟨.startup, .ro, 2, 0, 0⟩
  | .qualAttempts => ⟨.startup, .ro, 2, 0, 0⟩
  | .qualFailedChannels => ⟨.startup, .ro, 7, 0, 0⟩
  | .ctSlot => ⟨.contrail, .rw, 19, 0, 0⟩
  | .ctRegion => ⟨.contrail, .rw, 1, 0, 0⟩
  | .ctSeq => ⟨.contrail, .derived, 32, 0, 0⟩
  | .ffCount => ⟨.contrail, .derived, 15, 0, 0⟩
  | .ffFull => ⟨.contrail, .derived, 1, 0, 0⟩
  | .ctLost => ⟨.contrail, .rc, 32, 0, 0⟩
  | .ffNew => ⟨.contrail, .w1c, 1, 0, 0⟩
  | .ctEntry => ⟨.contrail, .derived, 32, 0, 0⟩
  | .probeGroup => ⟨.contrail, .rw, 8, 0, 0⟩
  | .probeDiv => ⟨.contrail, .rw, 2, 0, 0⟩
  | .probeEnable => ⟨.contrail, .rw, 1, 0, 0⟩
  | .probeActFlask => ⟨.contrail, .rw, 6, 0, 0⟩
  | .probeDenied => ⟨.contrail, .w1c, 1, 0, 0⟩
  | .probeUnlocked => ⟨.contrail, .derived, 1, 0, 0⟩
  | .tgenResult => ⟨.contrail, .ro, 2, 0, 0⟩
  | .tgenFailed => ⟨.contrail, .ro, 7, 0, 0⟩
  | .lifecycle => ⟨.sec, .derived, 4, 0, 0⟩
  | .runBank => ⟨.sec, .derived, 1, 0, 0⟩
  | .preferredBank => ⟨.sec, .derived, 1, 0, 0⟩
  | .runTrial => ⟨.sec, .derived, 1, 0, 0⟩
  | .recovery => ⟨.sec, .derived, 1, 0, 0⟩
  | .idleVerified => ⟨.sec, .derived, 1, 0, 0⟩
  | .fwSvn => ⟨.sec, .derived, 8, 0, 0⟩
  | .tokenSvn => ⟨.sec, .derived, 8, 0, 0⟩
  | .bufPtr => ⟨.sec, .rw, 15, 0, 0⟩
  | .mgtCtSlot => ⟨.mgt, .rw, 19, 0, 0⟩
  | .mgtCtRegion => ⟨.mgt, .rw, 1, 0, 0⟩

/-- A register array: offset in PF0 BAR0 of its first register, distance and number of its registers, a second distance
and number for the arrays that have two indices (register `(i, j)` has index `i * count2 + j`), its size in bytes, and its
fields with their lowest bits. -/
structure RegRow where
  base : Nat
  stride : Nat
  count : Nat
  stride2 : Nat := 0
  count2 : Nat := 1
  bytes : Nat
  fields : List (FKind × Nat)
deriving DecidableEq, Repr

/-- The host block: Host, interrupts and mailboxes (R903). -/
def regsHost : List RegRow := [
  -- HOST_ID
  { base := 0x0000, stride := 0, count := 1, bytes := 4, fields := [(.hostDeviceId, 0), (.hostOrder, 16), (.hostStepping, 24)] },
  -- HOST_LINK
  { base := 0x0004, stride := 0, count := 1, bytes := 4, fields := [(.linkGen, 0), (.linkWidth, 4), (.linkFlit, 8), (.linkNumVf, 16), (.linkVfEnable, 22)] },
  -- BAR2_WIN
  { base := 0x0010, stride := 0, count := 1, bytes := 4, fields := [(.bar2Win, 0)] },
  -- HOST_INT_CAUSE
  { base := 0x0020, stride := 0, count := 1, bytes := 4, fields := [(.hostIntCause, 0)] },
  -- HOST_INT_EN
  { base := 0x0024, stride := 0, count := 1, bytes := 4, fields := [(.hostIntEn, 0)] },
  -- CQ_ARMED
  { base := 0x0030, stride := 4, count := 2, bytes := 4, fields := [(.cqArmed, 0)] },
  -- EQ_ARMED
  { base := 0x0038, stride := 4, count := 2, bytes := 4, fields := [(.eqArmed, 0)] },
  -- INT_ROUTE
  { base := 0x0100, stride := 4, count := 137, bytes := 4, fields := [(.intRoute, 0)] },
  -- MBOX_CTRL
  { base := 0x1000, stride := 0x80, count := 8, bytes := 4, fields := [(.mboxGo, 0), (.mboxIntEn, 1), (.mboxCmd, 8), (.mboxSeq, 16)] },
  -- MBOX_ACK
  { base := 0x1008, stride := 0x80, count := 8, bytes := 8, fields := [(.mboxDone, 0), (.mboxRc, 16), (.mboxSeqEcho, 32)] },
  -- MBOX_DATA
  { base := 0x1040, stride := 0x80, count := 8, stride2 := 4, count2 := 16, bytes := 4, fields := [(.mboxData, 0)] },
  -- WMB_CFG
  { base := 0x2000, stride := 0, count := 1, bytes := 4, fields := [(.wmbWordEn, 0), (.wmbMgrDevice, 4)] },
  -- WMB_IN
  { base := 0x2008, stride := 0, count := 1, bytes := 8, fields := [(.wmbIn, 0)] },
  -- WMB_OUT
  { base := 0x2010, stride := 0, count := 1, bytes := 8, fields := [(.wmbOut, 0)] },
  -- WMB_STATUS
  { base := 0x2018, stride := 0, count := 1, bytes := 4, fields := [(.wmbFull, 0), (.wmbOpen, 1), (.wmbNext, 2)] },
  -- WMB_REJECT
  { base := 0x201C, stride := 0, count := 1, bytes := 4, fields := [(.wmbReject, 0)] },
  -- VF_WIN
  { base := 0x3000, stride := 4, count := 64, bytes := 4, fields := [(.vfWin, 0)] },
  -- MSIX_ADDR_LO
  { base := 0x10000, stride := 16, count := 2048, bytes := 4, fields := [(.msixAddrLo, 0)] },
  -- MSIX_ADDR_HI
  { base := 0x10004, stride := 16, count := 2048, bytes := 4, fields := [(.msixAddrHi, 0)] },
  -- MSIX_DATA
  { base := 0x10008, stride := 16, count := 2048, bytes := 4, fields := [(.msixData, 0)] },
  -- MSIX_CTRL
  { base := 0x1000C, stride := 16, count := 2048, bytes := 4, fields := [(.msixMask, 0)] },
  -- MSIX_PBA
  { base := 0x18000, stride := 4, count := 64, bytes := 4, fields := [(.msixPba, 0)] }]

/-- The array block: Arrays and fencing (R75). -/
def regsArray : List RegRow := [
  -- ARRAY_GRID
  { base := 0x200000, stride := 0, count := 1, bytes := 4, fields := [(.gridColumns, 0), (.gridRows, 8), (.gridDies, 16)] },
  -- FENCE_COUNT
  { base := 0x200010, stride := 0, count := 1, bytes := 4, fields := [(.fenceCount, 0), (.routeFenceCount, 16)] },
  -- FENCE_STATUS
  { base := 0x200014, stride := 0, count := 1, bytes := 4, fields := [(.newFence, 0), (.newRouteFence, 1)] },
  -- FENCE_MAP
  { base := 0x200100, stride := 4, count := 16, bytes := 4, fields := [(.fenceMap, 0)] },
  -- ROUTE_FENCE_MAP
  { base := 0x200140, stride := 4, count := 16, bytes := 4, fields := [(.routeFenceMap, 0)] },
  -- FENCE_CAUSE
  { base := 0x201000, stride := 4, count := 512, bytes := 4, fields := [(.fenceCause, 0), (.parityCount, 8), (.ueCount, 16)] }]

/-- The quant block: Quantisation counters (R119). -/
def regsQuant : List RegRow := [
  -- QUANT_VANISHED
  { base := 0x240000, stride := 4, count := 64, bytes := 4, fields := [(.quantVanished, 0)] },
  -- QUANT_SATURATED
  { base := 0x240100, stride := 4, count := 64, bytes := 4, fields := [(.quantSaturated, 0)] },
  -- QUANT_NAN
  { base := 0x240200, stride := 4, count := 64, bytes := 4, fields := [(.quantNan, 0)] }]

/-- The sem block: Semaphores (R197). -/
def regsSem : List RegRow := [
  -- SEM
  { base := 0x280000, stride := 4, count := 4096, bytes := 4, fields := [(.sem, 0)] }]

/-- The watch block: Watch slots (R318). -/
def regsWatch : List RegRow := [
  -- WATCH_CFG
  { base := 0x2C0000, stride := 4, count := 4096, bytes := 4, fields := [(.watchEnable, 0), (.watchStopHeat, 1), (.watchK, 2), (.watchHighRatio, 8), (.watchLowRatio, 16)] },
  -- WATCH_LIMITS
  { base := 0x2C4000, stride := 4, count := 4096, bytes := 4, fields := [(.watchVanishLimit, 0), (.watchSatLimit, 16)] },
  -- WATCH_AVG
  { base := 0x2C8000, stride := 4, count := 4096, bytes := 4, fields := [(.watchAvg, 0)] },
  -- WATCH_LAST
  { base := 0x2CC000, stride := 4, count := 4096, bytes := 4, fields := [(.watchLast, 0)] },
  -- WATCH_STATUS
  { base := 0x2D0000, stride := 4, count := 4096, bytes := 4, fields := [(.watchSeeded, 0), (.watchFlagHigh, 1), (.watchFlagLow, 2), (.watchFlagNan, 3), (.watchFlagVanish, 4), (.watchFlagSat, 5), (.watchFlagCount, 16)] },
  -- WATCH_ALLOT
  { base := 0x2D4000, stride := 4, count := 64, bytes := 4, fields := [(.watchBase, 0), (.watchCount, 12)] },
  -- STORM_CFG
  { base := 0x2D4100, stride := 4, count := 64, bytes := 4, fields := [(.stormLimit, 0)] }]

/-- The ladle block: Flasks, ladles and rings (R559). -/
def regsLadle : List RegRow := [
  -- FLASK_CTRL
  { base := 0x300000, stride := 0x80, count := 64, bytes := 4, fields := [(.flaskEnabled, 0), (.flaskReset, 1), (.cqIntEn, 2), (.eqIntEn, 3)] },
  -- FLASK_STATUS
  { base := 0x300004, stride := 0x80, count := 64, bytes := 4, fields := [(.resetBusy, 0), (.cqFull, 1), (.eqOverflow, 2), (.flaskEligible, 3), (.arraysOwned, 16)] },
  -- CQ_BASE_LO
  { base := 0x300008, stride := 0x80, count := 64, bytes := 4, fields := [(.cqBaseLo, 12)] },
  -- CQ_BASE_HI
  { base := 0x30000C, stride := 0x80, count := 64, bytes := 4, fields := [(.cqBaseHi, 0)] },
  -- CQ_CFG
  { base := 0x300010, stride := 0x80, count := 64, bytes := 4, fields := [(.cqSizeLog2, 0), (.cqEnable, 8)] },
  -- CQ_HEAD
  { base := 0x300014, stride := 0x80, count := 64, bytes := 4, fields := [(.cqHead, 0)] },
  -- CQ_TAIL
  { base := 0x300018, stride := 0x80, count := 64, bytes := 4, fields := [(.cqTail, 0)] },
  -- EQ_BASE_LO
  { base := 0x300020, stride := 0x80, count := 64, bytes := 4, fields := [(.eqBaseLo, 12)] },
  -- EQ_BASE_HI
  { base := 0x300024, stride := 0x80, count := 64, bytes := 4, fields := [(.eqBaseHi, 0)] },
  -- EQ_CFG
  { base := 0x300028, stride := 0x80, count := 64, bytes := 4, fields := [(.eqSizeLog2, 0), (.eqEnable, 8)] },
  -- EQ_HEAD
  { base := 0x30002C, stride := 0x80, count := 64, bytes := 4, fields := [(.eqHead, 0)] },
  -- EQ_TAIL
  { base := 0x300030, stride := 0x80, count := 64, bytes := 4, fields := [(.eqTail, 0)] },
  -- EQ_LOST
  { base := 0x300034, stride := 0x80, count := 64, bytes := 4, fields := [(.eqLost, 0)] },
  -- SAVE_BASE_LO
  { base := 0x300040, stride := 0x80, count := 64, bytes := 4, fields := [(.saveBaseLo, 12)] },
  -- SAVE_BASE_HI
  { base := 0x300044, stride := 0x80, count := 64, bytes := 4, fields := [(.saveBaseHi, 0)] },
  -- LADLE_BASE_LO
  { base := 0x310000, stride := 0x40, count := 256, bytes := 4, fields := [(.ladleBaseLo, 12)] },
  -- LADLE_BASE_HI
  { base := 0x310004, stride := 0x40, count := 256, bytes := 4, fields := [(.ladleBaseHi, 0)] },
  -- LADLE_CFG
  { base := 0x310008, stride := 0x40, count := 256, bytes := 4, fields := [(.ladleSizeLog2, 0), (.ladleEnable, 8)] },
  -- LADLE_HEAD
  { base := 0x31000C, stride := 0x40, count := 256, bytes := 4, fields := [(.ladleHead, 0)] },
  -- LADLE_TAIL
  { base := 0x310010, stride := 0x40, count := 256, bytes := 4, fields := [(.ladleTail, 0)] },
  -- LADLE_STATUS
  { base := 0x310014, stride := 0x40, count := 256, bytes := 4, fields := [(.ladleState, 0), (.tailError, 2), (.heatRunning, 3), (.inFlight, 4), (.stopCode, 16)] },
  -- LADLE_CTRL
  { base := 0x310018, stride := 0x40, count := 256, bytes := 4, fields := [(.ladleResume, 0), (.ladleAbort, 1)] },
  -- LADLE_ABORT_INDEX
  { base := 0x31001C, stride := 0x40, count := 256, bytes := 4, fields := [(.ladleAbortIndex, 0)] },
  -- HEAT_STATUS
  { base := 0x310020, stride := 0x40, count := 256, bytes := 4, fields := [(.heatPass, 0), (.heatSection, 12), (.heatStopPending, 14)] },
  -- SLICE_ELIGIBLE
  { base := 0x320000, stride := 4, count := 2, bytes := 4, fields := [(.sliceEligible, 0)] },
  -- ARRAY_OWNER
  { base := 0x321000, stride := 4, count := 512, bytes := 4, fields := [(.arrayOwnerFlask, 0), (.arrayOwned, 6)] }]

/-- The almanac block: Almanac (R485). -/
def regsAlmanac : List RegRow := [
  -- ALMANAC_NOW_LO
  { base := 0x400000, stride := 0, count := 1, bytes := 4, fields := [(.nowLo, 0)] },
  -- ALMANAC_NOW_HI
  { base := 0x400004, stride := 0, count := 1, bytes := 4, fields := [(.nowHi, 0)] },
  -- TIME_STATUS
  { base := 0x400008, stride := 0, count := 1, bytes := 4, fields := [(.lockState, 0), (.timeSource, 2), (.timePort, 4), (.lockLost, 9), (.lateFire, 10), (.epochChanged, 11), (.epochId, 16)] },
  -- TIME_CFG
  { base := 0x40000C, stride := 0, count := 1, bytes := 4, fields := [(.sourceSel, 0), (.timePlane, 2), (.holdoverLimit, 8), (.deferLead, 16), (.deferPolicy, 24)] },
  -- TIME_QUANTUM
  { base := 0x400010, stride := 0, count := 1, bytes := 4, fields := [(.quantumUs, 0), (.defersSent, 16), (.abandonsSent, 24)] },
  -- TIME_OFFSET
  { base := 0x400014, stride := 0, count := 1, bytes := 4, fields := [(.timeOffset, 0)] },
  -- TICK_CFG
  { base := 0x400018, stride := 0, count := 1, bytes := 4, fields := [(.tickDelay, 0), (.tickLoadArm, 16)] },
  -- TICK_LOAD_LO
  { base := 0x400020, stride := 0, count := 1, bytes := 4, fields := [(.tickLoadLo, 0)] },
  -- TICK_LOAD_HI
  { base := 0x400024, stride := 0, count := 1, bytes := 4, fields := [(.tickLoadHi, 0)] },
  -- PORT_DELAY
  { base := 0x400100, stride := 4, count := 32, bytes := 4, fields := [(.portDelay, 0), (.portDelayValid, 16)] },
  -- PORT_ASYM
  { base := 0x400180, stride := 4, count := 32, bytes := 4, fields := [(.portAsym, 0)] },
  -- ALMANAC_ENTRY_00
  { base := 0x420000, stride := 32, count := 4096, bytes := 8, fields := [(.entTime, 0)] },
  -- ALMANAC_ENTRY_08
  { base := 0x420008, stride := 32, count := 4096, bytes := 8, fields := [(.entPeriod, 0), (.entRepeat, 40)] },
  -- ALMANAC_ENTRY_10
  { base := 0x420010, stride := 32, count := 4096, bytes := 8, fields := [(.entKind, 0), (.entState, 4), (.entFlask, 6), (.entFlaskEn, 12), (.entLate, 13), (.entDefers, 16), (.entReadySem, 20), (.entDuration, 32)] },
  -- ALMANAC_ENTRY_18
  { base := 0x420018, stride := 32, count := 4096, bytes := 8, fields := [(.entArg, 0)] }]

/-- The memory block: Memory, segments and bays (R567). -/
def regsMemory : List RegRow := [
  -- MEM_CFG
  { base := 0x500000, stride := 0, count := 1, bytes := 4, fields := [(.memMode, 0), (.fastInterleave, 2), (.pinReserve, 8), (.stackGib, 16)] },
  -- PIN_CFG
  { base := 0x500010, stride := 4, count := 16, bytes := 4, fields := [(.pinStackMask, 0), (.pinGibPerStack, 16), (.pinValid, 31)] },
  -- PIN_BASE
  { base := 0x500050, stride := 4, count := 16, bytes := 4, fields := [(.pinBaseGib, 0)] },
  -- CACHE_HIT
  { base := 0x500100, stride := 4, count := 16, bytes := 4, fields := [(.cacheHit, 0)] },
  -- CACHE_MISS
  { base := 0x500140, stride := 4, count := 16, bytes := 4, fields := [(.cacheMiss, 0)] },
  -- CACHE_DROP
  { base := 0x500180, stride := 4, count := 16, bytes := 4, fields := [(.cacheDrop, 0)] },
  -- RUNNER_STATUS
  { base := 0x500200, stride := 4, count := 32, bytes := 4, fields := [(.runnerBusy, 0), (.runnerQueued, 8)] },
  -- ALLOT_FAST
  { base := 0x501000, stride := 0x20, count := 64, bytes := 4, fields := [(.allotFast, 0)] },
  -- USED_FAST
  { base := 0x501004, stride := 0x20, count := 64, bytes := 4, fields := [(.usedFast, 0)] },
  -- ALLOT_STACK
  { base := 0x501008, stride := 0x20, count := 64, bytes := 4, fields := [(.allotStack, 0)] },
  -- USED_STACK
  { base := 0x50100C, stride := 0x20, count := 64, bytes := 4, fields := [(.usedStack, 0)] },
  -- ALLOT_BAYS
  { base := 0x501010, stride := 0x20, count := 64, bytes := 4, fields := [(.allotBays, 0), (.usedBays, 16)] },
  -- ALLOT_JOURNAL
  { base := 0x501014, stride := 0x20, count := 64, bytes := 4, fields := [(.allotJournal, 0)] },
  -- BAY_MAP
  { base := 0x540000, stride := 8, count := 4096, bytes := 8, fields := [(.bayState, 0), (.bayFlask, 2), (.bayDevice, 8), (.bayLenderGib, 20), (.bayDeadlineEntry, 32), (.bayDeadlineSet, 44)] },
  -- LEND_MAP
  { base := 0x550000, stride := 4, count := 1536, bytes := 4, fields := [(.lent, 0), (.lentDevice, 1), (.lentBay, 13)] },
  -- SEG_ENTRY_00
  { base := 0x580000, stride := 32, count := 16384, bytes := 8, fields := [(.segBase, 0)] },
  -- SEG_ENTRY_08
  { base := 0x580008, stride := 32, count := 16384, bytes := 8, fields := [(.segLimit, 0)] },
  -- SEG_ENTRY_10
  { base := 0x580010, stride := 32, count := 16384, bytes := 8, fields := [(.segValid, 0), (.segTier, 1), (.segHint, 3), (.segRead, 5), (.segWrite, 6), (.segRemoteRead, 7), (.segRemoteWrite, 8)] },
  -- SEG_ENTRY_18
  { base := 0x580018, stride := 32, count := 16384, bytes := 8, fields := [(.segUser, 0)] }]

/-- The integrity block: Integrity (R659). -/
def regsIntegrity : List RegRow := [
  -- ECC_CFG
  { base := 0x600000, stride := 0, count := 1, bytes := 4, fields := [(.poisonCpl, 0), (.ueIntEn, 1), (.ceIntEn, 2), (.ceThreshold, 16)] },
  -- ECC_STATUS
  { base := 0x600004, stride := 0, count := 1, bytes := 4, fields := [(.ueSeen, 0), (.ceOver, 1), (.logOverrun, 2), (.scrubSkipped, 3)] },
  -- SCRUB_CFG
  { base := 0x600008, stride := 0, count := 1, bytes := 4, fields := [(.scrubBw, 0)] },
  -- ERR_LOG_TAIL
  { base := 0x60000C, stride := 0, count := 1, bytes := 4, fields := [(.errLogTail, 0)] },
  -- ERR_LOG_HEAD
  { base := 0x600010, stride := 0, count := 1, bytes := 4, fields := [(.errLogHead, 0)] },
  -- ECC_CE
  { base := 0x600100, stride := 4, count := 16, bytes := 4, fields := [(.eccCe, 0)] },
  -- ECC_UE
  { base := 0x600140, stride := 4, count := 16, bytes := 4, fields := [(.eccUe, 0)] },
  -- ECC_CE_SRAM
  { base := 0x600180, stride := 4, count := 16, bytes := 4, fields := [(.eccCeSram, 0)] },
  -- ECC_UE_SRAM
  { base := 0x6001C0, stride := 4, count := 16, bytes := 4, fields := [(.eccUeSram, 0)] },
  -- ECC_CE_ARRAY
  { base := 0x600200, stride := 0, count := 1, bytes := 4, fields := [(.eccCeArray, 0)] },
  -- ECC_UE_ARRAY
  { base := 0x600204, stride := 0, count := 1, bytes := 4, fields := [(.eccUeArray, 0)] },
  -- POISON_READS
  { base := 0x600208, stride := 0, count := 1, bytes := 4, fields := [(.poisonReads, 0)] },
  -- SCRUB_POS
  { base := 0x600300, stride := 4, count := 16, bytes := 4, fields := [(.scrubPos, 0)] },
  -- SCRUB_PASSES
  { base := 0x600340, stride := 4, count := 16, bytes := 4, fields := [(.scrubPasses, 0)] },
  -- ERR_LOG_00
  { base := 0x601000, stride := 32, count := 16, bytes := 8, fields := [(.errAddr, 0), (.errStore, 44), (.errKind, 48), (.errRequester, 50), (.errFlask, 54)] },
  -- ERR_LOG_08
  { base := 0x601008, stride := 32, count := 16, bytes := 8, fields := [(.errTime, 0)] },
  -- ERR_LOG_10
  { base := 0x601010, stride := 32, count := 16, bytes := 8, fields := [(.errMask, 0), (.errDevice, 32)] }]

/-- The fabric block: Fabric (R723). -/
def regsFabric : List RegRow := [
  -- FABRIC_ID
  { base := 0x700000, stride := 0, count := 1, bytes := 4, fields := [(.fabDevice, 0), (.fabPlanes, 12)] },
  -- FABRIC_CFG
  { base := 0x700004, stride := 0, count := 1, bytes := 4, fields := [(.fabMode, 0), (.wTc1, 4), (.wTc2, 8), (.wTc3, 12)] },
  -- FABRIC_STATUS
  { base := 0x700008, stride := 0, count := 1, bytes := 4, fields := [(.portsUp, 0), (.portEvent, 8), (.fabPowerEvent, 9)] },
  -- BAD_PKT
  { base := 0x700010, stride := 0, count := 1, bytes := 4, fields := [(.badPkt, 0)] },
  -- E2E_ERR
  { base := 0x700014, stride := 0, count := 1, bytes := 4, fields := [(.e2eErr, 0)] },
  -- STALE_RESP
  { base := 0x700018, stride := 0, count := 1, bytes := 4, fields := [(.staleResp, 0)] },
  -- RX_THRESH
  { base := 0x700020, stride := 0, count := 1, bytes := 4, fields := [(.rxLowWarn, 0), (.rxLowAlarm, 16)] },
  -- PORT_CFG
  { base := 0x700100, stride := 4, count := 32, bytes := 4, fields := [(.portEnable, 0), (.portPlane, 1)] },
  -- PORT_STATUS
  { base := 0x700180, stride := 4, count := 32, bytes := 4, fields := [(.portState, 0), (.laneFault, 3), (.downCause, 8), (.failedTrainings, 12), (.downEvents, 16)] },
  -- PORT_RETRY
  { base := 0x700200, stride := 4, count := 32, bytes := 4, fields := [(.portRetry, 0)] },
  -- PORT_CRC_ERR
  { base := 0x700280, stride := 4, count := 32, bytes := 4, fields := [(.portCrcErr, 0)] },
  -- PORT_FEC_CORR
  { base := 0x700300, stride := 4, count := 32, bytes := 4, fields := [(.portFecCorr, 0)] },
  -- PORT_FEC_UNCORR
  { base := 0x700380, stride := 4, count := 32, bytes := 4, fields := [(.portFecUncorr, 0)] },
  -- LANE_RX
  { base := 0x700400, stride := 4, count := 128, bytes := 4, fields := [(.rxPower, 0), (.laneLos, 16), (.laneLowWarn, 17), (.laneLowAlarm, 18), (.laneHighAlarm, 19)] },
  -- LASER
  { base := 0x700600, stride := 4, count := 32, bytes := 4, fields := [(.laserBias, 0), (.laserTxPower, 8), (.laserFault, 16), (.laserAged, 17)] }]

/-- The coll block: Collectives (R791). -/
def regsColl : List RegRow := [
  -- POD_GRID_0
  { base := 0x800000, stride := 0, count := 1, bytes := 4, fields := [(.gridLen0, 0), (.gridLen1, 12)] },
  -- POD_GRID_1
  { base := 0x800004, stride := 0, count := 1, bytes := 4, fields := [(.gridLen2, 0), (.gridLen3, 12)] },
  -- COLL_STATUS
  { base := 0x800008, stride := 0, count := 1, bytes := 4, fields := [(.collContexts, 0), (.gridValid, 8)] },
  -- REFUSED
  { base := 0x800010, stride := 0, count := 1, bytes := 4, fields := [(.collRefusals, 0)] },
  -- PASSED
  { base := 0x800014, stride := 0, count := 1, bytes := 4, fields := [(.collPassed, 0)] },
  -- SEAL_FAIL
  { base := 0x800018, stride := 0, count := 1, bytes := 4, fields := [(.sealFail, 0)] },
  -- STALE_COLL
  { base := 0x80001C, stride := 0, count := 1, bytes := 4, fields := [(.staleColl, 0)] },
  -- COLL_TABLE_LO
  { base := 0x800100, stride := 8, count := 64, bytes := 4, fields := [(.collTableLo, 12)] },
  -- COLL_TABLE_HI
  { base := 0x800104, stride := 8, count := 64, bytes := 4, fields := [(.collTableHi, 0)] },
  -- GROUP_W0
  { base := 0x801000, stride := 32, count := 256, bytes := 4, fields := [(.groupId, 0), (.groupFlask, 16), (.groupValid, 22)] },
  -- GROUP_W1
  { base := 0x801004, stride := 32, count := 256, bytes := 4, fields := [(.groupRank, 0), (.groupMembers, 12), (.groupMember, 24)] },
  -- GROUP_AXIS
  { base := 0x801008, stride := 32, count := 256, stride2 := 4, count2 := 4, bytes := 4, fields := [(.groupStart, 0), (.groupExtent, 12), (.groupStride, 24)] },
  -- COLL_CTX_W0
  { base := 0x804000, stride := 16, count := 64, bytes := 4, fields := [(.ctxState, 0), (.ctxFlask, 2), (.ctxAttempt, 8), (.ctxPassed, 10), (.ctxCollId, 16)] },
  -- COLL_CTX_W1
  { base := 0x804004, stride := 16, count := 64, bytes := 4, fields := [(.ctxGroupId, 0)] },
  -- COLL_CTX_W2
  { base := 0x804008, stride := 16, count := 64, bytes := 4, fields := [(.ctxLanded, 0)] }]

/-- The riser block: Riser (R824). -/
def regsRiser : List RegRow := [
  -- REPLAYS
  { base := 0x900000, stride := 0, count := 1, bytes := 4, fields := [(.replays, 0)] },
  -- REPLAYS_FAILED
  { base := 0x900004, stride := 0, count := 1, bytes := 4, fields := [(.replaysFailed, 0)] },
  -- RISER_CFG
  { base := 0x900100, stride := 16, count := 64, bytes := 4, fields := [(.replayEn, 0), (.waitLimit, 16)] },
  -- JOURNAL_BASE_LO
  { base := 0x900104, stride := 16, count := 64, bytes := 4, fields := [(.journalBaseLo, 13)] },
  -- JOURNAL_BASE_HI
  { base := 0x900108, stride := 16, count := 64, bytes := 4, fields := [(.journalBaseHi, 0)] },
  -- RISER_STATUS
  { base := 0x901000, stride := 8, count := 256, bytes := 4, fields := [(.hasRiser, 0), (.replaying, 1), (.riserAttempt, 2), (.riserSlot, 4), (.riserLastCode, 16)] },
  -- RISER_MARK
  { base := 0x901004, stride := 8, count := 256, bytes := 4, fields := [(.riserMark, 0)] }]

/-- The table block: Pattern tables (R439). -/
def regsTable : List RegRow := [
  -- TABLE_CFG
  { base := 0xA00000, stride := 0x20, count := 256, bytes := 4, fields := [(.tableValid, 0), (.tableFormat, 4), (.tableRowElems32, 8), (.tableOwner, 16), (.tableRetireSigEn, 22), (.tableRetireSem, 24)] },
  -- TABLE_ROWS
  { base := 0xA00004, stride := 0x20, count := 256, bytes := 4, fields := [(.tableRowsM1, 0)] },
  -- TABLE_BASE_A
  { base := 0xA00008, stride := 0x20, count := 256, bytes := 8, fields := [(.tableBaseA, 12)] },
  -- TABLE_BASE_B
  { base := 0xA00010, stride := 0x20, count := 256, bytes := 8, fields := [(.tableBaseB, 12)] },
  -- TABLE_STATUS
  { base := 0xA00018, stride := 0x20, count := 256, bytes := 4, fields := [(.tableStateA, 0), (.tableStateB, 2), (.tableInflightA, 4), (.tableInflightB, 9)] },
  -- TABLE_GEN
  { base := 0xA0001C, stride := 0x20, count := 256, bytes := 4, fields := [(.tableGenA, 0), (.tableGenB, 16)] }]

/-- The power block: Power, thermal and modes (R971). -/
def regsPower : List RegRow := [
  -- PWR_CFG
  { base := 0xB00000, stride := 0, count := 1, bytes := 4, fields := [(.envelope, 0), (.strictness, 2), (.scrubRate, 4)] },
  -- PWR_EVENT
  { base := 0xB00004, stride := 0, count := 1, bytes := 4, fields := [(.pwrGoverned, 0), (.pwrStackClass, 1), (.pwrDieClass, 2), (.pwrInputWarn, 3)] },
  -- TELEM_DROPPED
  { base := 0xB00008, stride := 0, count := 1, bytes := 4, fields := [(.telemDropped, 0)] },
  -- PWR_IN
  { base := 0xB00010, stride := 0, count := 1, bytes := 4, fields := [(.pwrVolts, 0), (.pwrAmps, 16)] },
  -- PWR_IN_W
  { base := 0xB00014, stride := 0, count := 1, bytes := 4, fields := [(.pwrWatts, 0)] },
  -- DUTY_STATUS
  { base := 0xB00018, stride := 0, count := 1, bytes := 4, fields := [(.duty, 0), (.stackCap, 16)] },
  -- STACK_TEMP
  { base := 0xB00100, stride := 4, count := 16, bytes := 4, fields := [(.stackTemp, 0), (.stackClass, 10)] },
  -- DIE_TEMP
  { base := 0xB00140, stride := 4, count := 4, bytes := 4, fields := [(.dieTemp, 0), (.dieClass, 10)] },
  -- ENGINE_TEMP
  { base := 0xB00150, stride := 4, count := 8, bytes := 4, fields := [(.engineTemp, 0), (.engineClass, 10)] }]

/-- The startup block: Start-up (R1005). -/
def regsStartup : List RegRow := [
  -- STARTUP_STATE
  { base := 0xC00000, stride := 0, count := 1, bytes := 4, fields := [(.startPhase, 0), (.startCause, 4), (.failCause, 8)] },
  -- STARTUP_TIME
  { base := 0xC00004, stride := 0, count := 1, bytes := 4, fields := [(.msToReady, 0)] },
  -- STACK_QUAL
  { base := 0xC00010, stride := 4, count := 16, bytes := 4, fields := [(.qualResult, 0), (.qualAttempts, 2), (.qualFailedChannels, 4)] }]

/-- The contrail block: Contrail, probes and test (R1042). -/
def regsContrail : List RegRow := [
  -- CT_SEL
  { base := 0xD00000, stride := 0, count := 1, bytes := 4, fields := [(.ctSlot, 0), (.ctRegion, 31)] },
  -- CT_SEQ
  { base := 0xD00008, stride := 4, count := 2, bytes := 4, fields := [(.ctSeq, 0)] },
  -- CT_FF
  { base := 0xD00010, stride := 0, count := 1, bytes := 4, fields := [(.ffCount, 0), (.ffFull, 15)] },
  -- CT_LOST
  { base := 0xD00014, stride := 0, count := 1, bytes := 4, fields := [(.ctLost, 0)] },
  -- CT_ALERT
  { base := 0xD00018, stride := 0, count := 1, bytes := 4, fields := [(.ffNew, 0)] },
  -- CT_ENTRY
  { base := 0xD00100, stride := 4, count := 32, bytes := 4, fields := [(.ctEntry, 0)] },
  -- PROBE_CFG
  { base := 0xD00200, stride := 0, count := 1, bytes := 4, fields := [(.probeGroup, 0), (.probeDiv, 8), (.probeEnable, 10), (.probeActFlask, 16)] },
  -- PROBE_STATUS
  { base := 0xD00204, stride := 0, count := 1, bytes := 4, fields := [(.probeDenied, 0), (.probeUnlocked, 1)] },
  -- TGEN_STATUS
  { base := 0xD00300, stride := 4, count := 16, bytes := 4, fields := [(.tgenResult, 0), (.tgenFailed, 2)] }]

/-- Every register of PF0 BAR0 (R840). -/
def regTable : List RegRow :=
  regsHost ++ regsArray ++ regsQuant ++ regsSem ++ regsWatch ++ regsLadle ++ regsAlmanac ++ regsMemory ++ regsIntegrity ++ regsFabric ++ regsColl ++ regsRiser ++ regsTable ++ regsPower ++ regsStartup ++ regsContrail

end Sys2Proof.Machine
end

