-- ==== Sys2Proof/Machine/State.lean ====
section
/-!
DEFINITION. The state of the part: every register, store, queue, counter, mode and pin of the specification, and the queue
of commands that wait. Plain data. Structures carry their reset values as defaults, so `State.reset` names only what
differs.
-/
namespace Sys2Proof.Machine

/-- Why a step can stop with a fault. The block raises no fault of its own: every error the specification gives is a
status, a response or a register bit, so the only constructor is the one for states no run reaches. Safe: a stop. -/
inductive Fault where
  /-- Raised by no command of this model. Safe. -/
  | none
deriving DecidableEq, Repr

/-- Why a step can be refused. -/
inductive Refusal where
  /-- A command whose meaning is not modelled, by its mnemonic in the opcode table; raised by its arm of `exec`. Safe: the
  run stops. -/
  | notModelled (mnemonic : String)
deriving DecidableEq, Repr

/-! ### Start-up, pins and stores -/

/-- What a start-up keeps beside its registers (R909 to R915, R977 to R982): whether an image runs, from which bank and whether
as a trial, the banks that the boot ROM found not valid, whether START was taken since STANDBY was entered, whether the part
waits for START (R978), whether PERST_N was asserted after IDENTITY, whether the boot ROM has still to check the banks in this start-up
(R909), and the configuration read in IDENTITY (R995). -/
structure StartRt where
  imageRuns : Bool := false
  runBank : Nat := 0
  runTrial : Bool := false
  tried : List Nat := []
  startTaken : Bool := false
  needStart : Bool := false
  perstReset : Bool := false
  checkDue : Bool := false
  config : Sp (BitVec 32) := []
deriving DecidableEq, Repr

/-- The phases of R976; `qualify` is STACKS. -/
inductive Phase where
  | off | standby | power | identity | record | selftest | qualify | config | ready | failed | recovery
deriving DecidableEq, Repr

/-- The single-ended lands whose level a command sets or reads (R1047, R1051), VIN_50 as a flag that it lies above 40 V.
`ibi` counts the In-Band Interrupts raised on the management port (R902). -/
structure Pins where
  vin50 : Bool := false
  straps : BitVec 4 := 0
  perstN : Bool := false
  pwrGood : Bool := false
  thermTripN : Bool := true
  alertN : Bool := true
  ibi : Nat := 0
deriving DecidableEq, Repr

/-- The 80 bits of a stored word, 64 of data and 16 check bits (R626), where they are not those of its bytes: as many bit errors (R627); the
poison pattern of its address with as many bit errors (R628); or undefined bits in a store that was cleared. The code itself shows at no
interface (R632). -/
inductive Mark where
  | errors (n : Nat)
  | poison (n : Nat)
  | undefined
deriving DecidableEq, Repr

/-- How the 80 bits of a word decode (R627, R628): an error of 4 bits or more lies beyond the code. -/
inductive Decoded where
  | clean | corrected | uncorrectable | poisoned | beyond
deriving DecidableEq, Repr

def Mark.decode : Mark → Decoded
  | .errors n => if n = 0 then .clean else if n ≤ 2 then .corrected else if n = 3 then .uncorrectable else .beyond
  | .poison n => if n ≤ 2 then .poisoned else if n = 3 then .uncorrectable else .beyond
  | .undefined => .beyond

/-- A store protected by check bits: its bytes in the canonical form of `Store.wf`, and the marks of its 64-bit words by word
number, an unlisted word being clean. An unlisted byte is one that has never been written, or, in a store that was cleared
(`zeroed`, R546), one that holds zero. -/
structure Store where
  cells : List Host.Cell := []
  marks : Sp Mark := []
  zeroed : Bool := false
deriving DecidableEq, Repr

/-- One line of the memory-side cache (R572 to R576): its line number, whether it is a keep line and whether it is
dirty. -/
structure CacheLine where
  line : Nat
  keep : Bool
  dirty : Bool
deriving DecidableEq, Repr

/-! ### Pours, ladles and heats -/

/-- The unit that runs a pour (R144). -/
inductive PUnit where
  | dispatcher
  | array (a : Nat)
  | runner (r : Nat)
  | pattern
  | region (d : Nat)
  | fabric
deriving DecidableEq, Repr

/-- How far a pour has come: in its queue; past its waits at the head of the queue; loading operands; running, with work
left that other commands do; run, with its writes under way; ended by a fault that is to be recorded. -/
inductive Stage where
  | queued | released | loading | running | ran | faulted
deriving DecidableEq, Repr

/-- The place in a heat from which a pour was dispatched: pass, section code and record position in the program (R513). -/
structure HeatPos where
  pass : Nat
  sec : Nat
  prog : Nat
deriving DecidableEq, Repr

/-- A pour that has been dispatched and has not ended. `id` numbers pours in dispatch order. `stat` is the statistic its
blocks gave so far for a watch slot: sum of squares as FP32 bits, element count, and counts of vanished, saturated and NaN
elements (R299). `begun` says that a pour has been accepted by its unit (an array pour: has passed its checks at c1), `empties` lists the empty markers taken as operand and item
number (R230), `due` holds the block counts of a sub-tile whose writes wait for their acknowledgement (R203), and `held` what a runner has read and not
written yet, with the spoilt words of each piece (R605, R643). `since` is the almanac time from which an unstarted pour waits for its
arrays (R540). `words` are the further words read at step 4 (place words, mask word, visit entry), `parts` what a unit keeps
while the pour runs, `failed` the words that a read fault failed on, a word of an array store as 2^44 (R809). -/
structure Pour where
  id : Nat
  flask : Nat
  ladle : Nat
  index : Nat
  heat : Option HeatPos := none
  word : BitVec 1024
  unit : PUnit
  stage : Stage := .queued
  m : Nat := 0
  n : Nat := 0
  k : Nat := 0
  parked : Bool := false
  cancelled : Bool := false
  code : Nat := 0
  detail : Nat := 0
  progress : Nat := 0
  aux : List Nat := []
  words : List Nat := []
  parts : List (List Byte) := []
  failed : List Nat := []
  begun : Bool := false
  empties : List (Nat × Nat) := []
  due : List Nat := []
  held : List (List Byte × List Nat) := []
  since : Nat := 0
  evaluated : Bool := false
  sumSq : BitVec 32 := 0
  count : Nat := 0
  vanished : Nat := 0
  saturated : Nat := 0
  nans : Nat := 0
deriving DecidableEq, Repr

/-- A completion record before it is written: its fields (R513) but PHASE and TIME, which the write gives. -/
structure CqRec where
  status : Nat
  tag : Nat
  index : Nat
  kind : Nat
  ladle : Nat
  heat : Option HeatPos := none
  opcode : Nat
  detail : Nat := 0
deriving DecidableEq, Repr

/-- One level of an open loop of a heat program: where its body starts and ends, the iteration under way and the loop
record (R530 to R534). -/
structure Loop where
  first : Nat
  last : Nat
  iter : Nat
  word : BitVec 1024
deriving DecidableEq, Repr

/-- The position of a heat in one of its three programs, and the record there once it has been read and is not dispatched yet (R496). -/
structure Section where
  pos : Nat := 0
  loops : List Loop := []
  record : Option (BitVec 1024) := none
deriving DecidableEq, Repr

/-- Where a heat stands in the order of R520; `writing` waits for the writes of the pass start to be accepted, and `failed` is a pass whose start
has failed. -/
inductive HeatStage where
  | betweenPasses | passBlock | writing | running | failed
deriving DecidableEq, Repr

/-- A heat that has not ended: its card, the ladle record index of the card, the current pass, the sections, the first
recorded cause of its end (R536, R537), the code, the failed words and the piece mask when that cause is a read of the heat's own (R645,
R809), by pass the
slots that have flagged and whether a storm event was written (R307, R308), and by pass the GUIDANCE of the rows read (R528). -/
structure Heat where
  card : BitVec 2048
  index : Nat
  pass : Nat
  stage : HeatStage := .betweenPasses
  sections : List Section := []
  started : Bool := false
  stopCode : Option Nat := none
  readFault : Option (Nat × List Nat × Nat) := none
  storms : Sp (List Nat × Bool) := []
  guidance : Sp (BitVec 32) := []
deriving DecidableEq, Repr

/-- What a ladle holds beside its registers: the retire point of R551 (the cut, and which records have ended), the abort in
progress, the heat card read and not yet checked, with its record index (R499, R1077), the record read and not yet dispatched with its index (R496), the arrays whose ownership its ladle (source 3) or a section of its heat
(source 0 to 2) waits for, with the almanac time since when (R539, R540), the faulting pour of the replay under way and whether its
cancellation is done (R809 to R814), the heat as its riser point found it (R807), and by source the record indices of the FLIPs that have
switched since the riser point and of those that a rerun has still to pass over (R420). -/
structure LadleRt where
  cut : Option Nat := none
  ended : List Nat := []
  aborting : Option Nat := none
  card : Option (Nat × BitVec 2048) := none
  record : Option (Nat × BitVec 1024) := none
  waits : List (Nat × Nat × Nat) := []
  replay : Option Pour := none
  replayWaiting : Bool := false
  riserHeat : Option Heat := none
  flips : Sp (List Nat) := []
  skipFlips : Sp (List Nat) := []
deriving DecidableEq, Repr

/-! ### Arrays -/

/-- An item on the mesh between two arrays: a tile with its FORMAT, block size and trailer, an empty marker, a break that carries
the sender's fault code, or a credit on its way back to a sender (R217, R225, R228 to R232). -/
inductive MeshItem where
  | tile (fmt : Nat) (block16 : Bool) (trailer : Option (List Byte)) (data : List Byte)
  | empty
  | brk (code : Nat)
  | credit
deriving DecidableEq, Repr

/-- An array (R26 to R65): its four checked stores, its accumulator banks as FP32 bits at b·1024 + 32·i + j, the banks claimed and
not released, the words of its banks that a restore could not read (R548), the bank it holds (R50, R167), its issue credit in 1/256 a-cycle (R951), what the mesh brings to it (sending array,
pour and item), what its router holds for sending (pour, receivers and item), the credits it holds by receiver (R218), the items still
to be discarded by sender (R233), the LIVE of the last pour it ran, its plane slots by number with the lines they hold (R379), the
flasks whose stores are saved with their LIVE (R544), whether a restore is under way, and the almanac times of its faults (R67,
R68). -/
structure ArrayRt where
  bufA : Store := {}
  bufB : Store := {}
  scratch : Store := {}
  line : Store := {}
  banks : Sp (BitVec 32) := []
  claimed : List Nat := []
  bankBad : List Nat := []
  held : Option Nat := none
  heldBy : Nat := 0
  credit : Int := 16777216
  inbox : List (Nat × Nat × MeshItem) := []
  outbox : List (Nat × List Nat × MeshItem) := []
  credits : Sp Nat := []
  discard : Sp Nat := []
  lastLive : Nat := 0
  planes : Sp (List Nat) := []
  saved : Sp Nat := []
  restoring : Bool := false
  parityTimes : List Nat := []
  routerTimes : List Nat := []
  ueTimes : List Nat := []
deriving DecidableEq, Repr

/-! ### Host interface and mailboxes -/

/-- What the part sends on the host link and the management port: an MSI-X message of a vector, or the completion of a
read with its status, its data and the 128-byte pieces that carry the EP bit. -/
inductive HostMsg where
  | msix (vector : Nat)
  | data (bytes : List Byte) (ep : Bool)
  | unsupported
  | completerAbort
deriving DecidableEq, Repr

/-- An error report in the AER registers of a function: a Completer Abort or an Unsupported Request, with the request's
header as function, direction, offset and length (R844, R847, R1070). -/
structure AerReport where
  fn : Fn
  completerAbort : Bool
  write : Bool
  offset : Nat
  length : Nat
deriving DecidableEq, Repr

/-- The host interface beside its registers: the value of HOST_INT_CAUSE AND HOST_INT_EN after the last command (R860),
the vectors whose message is held (R985), the messages sent, and the AER reports, newest first. Of configuration space, by function (0 PF0,
v VF v, 64 PF1): those with MSI-X Enable, those with Function Mask, those in D3hot, and the base-2 logarithm of the size of PF0 BAR2 (R829,
R832; log entry 16). `bells` are the doorbell writes that wait for earlier writes of their function to a bay, as function, ladle and value
(R851). -/
structure HostRt where
  irqLevel : BitVec 7 := 0
  held : List Nat := []
  out : List HostMsg := []
  aer : List AerReport := []
  msixOn : List Nat := []
  msixHeld : List Nat := []
  sleeping : List Nat := []
  bar2Log : Nat := 36
  bells : List (Fn × Nat × Nat) := []
deriving DecidableEq, Repr

/-- A mailbox command that the Yilpa controller has taken: its source, code, sequence number and request, and, once it has
run, its return code and the response registers it writes. `waitFor` names the pours that R585 waits for, `waitHeats` the pass starts
by ladle and pass, and `undo` the entry and its old words, which hold for those and in case the wait passes its bound. -/
structure BoxCmd where
  box : Box
  cmd : Nat
  seq : Nat
  req : List (BitVec 32)
  done : Bool := false
  rc : Nat := 0
  resp : List (Nat × BitVec 32) := []
  waitFor : List Nat := []
  waitHeats : List (Nat × Nat) := []
  undo : List Nat := []
deriving DecidableEq, Repr

/-- The mailboxes beside their registers: the running commands of the two command sets, the place of round-robin service in
each (R866, R939), the word that waits to be taken as position and word, the words of the open word command so far and the complete
word commands, oldest first (R870 to R875), the boxes whose function was reset while their command ran (R867), and the bus of the management
port with its addresses and the last offset written (R895, R898). -/
structure MboxRt where
  running : Option BoxCmd := none
  secRunning : Option BoxCmd := none
  lastTaken : Nat := 73
  secLast : Nat := 1
  wordIn : Option (Nat × Nat) := none
  wordOpen : List Nat := []
  wordCmds : List (List Nat) := []
  dropped : List Box := []
  mgmtI3c : Bool := false
  mgmtStatic : Nat := 0x2C
  mgmtDynamic : Option Nat := none
  mgmtOffset : Nat := 0
deriving DecidableEq, Repr

/-! ### Time -/

/-- The almanac clock and what steers it (R442 to R461): `now` in ns with a fraction in parts of 9,000,000, the a-cycles for which an
offset is still to be slewed (R444), the learned frequency as parts of 9,000,000 ns that each a-cycle gains beside its 5,000,000 (R447),
the nanoseconds for which the clock is held (R450), whether an acquisition since start-up has ended, the consecutive good offsets, the time
ports' last offsets, the DELAY_REQ that waits for its answer with its T1 once it has left, beacons since the last DELAY_REQ, R657's
duty, and by watch slot the array whose pour the slot has evaluated last in the present a-cycle (R304). -/
structure TimeRt where
  now : Nat := 0
  frac : Nat := 0
  slew : Int := 0
  rate : Int := 0
  stopUntil : Option Nat := none
  acquired : Bool := false
  good : Nat := 0
  lastOffset : Sp Int := []
  delayReq : Option (Nat × Option Nat) := none
  beacons : Nat := 0
  rearmScrub : Bool := false
  lastMarker : Option Nat := none
  evals : Sp Nat := []
deriving DecidableEq, Repr

/-- What an almanac entry holds beside its words: whether its lead check has been made, the planes of its reservation with their answers,
the descriptor read when it was armed (R745 to R749), and whether that read waits for words of another part. -/
structure EntryRt where
  leadChecked : Bool := false
  planes : Sp Nat := []
  desc : List Byte := []
  reading : Bool := false
deriving DecidableEq, Repr

/-! ### Power and heat -/

/-- Power and thermal state beside the registers: the emergency flag and its cause (R973), the sequence number of telemetry
frames, what the integrity counters and the SQUALL_FLAG events of each flask have counted since the last frame (R970), and the failed words that
evictions of the memory-side cache have met and that the next a-cycle counts and logs, each with whether it was poisoned (R629, R660; log
entry 10). -/
structure PowerRt where
  emergency : Bool := false
  cause : Nat := 0
  frameSeq : Nat := 0
  since : Sp Nat := []
  squallSince : Sp Nat := []
  evicted : List (Nat × Bool) := []
deriving DecidableEq, Repr

/-! ### Fabric -/

/-- A Daxpel port beside its registers (R670 to R717). Transmitter: the next SEQ, the flits not acknowledged with their SEQ, those to be
resent, how often each has been resent, its credits by class and the last CREDIT field seen of each, the packets of each class with the
bytes of the first one already sent, the flit slots since the class had a new packet, the flits of each class that the round robin has
served, and the time messages that wait. Receiver: the SEQ expected, whether the next discard calls for a NAK, which an accepted DATA
flit brings about (R678), and whether a NAK is due, the accepted flits without ACK, whether an ACK is due and whether any DATA flit has been accepted (R680), the buffers freed by
class, the bytes of each class's stream that make no whole packet yet, the bytes that each held flit still has, the packets received
whole, and the time messages with their arrival times. Bring-up: INIT flits sent, whether a good one came, its credits, and the slot of
four. `sent` is what the port has sent, with the kind of each flit; `lineOn` says that its lasers are on, and `noisy` holds the
lanes above the symbol error ratio of R714. -/
structure PortRt where
  txSeq : Nat := 0
  replay : List (Nat × Flit) := []
  resend : List (Nat × Flit) := []
  resends : Sp Nat := []
  credit : Sp Nat := []
  creditSeen : Sp Nat := []
  txStream : Sp (List (List Byte)) := []
  txOffset : Sp Nat := []
  quiet : Sp Nat := []
  rrServed : Sp Nat := []
  timeOut : Nat := 0
  rxSeq : Nat := 0
  nakArmed : Bool := false
  nakDue : Bool := false
  ackDue : Bool := false
  unackedRx : Nat := 0
  rxAny : Bool := false
  freed : Sp Nat := []
  rxStream : Sp (List Byte) := []
  rxFlits : Sp (List Nat) := []
  inbox : List (List Byte) := []
  timeIn : List (List Byte × Nat) := []
  initsSent : Nat := 0
  initGood : Bool := false
  initCredits : List Nat := []
  initSlot : Nat := 0
  sent : List (Nat × Flit) := []
  lineOn : Bool := false
  noisy : Nat := 0
deriving DecidableEq, Repr

/-- A TC2 request that waits for its response (R694 to R702): tag, sequence number, opcode, device, plane it left on, address, length
and flask, the ARG of a read, the pour, host access or ladle whose heat issued it, and the fetch key of its data with the owner of the
words it brings. `hold` is the payload of a request that R701 keeps from leaving. -/
structure Tc2Req where
  tag : Nat
  seq : Nat
  op : Nat
  device : Nat
  plane : Nat
  addr : Nat
  len : Nat
  flask : Nat
  arg : Nat := 0
  pour : Option Nat
  host : Option (Fn × Nat)
  ladle : Option Nat := none
  dest : List Nat
  hold : Option (List Byte) := none
deriving DecidableEq, Repr

/-! ### Collectives -/

/-- What a collective context keeps of one plane: whether the plane passed through (R776), the seal received as DIGEST, COUNT and
IN_FLIGHT_POISON, and the verdict received (R765 to R767). -/
structure CollPlane where
  passed : Bool := false
  sealIn : Option (Nat × Nat × Bool) := none
  verdict : Option Nat := none
deriving DecidableEq, Repr

/-- A chunk that is being reduced on a reduce array (R778, R781): its number, plane and array, the ranks whose data it has taken, the
CRC of the last packet taken and its accumulators as FP32 bits. -/
structure CollWork where
  chunk : Nat
  plane : Nat
  array : Nat
  ranks : List Nat
  crc : Nat := 0
  acc : List (BitVec 32)
deriving DecidableEq, Repr

/-- A collective context in use (R740 to R787): its pour, ids and almanac entry, the descriptor, the descriptor as the entry was armed with it
(R1081), the number of members and this part's rank,
its state (1 WAITING, 2 RUNNING, 3 SEALING), attempt, the slot time and its bound once open, the source and destination pieces as address
and length, how many chunks of the own contribution have been sent, the CRC of every chunk landed (0 for a poisoned one), the leading
chunks landed, whether EARLY_SEM stands still (R775), the first failed chunk with its code and failed words, the first chunk that failed or was
written poisoned (R771), whether SEAL_ACK was sent, RERUN_TIME, the chunks in reduction, and how many chunks have passed through and been reduced. -/
structure CollCtx where
  pour : Nat
  flask : Nat
  collId : Nat
  groupId : Nat
  entry : Option Nat := none
  desc : List Byte
  armDesc : List Byte := []
  members : Nat
  rank : Nat
  state : Nat := 1
  attempt : Nat := 0
  slot : Nat := 0
  bound : Nat := 0
  src : List (Nat × Nat) := []
  dst : List (Nat × Nat) := []
  planes : Sp CollPlane := []
  next : Nat := 0
  got : Sp Nat := []
  early : Nat := 0
  earlyStop : Bool := false
  failure : Option (Nat × Nat × List Nat) := none
  firstBad : Option Nat := none
  acked : Bool := false
  rerunTime : Nat := 0
  work : List CollWork := []
  passedIn : Nat := 0
  reduced : Nat := 0
deriving DecidableEq, Repr

/-! ### Security, contrail, test access -/

/-- The firmware banks, counters, keys and debug state of the secure channel (R905 to R942): the banks in units of 32 KiB,
unit u of bank b at 4096 * b + u, an unlisted unit being erased; the bank that FW_VERIFY has passed on with no write since (R942); the banks that FW_BEGIN has marked invalid (R916); the bank record PREFERRED
and TRIAL with its sequence number, and its older copy (R912); the two fuse
counters in use (R917); the event chain (R926); SEC_BUF; the open challenge with its time (R930), the retire code with its
time (R939), SCOPE of the debug unlock (R932), the next HSS index and its second copy (R921), SERIAL and the configuration record (R925); the units of the NOR that fail to program, and
whether the fuses do (R943; log entry 22); the device secret of the fuses (R918), and what each start-up derives from it: the private scalar of the ECDSA identity key (R919), and the seed and the
identifier of each level of the HSS identity key (R920). -/
structure SecRt where
  bank : Sp (List Byte) := []
  verified : Option Nat := none
  unverified : List Nat := []
  preferred : Nat := 0
  trial : Option Nat := none
  recordSeq : Nat := 0
  recordOlder : Nat × Option Nat := (0, none)
  svn : Nat := 0
  tokenSvn : Nat := 0
  lifecycle : Nat := 2
  bootCount : BitVec 64 := 0
  unlockCount : Nat := 0
  events : List Byte := List.replicate 48 0
  buf : Sp Byte := []
  challenge : Option (List Byte × Nat) := none
  retireCode : Option (List Byte × Nat) := none
  scope : Nat := 0
  hssIndex : Nat := 0
  hssCopy : Nat := 0
  serial : List Byte := List.replicate 16 0
  config : List Byte := []
  secret : List Byte := List.replicate 32 0
  badUnits : List Nat := []
  badFuses : Bool := false
  ecdsaKey : Nat := 0
  hssKey : List (List Byte) := []
deriving DecidableEq, Repr

/-- One entry of the contrail record without SEQ, CRC and FF_COPY (R1011). -/
structure CtEvent where
  boot : Nat
  time : Nat
  timeValid : Bool
  kind : Nat
  flask : Nat
  code : Nat
  phase : Nat
  arg : List Byte
deriving DecidableEq, Repr

/-- The contrail record in MRAM and its queue (R1009 to R1024): both regions as slots of 128 bytes, the next SEQ, the entries
that wait, the entries lost since the last LOST entry, the newest first-fault entry since the last clear (R1020), the two latches, and the read pointer of the management window; with
the fence table of the MRAM (fenced arrays with their cause, fenced routers) and the items of the stored configuration that
differ from their defaults, with its sequence number and its older copy (R995, R1009, R1016, R996). -/
structure ContrailRt where
  ring : Sp (List Byte) := []
  first : Sp (List Byte) := []
  ffCount : Nat := 0
  newestFault : List Byte := []
  nextSeq : BitVec 64 := 1
  queue : List CtEvent := []
  lostDue : Nat := 0
  latch : List Byte := List.replicate 128 0
  mgtLatch : List Byte := List.replicate 128 0
  mgtPtr : Nat := 0
  fenced : Sp Nat := []
  routeFenced : List Nat := []
  stored : Sp (BitVec 32) := []
  storedSeq : Nat := 0
  storedOlder : Sp (BitVec 32) := []
deriving DecidableEq, Repr

/-- The states of the IEEE 1149.1 controller between the commands of the test access port, each of which is a whole scan (R1033). -/
inductive TapState where
  | testLogicReset
  | runTestIdle
deriving DecidableEq, Repr

/-- The test access port (R1033 to R1036): the controller, the instruction register, the cells of the boundary register from TDI towards TDO,
the data register that an instruction other than EXTEST selects, and what was shifted out on TDO when the boundary register was last
shifted. -/
structure TapRt where
  ctrl : TapState := .testLogicReset
  ir : BitVec 8 := 0x01
  boundary : List Bool := List.replicate 53 false
  dr : List Bool := []
  captured : List Bool := []
deriving DecidableEq, Repr

/-- The probe mux (R1027, R1028): a-cycles since the last falling edge of PROBE_CLK, the signals seen high since then, and the levels of
PROBE_0 to PROBE_15. -/
structure ProbeRt where
  count : Nat := 0
  held : BitVec 16 := 0
  lands : BitVec 16 := 0
deriving DecidableEq, Repr

/-- The state of the part. `csr` holds every register field that has been stored since its last reset, by field and
index; `fresh` numbers the uses of free values and is the model's own (log entry 8). -/
structure State where
  /-- The commands that wait, first in, first out. -/
  pending : List Instr := []
  /-- The start-up phase (R976). -/
  phase : Phase := .off
  start : StartRt := {}
  pins : Pins := {}
  /-- Whether the part is an XW9160-1024 (R2). -/
  part1024 : Bool := false
  fresh : Nat := 0
  csr : List (FKind × Sp (BitVec 64)) := []
  /-- Stack tier and fast tier, by local address (R561). -/
  mem : Store := {}
  /-- The memory-side cache: for each base die its lines, most recently used first. -/
  cache : Sp (List CacheLine) := []
  pours : List Pour := []
  nextPour : Nat := 0
  ladles : Sp LadleRt := []
  heats : Sp Heat := []
  /-- Completion records held by R508, by flask, oldest first. -/
  heldCq : Sp (List CqRec) := []
  arrays : Sp ArrayRt := []
  host : HostRt := {}
  mbox : MboxRt := {}
  time : TimeRt := {}
  entries : Sp EntryRt := []
  power : PowerRt := {}
  /-- The deadlines that LOAN_END set, by GiB (R890). -/
  loanEnds : Sp Nat := []
  /-- The scrub window that is open: its stacks (R649), by entry. -/
  scrubOpen : Sp Nat := []
  /-- The next 4 KiB of base-die SRAM that scrub visits, by base die; the model's own place beside SCRUB_POS_s (log entry 32). -/
  sramPos : Sp Nat := []
  /-- ENUM_POS of the brick enumerator, and the code of its last failure, 0 after a success (R337 to R340; log entry 33). -/
  enumPos : Nat := 0
  enumCode : Nat := 0
  ports : Sp PortRt := []
  tc2 : List Tc2Req := []
  tc2Next : Nat := 0
  /-- Words of the neighbour tier or of another part that a response has brought and their requester has not taken yet, by
  owner * 2^56 + word number of their fetch key: outcome (0 data, 1 uncorrectable, 2 poisoned, 3 the request ended with the code that
  stands as data) and data. -/
  staged : Sp (Nat × BitVec 64) := []
  colls : Sp CollCtx := []
  sec : SecRt := {}
  contrail : ContrailRt := {}
  /-- What the last TGEN_RUN found in each stack: failed-channel mask, corrected and uncorrectable words (R1037). -/
  tgen : Sp (Nat × Nat × Nat) := []
  tap : TapRt := {}
  probe : ProbeRt := {}
deriving DecidableEq, Repr

/-- The machine right after reset: phase OFF, no power, every register at its reset value, nothing written in any store and
no command waiting. -/
def State.reset : State := {}

end Sys2Proof.Machine
end

