-- ==== Sys2Proof/Machine/Ops.lean ====
section
/-!
DEFINITION. The named operations over registers, bytes, events, records and interrupts that every command uses, and
`settle`, which drives the outputs after each command.
-/
namespace Sys2Proof.Machine

/-! ### Register fields -/

/-- The reset value of a field at an index (the field maps of spec/). -/
def FKind.resetVal (k : FKind) (i : Nat) : Nat := k.info.reset + k.info.step * i

/-- The stored values of one field, by index. -/
def csrRow : List (FKind × Sp (BitVec 64)) → FKind → Sp (BitVec 64)
  | [], _ => []
  | (k', r) :: t, k => if k' = k then r else csrRow t k

/-- The register file with the stored values of one field replaced. -/
def csrPutRow : List (FKind × Sp (BitVec 64)) → FKind → Sp (BitVec 64) → List (FKind × Sp (BitVec 64))
  | [], k, r => [(k, r)]
  | (k', r') :: t, k, r =>
    if k' = k then (k, r) :: t
    else if k.ctorIdx < k'.ctorIdx then (k, r) :: (k', r') :: t
    else (k', r') :: csrPutRow t k r

/-- The value of a register field: what was last stored, else its reset value. -/
def State.rd (s : State) (k : FKind) (i : Nat := 0) : Nat :=
  match Sp.get? (csrRow s.csr k) i with
  | some v => v.toNat
  | none => k.resetVal i

/-- The state with a register field set; bits beyond the field's width are dropped. -/
def State.wr (s : State) (k : FKind) (i : Nat) (v : Nat) : State :=
  { s with csr := csrPutRow s.csr k (Sp.put (csrRow s.csr k) i (BitVec.ofNat 64 (v % 2 ^ k.info.width))) }

/-- A one-bit field as a truth value. -/
def State.bit (s : State) (k : FKind) (i : Nat := 0) : Bool := s.rd k i = 1

/-- Set a one-bit field. -/
def State.setBit (s : State) (k : FKind) (i : Nat := 0) : State := s.wr k i 1

/-- Clear a field. -/
def State.clr (s : State) (k : FKind) (i : Nat := 0) : State := s.wr k i 0

/-- The place of an integrity counter among the 67 of R659, in offset order (R970). -/
def integrityPlace (k : FKind) (i : Nat) : Option Nat :=
  match k with
  | .eccCe => some i
  | .eccUe => some (16 + i)
  | .eccCeSram => some (32 + i)
  | .eccUeSram => some (48 + i)
  | .eccCeArray => some 64
  | .eccUeArray => some 65
  | .poisonReads => some 66
  | _ => none

/-- Add to a counter field, saturating at its largest value; an integrity counter also counts for the next telemetry
frame. -/
def State.count (s : State) (k : FKind) (i : Nat) (n : Nat := 1) : State :=
  let s1 := s.wr k i (min (s.rd k i + n) (2 ^ k.info.width - 1))
  match integrityPlace k i with
  | some j => { s1 with power := { s1.power with since := Sp.modify s1.power.since j 0 (· + n) } }
  | none => s1

/-- Every field of a block back to its reset value. -/
def State.resetBlock (s : State) (b : Block) : State :=
  { s with csr := s.csr.filter (fun e => e.1.info.block ≠ b) }

/-! ### Numbers and bytes -/

/-- The bits [lo + w − 1 : lo] of a number (R4). -/
@[irreducible] def bits (x lo w : Nat) : Nat := (x >>> lo) % 2 ^ w

/-- A number as its `n` low bytes, least significant first (R5). -/
def leBytes : Nat → Nat → List Byte
  | _, 0 => []
  | x, n + 1 => BitVec.ofNat 8 x :: leBytes (x / 256) n

/-- The number that bytes spell, least significant first (R5). -/
def leNat : List Byte → Nat
  | [] => 0
  | b :: r => b.toNat + 256 * leNat r

/-- A number read as two's complement of a width. -/
@[irreducible] def toInt (w : Nat) (x : Nat) : Int :=
  let y := x % 2 ^ w
  if y < 2 ^ (w - 1) then y else (y : Int) - 2 ^ w

/-- An integer as the number of its two's complement bits of a width. -/
@[irreducible] def ofInt (w : Nat) (x : Int) : Nat := (x % (2 ^ w : Int)).toNat

/-- The difference of two 32-bit indices, modulo 2^32. -/
@[irreducible] def sub32 (a b : Nat) : Nat := (((a : Int) - b) % 2 ^ 32).toNat

/-- `n / d` rounded up. -/
def ceilDiv (n d : Nat) : Nat := (n + d - 1) / d

/-- The indices of the set bits of a number below a width. -/
def bitList (x w : Nat) : List Nat := (List.range w).filter (fun i => x.testBit i)

/-- The number whose set bits are those listed. -/
def bitMask (l : List Nat) : Nat := l.foldl (fun x i => x ||| (1 <<< i)) 0

/-- One step of CRC-32C over a byte, reflected (R672). -/
def crcByte (c : Nat) (b : Nat) : Nat :=
  (List.range 8).foldl (fun c _ => if c % 2 = 1 then (c / 2) ^^^ 0x82F63B78 else c / 2) (c ^^^ b)

/-- CRC-32C with initial value and final XOR 0xFFFF_FFFF and reflected input and output (R672). -/
def crc32c (l : List Byte) : Nat :=
  (l.foldl (fun c b => crcByte c b.toNat) 0xFFFFFFFF) ^^^ 0xFFFFFFFF

/-- A list cut to `n` elements and filled with a value up to `n`. -/
def padTo {α : Type} (l : List α) (n : Nat) (d : α) : List α := (l ++ List.replicate (n - l.length) d).take n

/-- `n` consecutive chunks of `w` elements. -/
def chunks {α : Type} (w : Nat) : Nat → List α → List (List α)
  | 0, _ => []
  | n + 1, l => l.take w :: chunks w n (l.drop w)

/-! ### Time -/

/-- Almanac time (R442), as the 64-bit count of R9. -/
def State.now (s : State) : Nat := s.time.now % 2 ^ 64

/-- Whether the part holds time lock: LOCKED or HOLDOVER (R448). -/
def State.timeLock (s : State) : Bool := s.rd .lockState = 2 || s.rd .lockState = 3

/-! ### Free values -/

/-- The free value number `k` of the command under way (log entry 8). -/
def State.free (s : State) (k : Nat) : BitVec 64 := Config.freeWord (s.fresh * 2 ^ 32 + k)

/-- Free bytes, numbered from `k`. -/
def State.freeBytes (s : State) (k n : Nat) : List Byte := (List.range n).map (fun i => (s.free (k + i)).setWidth 8)

/-! ### Start-up phase -/

/-- The code of a phase (R976). -/
def Phase.code : Phase → Nat
  | .off => 0x0 | .standby => 0x1 | .power => 0x2 | .identity => 0x3 | .record => 0x4 | .selftest => 0x5
  | .qualify => 0x6 | .config => 0x7 | .ready => 0x8 | .failed => 0xE | .recovery => 0xF

/-- The part reports ready (R883, R1000). -/
def State.ready (s : State) : Bool := s.phase = .ready

/-- The standby island is up: every phase but OFF. -/
def State.island (s : State) : Bool := s.phase ≠ .off

/-- BAR0 of the functions answers: every phase from IDENTITY onward (R984). -/
def State.bar0Up (s : State) : Bool :=
  match s.phase with
  | .off | .standby | .power | .recovery => false
  | _ => true

/-! ### Interrupts and part events -/

/-- The bits of HOST_INT_CAUSE. -/
def causeFence : Nat := 0
def causeIntegrity : Nat := 1
def causeFabric : Nat := 2
def causeTime : Nat := 3
def causePower : Nat := 4
def causeBay : Nat := 5
def causeWordCmd : Nat := 6

/-- Set a bit of HOST_INT_CAUSE (R859). -/
def State.cause (s : State) (b : Nat) : State := s.wr .hostIntCause 0 (s.rd .hostIntCause ||| (1 <<< b))

/-- Set a status bit, and the HOST_INT_CAUSE bit of its condition when the status bit becomes 1 (R859). -/
def State.raise (s : State) (k : FKind) (i b : Nat) : State :=
  if s.bit k i then s else (s.setBit k i).cause b

/-- Whether VF `v` exists: VF Enable is set and NumVFs reaches it (R854). -/
def State.vfExists (s : State) (v : Nat) : Bool := s.bit .linkVfEnable && decide (1 ≤ v) && decide (v ≤ s.rd .linkNumVf)

/-- The MSI-X vector numbers of the model: 0 to 2,047 of PF0, and 2,048 + 16·v + i of vector i of VF v. -/
def vfVector (v i : Nat) : Nat := 2048 + 16 * v + i

/-- The vector of PF0 source `i` (R853). -/
def State.route (s : State) (i : Nat) : Nat := s.rd .intRoute i

/-- The vector of a flask's completion source (`ev` false) or event source (`ev` true) (R853, R854). -/
def State.flaskVector (s : State) (f : Nat) (ev : Bool) : Nat :=
  if s.vfExists f then vfVector f (if ev then 1 else 0) else s.route (if ev then 64 + f else f)

/-- An interrupt source fires: its message is due, and `settle` sends it when the part may (R985). -/
def State.fire (s : State) (v : Nat) : State :=
  if v ∈ s.host.held then s else { s with host := { s.host with held := s.host.held ++ [v] } }

/-- The number of a function in configuration space, and that of the function of a vector. -/
def fnNum : Fn → Nat
  | .pf0 => 0
  | .vf v => v
def vectorFn (v : Nat) : Nat := (v - 2048) / 16

/-- A message of a vector may leave: the part is READY, the function has MSI-X Enable and is in D0, and neither the function nor the vector is
masked (R985, R859). -/
def State.sendable (s : State) (v : Nat) : Bool :=
  s.ready && !s.bit .msixMask v && s.host.msixOn.contains (vectorFn v) && !s.host.msixHeld.contains (vectorFn v)
    && !s.host.sleeping.contains (vectorFn v)

/-- HOST_INT_CAUSE AND HOST_INT_EN. -/
def State.maskedCause (s : State) : BitVec 7 := BitVec.ofNat 7 (s.rd .hostIntCause &&& s.rd .hostIntEn)

/-- The part-event source fires when the masked cause has changed from zero to nonzero (R860). -/
def State.partEvent (s : State) : State :=
  let lv := s.maskedCause
  let s1 := if s.host.irqLevel = 0 && lv ≠ 0 then s.fire (s.route 136) else s
  { s1 with host := { s1.host with irqLevel := lv } }

/-- Send the messages that may leave, in the order they became due. -/
def State.sendHeld (s : State) : State :=
  { s with host := { s.host with
      out := s.host.out ++ (s.host.held.filter s.sendable).map HostMsg.msix,
      held := s.host.held.filter (fun v => !s.sendable v) } }

/-- Index of the management mailbox, of the secure mailbox of PF1 and of that of the management port among the mailbox
registers; PF0 mailbox m has index m and VF mailbox v has index 8 + v. -/
def boxMgmt : Nat := 72
def boxSecPf1 : Nat := 80
def boxSecMgmt : Nat := 81

/-- An alert is pending (R902): DONE and INT_EN of the management mailbox or of the secure mailbox of the management port,
FF_NEW (R1026), a bit of PWR_EVENT or the emergency flag (R974). -/
def State.alert (s : State) : Bool :=
  (s.bit .mboxDone boxMgmt && s.bit .mboxIntEn boxMgmt) || (s.bit .mboxDone boxSecMgmt && s.bit .mboxIntEn boxSecMgmt)
    || s.bit .ffNew || s.bit .pwrGoverned || s.bit .pwrStackClass || s.bit .pwrDieClass || s.bit .pwrInputWarn
    || s.power.emergency

/-- Drive ALERT_N low exactly while an alert is pending and the standby island is up; in I3C mode its fall raises an In-Band
Interrupt (R902). -/
def State.driveAlert (s : State) : State :=
  let low := s.alert && s.island
  let falls := s.pins.alertN && low
  { s with pins := { s.pins with
      alertN := !low, ibi := if falls && s.mbox.mgmtI3c then s.pins.ibi + 1 else s.pins.ibi } }

/-! ### Contrail entries -/

/-- Queue a contrail entry; with 1,024 entries waiting the event is discarded and counted (R1013, R1014). -/
def State.contrailAdd (s : State) (kind flask code : Nat) (arg : List Byte) : State :=
  if s.contrail.queue.length < 1024 then
    let e : CtEvent := { boot := s.sec.bootCount.toNat, time := s.now, timeValid := s.timeLock, kind := kind, flask := flask, code := code,
                         phase := s.phase.code, arg := arg }
    { s with contrail := { s.contrail with queue := s.contrail.queue ++ [e] } }
  else
    { s with contrail := { s.contrail with lostDue := s.contrail.lostDue + 1 } }.count .ctLost 0

/-! ### Status codes (R818) -/

def cOK : Nat := 0x0000
def cAlreadyComplete : Nat := 0x0001
def cAborted : Nat := 0x0002
def cUeRead : Nat := 0x0010
def cPoisonRead : Nat := 0x0011
def cDatapathParity : Nat := 0x0012
def cShapeOverflow : Nat := 0x0020
def cBufferOverflow : Nat := 0x0021
def cSegmentFault : Nat := 0x0030
def cQuotaExceeded : Nat := 0x0031
def cFencedArray : Nat := 0x0032
def cBayRevoked : Nat := 0x0033
def cFormatInvalid : Nat := 0x0040
def cOpcodeInvalid : Nat := 0x0041
def cTableVersionRetired : Nat := 0x0050
def cCollRefused : Nat := 0x0060
def cCollDeferLimit : Nat := 0x0061
def cCollAbandoned : Nat := 0x0062
def cSealMismatch : Nat := 0x0063
def cPassThrough : Nat := 0x0064
def cLinkLost : Nat := 0x0070
def cThermalStop : Nat := 0x0080
def cReplayFailed : Nat := 0x0090
def cSquallStop : Nat := 0x00A0

/-! ### Ladle and lock states -/

def ladleDisabled : Nat := 0
def ladleActive : Nat := 1
def ladleStopped : Nat := 2
def ladleAborting : Nat := 3

def lockUnlocked : Nat := 0
def lockAcquiring : Nat := 1
def lockLocked : Nat := 2
def lockHoldover : Nat := 3

/-! ### Grid (R11 to R14) -/

/-- Index 32y + x of array (x, y). -/
def arrayIndex (x y : Nat) : Nat := 32 * y + x

/-- The column of an array index. -/
def arrayX (a : Nat) : Nat := a % 32

/-- The row of an array index. -/
def arrayY (a : Nat) : Nat := a / 32

/-- The compute die of an array: columns 8d to 8d + 7. -/
def arrayDie (a : Nat) : Nat := arrayX a / 8

/-- Whether an array is fenced. -/
def State.fenced (s : State) (a : Nat) : Bool := (s.rd .fenceMap (arrayY a)).testBit (arrayX a)

/-- Whether an array is router-fenced. -/
def State.routeFenced (s : State) (a : Nat) : Bool := (s.rd .routeFenceMap (arrayY a)).testBit (arrayX a)

/-- The array at an index. -/
def State.array (s : State) (a : Nat) : ArrayRt := Sp.getD s.arrays a {}

/-- The state with an array replaced. -/
def State.setArray (s : State) (a : Nat) (r : ArrayRt) : State := { s with arrays := Sp.put s.arrays a r }

/-- The state with an array changed. -/
def State.onArray (s : State) (a : Nat) (f : ArrayRt → ArrayRt) : State := s.setArray a (f (s.array a))

/-- What a ladle holds beside its registers. -/
def State.ladle (s : State) (n : Nat) : LadleRt := Sp.getD s.ladles n {}

/-- The state with a ladle changed. -/
def State.onLadle (s : State) (n : Nat) (f : LadleRt → LadleRt) : State :=
  { s with ladles := Sp.put s.ladles n (f (s.ladle n)) }

/-- A Daxpel port. -/
def State.port (s : State) (n : Nat) : PortRt := Sp.getD s.ports n {}

/-- The state with a port changed. -/
def State.onPort (s : State) (n : Nat) (f : PortRt → PortRt) : State :=
  { s with ports := Sp.put s.ports n (f (s.port n)) }

/-! ### Pours -/

/-- A field of a pour record: bits [lo + w − 1 : lo] of the record's 1,024. -/
def Pour.f (p : Pour) (lo w : Nat) : Nat := bits p.word.toNat lo w

/-- The pour of a number, if it has not ended. -/
def State.pour? (s : State) (id : Nat) : Option Pour := s.pours.find? (fun p => p.id = id)

/-- The state with one pour changed. -/
def State.onPour (s : State) (id : Nat) (f : Pour → Pour) : State :=
  { s with pours := s.pours.map (fun p => if p.id = id then f p else p) }

/-- The state without a pour and without the words that its requests brought. -/
def State.dropPour (s : State) (id : Nat) : State :=
  { s with pours := s.pours.filter (fun p => p.id ≠ id), staged := s.staged.filter (fun e => e.1 / 2 ^ 56 ≠ 2 ^ 20 + id) }

/-- The pours of a ladle that have not ended. -/
def State.ladlePours (s : State) (n : Nat) : List Pour := s.pours.filter (fun p => p.ladle = n)

/-- The ladle's records by flask: ladle n belongs to flask n / 4 (R487). -/
def ladleFlask (n : Nat) : Nat := n / 4

/-- The pours of a ladle's heat that have not ended. -/
def State.heatPours (s : State) (n : Nat) : List Pour := s.pours.filter (fun p => p.ladle = n && p.heat.isSome)

/-- The pours in a unit's queue or running on it, in dispatch order, parked ones apart. -/
def State.unitPours (s : State) (u : PUnit) : List Pour := s.pours.filter (fun p => p.unit = u && !p.parked)

/-! ### Derived register fields -/

/-- 24 hours in nanoseconds. -/
def dayNs : Nat := 86400000000000

/-- The times of the last 24 hours, with one more at the end. -/
def recent (now : Nat) (l : List Nat) : List Nat := l.filter (fun t => decide (now < t + dayNs))

/-- The number of set bits of 32-bit words. -/
def popcount (x w : Nat) : Nat := (bitList x w).length

/-- SAVE_BASE of a flask, and the size in pages of its save area (R544, R884). -/
def State.saveBase (s : State) (f : Nat) : Nat := (s.rd .saveBaseLo f <<< 12) + (s.rd .saveBaseHi f <<< 32)
def savePages : Nat := 74752

/-- The tier of a local address: 0 stack, 1 fast, 2 neighbour window (R561). -/
def tierOf (a : Nat) : Nat := if a < 0x080000000000 then 0 else if a < 0x0C0000000000 then 1 else 2

/-- The pages a flask uses in a tier: those of its valid segments, each counted once, and its save area (R583). -/
def State.usedPages (s : State) (f tier : Nat) : Nat :=
  (((List.range 256).filter (fun i => s.bit .segValid (256 * f + i) && s.rd .segTier (256 * f + i) = tier)).map
    (fun i => (s.rd .segLimit (256 * f + i) + 1 - s.rd .segBase (256 * f + i)) / 4096)).sum
  + (if s.bit .flaskEnabled f && tierOf (s.saveBase f) = tier then savePages else 0)

/-- The bank that is neither running nor PREFERRED (R916). -/
def State.idleBank (s : State) : Option Nat :=
  [0, 1].find? (fun b => b ≠ s.sec.preferred && !(s.start.imageRuns && s.start.runBank = b))

/-- A field that other state determines (access `derived`). -/
def State.derived (s : State) (k : FKind) (i : Nat) : Nat :=
  match k with
  | .msixPba => bitMask ((List.range 32).filter (fun b => 32 * i + b ∈ s.host.held))
  | .parityCount => min 255 ((recent s.now (s.array i).parityTimes).length + (recent s.now (s.array i).routerTimes).length)
  | .ueCount => min 255 (recent s.now (s.array i).ueTimes).length
  | .fenceCount => ((List.range 16).map (fun y => popcount (s.rd .fenceMap y) 32)).sum
  | .routeFenceCount => ((List.range 16).map (fun y => popcount (s.rd .routeFenceMap y) 32)).sum
  | .flaskEligible => if (s.rd .sliceEligible (i / 32)).testBit (i % 32) then 1 else 0
  | .arraysOwned =>
    ((List.range 512).filter (fun a => s.bit .arrayOwned a && s.rd .arrayOwnerFlask a = i)).length
  | .heatRunning => if (Sp.get? s.heats i).isSome then 1 else 0
  | .inFlight => if (s.ladlePours i).isEmpty then 0 else 1
  | .nowLo => s.now % 2 ^ 32
  | .stackGib => if s.part1024 then 0x40 else 0x60
  | .runnerBusy => if (s.unitPours (.runner i)).any (fun p => p.stage ≠ .queued && p.stage ≠ .released) then 1 else 0
  | .runnerQueued =>
    ((s.unitPours (.runner i)).filter (fun p => p.stage = .queued || p.stage = .released)).length
  | .portsUp => ((List.range 32).filter (fun n => s.rd .portState n = 3)).length
  | .usedBays => ((List.range 4096).filter (fun b => s.rd .bayState b ≠ 0 && s.rd .bayFlask b = i)).length
  | .usedFast => s.usedPages i 1
  | .usedStack => s.usedPages i 0
  | .gridValid =>
    let p := (s.rd .gridLen0 + 1) * (s.rd .gridLen1 + 1) * (s.rd .gridLen2 + 1) * (s.rd .gridLen3 + 1)
    if s.ready && p ≤ 4096 && decide (s.rd .fabDevice < p) then 1 else 0
  | .collContexts => s.colls.length
  | .ctxState => ((Sp.get? s.colls i).map (·.state)).getD 0
  | .ctxFlask => ((Sp.get? s.colls i).map (·.flask)).getD 0
  | .ctxAttempt => ((Sp.get? s.colls i).map (·.attempt)).getD 0
  | .ctxPassed => if ((Sp.get? s.colls i).map (fun c => c.planes.any (fun e => e.2.passed))).getD false then 1 else 0
  | .ctxCollId => ((Sp.get? s.colls i).map (·.collId)).getD 0
  | .ctxGroupId => ((Sp.get? s.colls i).map (·.groupId)).getD 0
  | .ctxLanded => ((Sp.get? s.colls i).map (·.early)).getD 0
  | .startPhase => s.phase.code
  | .ctSeq => bits s.contrail.nextSeq.toNat (32 * i) 32
  | .ffCount => s.contrail.ffCount
  | .ffFull => if s.contrail.ffCount = 16384 then 1 else 0
  | .ctEntry => leNat ((s.contrail.latch.drop (4 * i)).take 4)
  | .lifecycle => s.sec.lifecycle
  | .runBank => s.start.runBank
  | .preferredBank => s.sec.preferred
  | .runTrial => if s.start.runTrial then 1 else 0
  | .idleVerified => if s.sec.verified.isSome && s.sec.verified = s.idleBank then 1 else 0
  | .fwSvn => s.sec.svn
  | .tokenSvn => s.sec.tokenSvn
  | .probeUnlocked => if s.sec.scope.testBit 0 then 1 else 0
  | .recovery => if s.phase = .recovery then 1 else 0
  | _ => s.rd k i

/-- A register field as a read of its register returns it. -/
def State.field (s : State) (k : FKind) (i : Nat) : Nat :=
  match k.info.acc with
  | .derived => s.derived k i
  | _ => s.rd k i

/-! ### The probe mux (R1027 to R1030) -/

/-- The probe mux drives: READY with ENABLE 1 (R1027, R1029). -/
def State.probing (s : State) : Bool := s.ready && s.bit .probeEnable

/-- The level signals of a public probe group (R1030); the moments among them come through `pulse`. -/
def State.probeLevels (s : State) : Nat :=
  let b (x : Bool) (i : Nat) : Nat := if x then 1 <<< i else 0
  match s.rd .probeGroup with
  | 0 =>
    -- a COLL_PHASE entry (KIND 1) is OPEN (STATE 2)
    b (((csrRow s.csr .entState).map (·.1)).any (fun e => s.rd .entKind e = 1 && s.rd .entState e = 2)) 2 + (s.rd .lockState <<< 3)
  | 1 => ((List.range 16).map (fun i => b (s.rd .stackClass i ≠ 0) i)).sum
  | 2 =>
    ((List.range 4).map (fun i => b (s.rd .dieClass i = 1) i)).sum + b ((List.range 16).any (fun i => s.rd .stackClass i = 2)) 4
      + b (!s.pins.thermTripN) 5
  | 3 =>
    let f := s.rd .probeActFlask
    ((List.range 4).map (fun l =>
      b (s.derived .inFlight (4 * f + l) = 1) l + b (s.derived .heatRunning (4 * f + l) = 1) (4 + l)
        + b (s.rd .ladleState (4 * f + l) = ladleStopped) (8 + l))).sum
  | _ => 0

/-- Signals of the group that are one bit each; LOCK_STATE in group 0 is a number and is only sampled. -/
def State.probeSingles (s : State) : Nat := if s.rd .probeGroup = 0 then 0xFFE7 else 0xFFFF

/-- A signal that is a moment and no level is high now (R1028, R1030). -/
def State.pulse (s : State) (group i : Nat) : State :=
  if s.probing && s.rd .probeGroup = group then
    { s with probe := { s.probe with held := s.probe.held ||| BitVec.ofNat 16 (1 <<< i) } } else s

/-- Hold what is high now until the next sample (R1028); while the mux does not drive, its lands and PROBE_CLK are low (R1029). -/
def State.holdProbe (s : State) : State :=
  { s with probe := if s.probing then
      { s.probe with held := s.probe.held ||| BitVec.ofNat 16 (s.probeLevels &&& s.probeSingles) } else {} }

/-- One a-cycle of the probe mux: at each falling edge of PROBE_CLK, ACLK divided by 4, 8, 16 or 32, the lands take the levels and what was
held (R1027, R1028). What a group that a debug token opens shows is a free value (log entry 55). -/
def State.clockProbe (s : State) : State :=
  if !s.probing then s
  else if s.probe.count + 1 < 4 * 2 ^ s.rd .probeDiv then { s with probe := { s.probe with count := s.probe.count + 1 } }
  else
    let levels := if 4 ≤ s.rd .probeGroup then (s.free 0).setWidth 16 else BitVec.ofNat 16 s.probeLevels
    { s with probe := { count := 0, held := 0, lands := levels ||| s.probe.held } }

/-- The level of PROBE_CLK (R1027, R1029): low after its falling edge for half its period. -/
def State.probeClk (s : State) : Bool := s.probing && decide (4 * 2 ^ s.rd .probeDiv ≤ 2 * s.probe.count)

/-! ### After every command -/

/-- What the part does after every command: the part-event source is evaluated, messages that may leave are sent, ALERT_N is
driven, the probe mux looks at its signals, and the next use of free values is numbered. -/
def settle (s : State) : State :=
  let s1 := s.partEvent.sendHeld.driveAlert.holdProbe
  { s1 with fresh := s1.fresh + 1 }

/-- The outcome of a command: the next state, with the outputs driven. -/
def done (s : State) : Host.Outcome State Fault Refusal := .next (settle s)

end Sys2Proof.Machine
end

