-- ==== Sys2Proof/Machine/Link.lean ====
section
/-!
DEFINITION. Daxpel packets: their header, their end-to-end check, the port a packet leaves on, and the queues of the ports
(R688 to R708).
-/
namespace Sys2Proof.Machine

/-- The header of a packet without E2E_CRC (R688). -/
structure PktHdr where
  op : Nat
  tc : Nat
  plane : Nat
  dst : Nat
  src : Nat
  flask : Nat := 0
  len : Nat
  seq : Nat := 0
  tag : Nat := 0
  status : Nat := 0
  addr : Nat := 0
  arg : Nat := 0
deriving DecidableEq, Repr

/-- The 32 header bytes with a given E2E_CRC. -/
def PktHdr.bytes (h : PktHdr) (crc : Nat) : List Byte :=
  leBytes (h.op + (h.tc <<< 8) + (h.plane <<< 10) + (h.dst <<< 16) + (h.src <<< 28) + (h.flask <<< 40) + (h.len <<< 48)) 8
  ++ leBytes (h.seq + (h.tag <<< 32) + (h.status <<< 48)) 8 ++ leBytes h.addr 8 ++ leBytes (h.arg + (crc <<< 32)) 8

/-- A whole packet: header with E2E_CRC, then payload (R689). -/
def packet (h : PktHdr) (payload : List Byte) : List Byte :=
  h.bytes (crc32c (h.bytes 0 ++ payload)) ++ payload

/-- A field of a packet's header. -/
def pktField (p : List Byte) (byte lo w : Nat) : Nat := bits (leNat ((p.drop byte).take 8)) lo w

/-- The header fields of a packet. -/
def pktHdr (p : List Byte) : PktHdr :=
  { op := pktField p 0 0 8, tc := pktField p 0 8 2, plane := pktField p 0 10 3, dst := pktField p 0 16 12,
    src := pktField p 0 28 12, flask := pktField p 0 40 6, len := pktField p 0 48 16, seq := pktField p 8 0 32,
    tag := pktField p 8 32 16, status := pktField p 8 48 16, addr := pktField p 16 0 44, arg := pktField p 24 0 32 }

/-- The payload of a packet. -/
def pktPayload (p : List Byte) : List Byte := p.drop 32

/-- A 64-bit payload word at a byte offset. -/
def pktWord (p : List Byte) (byte : Nat) : Nat := leNat (((pktPayload p).drop byte).take 8)

/-- The E2E_CRC of a packet is right (R689). -/
def pktCrcOk (p : List Byte) : Bool :=
  decide (pktField p 24 32 32 = crc32c ((pktHdr p).bytes 0 ++ pktPayload p))

/-- The traffic class an opcode belongs to (R691), or `none` for a reserved opcode. -/
def opcodeTc (op : Nat) : Option Nat :=
  if op = 0x01 || op = 0x02 || op = 0x03 || op = 0x04 || op = 0x05 || op = 0x06 || op = 0x07 || op = 0x08 then some 0
  else if 0x40 ≤ op && op ≤ 0x49 then some 1
  else if 0x80 ≤ op && op ≤ 0x83 then some 2
  else if 0xC0 ≤ op && op ≤ 0xC2 then some 3
  else none

/-- A reserved field of a payload is nonzero: of a time message (R455), whose every unlisted bit is reserved, of a collective header
(R753), or of the first word of a command for the word mailbox (R870). -/
def reservedSet (tc : Nat) (p : List Byte) : Bool :=
  let beyond (n : Nat) : Bool := ((pktPayload p).drop n).any (fun b => b ≠ 0)
  let high (byte lo : Nat) : Bool := pktWord p byte >>> lo ≠ 0
  if tc = 1 then bits (pktWord p 0) 58 6 ≠ 0 || bits (pktWord p 16) 26 6 ≠ 0
  else if tc = 0 then
    match (pktHdr p).op with
    | 1 => high 8 38 || beyond 16
    | 2 => beyond 8
    | 3 => beyond 24
    | 4 | 5 => high 8 34 || beyond 16
    | 6 => high 16 36 || beyond 24
    | 7 => high 0 48 || beyond 8
    | _ => false
  else if tc = 3 && (pktHdr p).op = 0xC0 then pktField p 24 0 2 = 0 && bits (pktWord p 0) 10 6 ≠ 0
  else false

/-- A received packet is discarded into BAD_PKT (R692). -/
def State.badPacket (s : State) (port tc : Nat) (p : List Byte) : Bool :=
  let h := pktHdr p
  pktField p 0 13 3 ≠ 0 || pktField p 0 46 2 ≠ 0 || pktField p 16 44 20 ≠ 0
    || h.dst ≠ s.rd .fabDevice
    || opcodeTc h.op ≠ some tc || h.tc ≠ tc || reservedSet tc p || h.len % 8 ≠ 0 || decide (4160 < h.len) || h.plane ≠ s.rd .portPlane port

/-- The ports in UP, ascending; of one plane when one is given (R705). -/
def State.upPorts (s : State) (plane : Option Nat) : List Nat :=
  (List.range 32).filter (fun n => s.rd .portState n = 3 && (plane.isNone || plane = some (s.rd .portPlane n)))

/-- The port of a TC2 or TC3 packet: entry h mod n of the eligible ports (R705), or `none` when no eligible port is UP. -/
def State.pickPort (s : State) (plane : Option Nat) (dst flask addr : Nat) : Option Nat :=
  let l := s.upPorts plane
  let h := (dst * 31 + flask * 7 + addr >>> 12) % 2 ^ 32
  l[h % l.length]?

/-- Queue a packet on a port, behind the earlier packets of its class (R707). -/
def State.sendOn (s : State) (port : Nat) (h : PktHdr) (payload : List Byte) : State :=
  let h' := { h with plane := s.rd .portPlane port, src := s.rd .fabDevice, len := payload.length }
  s.onPort port (fun r => { r with
    txStream := Sp.modify r.txStream h.tc [] (· ++ [packet h' payload]), quiet := Sp.put r.quiet h.tc 0 })

/-- Take bytes from the flits that a class's buffers hold, in order: the flits left and how many became free (R686). -/
def takeFlits : List Nat → Nat → List Nat × Nat
  | [], _ => ([], 0)
  | f :: r, n =>
    if f ≤ n then
      let x := takeFlits r (n - f)
      (x.1, x.2 + 1)
    else ((f - n) :: r, 0)

/-- The consumer of a class has taken bytes: the buffers of the flits that brought them are freed (R686). -/
def PortRt.free (r : PortRt) (tc n : Nat) : PortRt :=
  let x := takeFlits (Sp.getD r.rxFlits tc []) n
  { r with rxFlits := Sp.put r.rxFlits tc x.1, freed := Sp.modify r.freed tc 0 (fun k => (k + x.2) % 4096) }

/-- The next packet of a class that a port has received whole, when its opcode is one of those given, and the state with it
taken and its buffers freed (R686, R707). -/
def State.takePacket (s : State) (port tc : Nat) (ops : List Nat) : Option (List Byte × State) :=
  let other : List Byte → Bool := fun p => opcodeTc (pktHdr p).op ≠ some tc
  let ib := (s.port port).inbox
  match ib.dropWhile other with
  | [] => none
  | p :: r =>
    if (pktHdr p).op ∈ ops then
      some (p, s.onPort port (fun q => { q with inbox := ib.takeWhile other ++ r }.free tc p.length))
    else none

/-- The answer to a TC2 request: same tag, sequence number, flask and address, on the plane of the request (R698,
R700). -/
def State.respond (s : State) (req : PktHdr) (op status arg : Nat) (payload : List Byte) : State :=
  match s.pickPort (some req.plane) req.src req.flask req.addr with
  | none => s
  | some port =>
    s.sendOn port { op := op, tc := 2, plane := req.plane, dst := req.src, src := 0, flask := req.flask, len := 0,
                    seq := req.seq, tag := req.tag, status := status, addr := req.addr, arg := arg } payload

/-- Send a TC3 packet to a device; `false` when no port is UP. -/
def State.sendTc3 (s : State) (dst op arg : Nat) (payload : List Byte) : Bool × State :=
  match s.pickPort none dst 0 0 with
  | none => (false, s)
  | some port => (true, s.sendOn port { op := op, tc := 3, plane := 0, dst := dst, src := 0, len := 0, arg := arg } payload)

/-- The TC2 requests that wait for a response (R701). -/
def State.waiting (s : State) : List Tc2Req := s.tc2.filter (fun q => q.hold.isNone)

/-- Send the packet of a TC2 request on the port chosen for it (R705), with its SEQ and TAG; `none` when no port is UP (R708). -/
def State.sendTc2 (s : State) (q : Tc2Req) (payload : List Byte) : Option (State × Tc2Req) :=
  match s.pickPort none q.device q.flask q.addr with
  | none => none
  | some port =>
    let seq := s.tc2Next % 2 ^ 32
    let tag := s.tc2Next % 2 ^ 16
    let s1 := s.sendOn port { op := q.op, tc := 2, plane := 0, dst := q.device, src := 0, flask := q.flask, len := 0,
                              seq := seq, tag := tag, addr := q.addr, arg := q.arg } payload
    some ({ s1 with tc2Next := s.tc2Next + 1 },
      { q with tag := tag, seq := seq, plane := s.rd .portPlane port, hold := none })

/-- Issue a TC2 request: the chosen port's packet and the record of the request that waits; with 16,384 requests waiting it is held
back (R701). `none` when no port is UP (R708). -/
def State.issueTc2 (s : State) (op device addr flask : Nat) (arg : Nat) (len : Nat) (payload : List Byte)
    (pour : Option Nat) (host : Option (Fn × Nat)) (dest : List Nat) (ladle : Option Nat := none) : Option State :=
  let q : Tc2Req := { tag := 0, seq := 0, op := op, device := device, plane := 0, addr := addr, len := len, flask := flask, arg := arg,
                      pour := pour, host := host, ladle := ladle, dest := dest }
  if 16384 ≤ s.waiting.length then
    (if (s.upPorts none).isEmpty then none else some { s with tc2 := s.tc2 ++ [{ q with hold := some payload }] })
  else
    match s.sendTc2 q payload with
    | none => none
    | some (s1, q1) => some { s1 with tc2 := s1.tc2 ++ [q1] }

end Sys2Proof.Machine
end

