-- ==== Sys2Proof/Machine/Mem.lean ====
section
/-!
DEFINITION. The local address space: which tiers are present, which base die holds an address, the memory-side cache, reads
and writes of checked words with their error log, segments, and accesses to the neighbour tier and to other parts over TC2
(R561 to R585, R614 to R648).
-/
namespace Sys2Proof.Machine

/-! ### The address map -/

/-- Bytes of the stack tier (R561). -/
def State.stackBytes (s : State) : Nat := if s.part1024 then 0x010000000000 else 0x018000000000

/-- Bytes of the fast tier in the memory mode (R561, R564): none in Flat, 2 GiB in Tiered, 1 GiB in Split. -/
def State.fastBytes (s : State) : Nat :=
  if s.rd .memMode = 1 then 0x80000000 else if s.rd .memMode = 2 then 0x40000000 else 0

/-- The whole range lies in the present part of one tier (R561). -/
def State.present (s : State) (a len : Nat) : Bool :=
  decide (a + len ≤ s.stackBytes)
  || (decide (0x080000000000 ≤ a) && decide (a + len ≤ 0x080000000000 + s.fastBytes))
  || (decide (0x0C0000000000 ≤ a) && decide (a + len ≤ 0x100000000000))

/-- Stack capacity S in GiB (R568). -/
def State.stackGiB (s : State) : Nat := if s.part1024 then 64 else 96

/-- Pseudo-channel of an address of the default area (R569). -/
def defaultChannel (a : Nat) : Nat :=
  let g := a >>> 11
  (g ^^^ (g >>> 10) ^^^ (g >>> 20)) &&& 0x3FF

/-- Pseudo-channel of offset `o` in a pin window of the stacks listed (R570). -/
def windowChannel (members : List Nat) (o : Nat) : Nat :=
  let L := 6 + Nat.log2 members.length
  let g := o >>> 11
  let j := (g ^^^ (g >>> L) ^^^ (g >>> (2 * L))) &&& (2 ^ L - 1)
  64 * ((members[j >>> 6]?).getD 0) + (j &&& 63)

/-- The valid pin windows: first byte, bytes, stacks (R568, R570). -/
def State.pinWindows (s : State) : List (Nat × Nat × List Nat) :=
  ((List.range 16).filter (fun i => s.bit .pinValid i)).foldl
    (fun acc i =>
      let members := bitList (s.rd .pinStackMask i) 16
      let start := match acc.getLast? with
        | some (b, n, _) => b + n
        | none => (16 * (s.stackGiB - s.rd .pinReserve)) <<< 30
      acc ++ [(start, (s.rd .pinGibPerStack i * members.length) <<< 30, members)]) []

/-- Pseudo-channel, 0 to 1,023, of a stack-tier address (R568 to R570). -/
def State.channelOf (s : State) (a : Nat) : Nat :=
  match s.pinWindows.find? (fun w => decide (w.1 ≤ a) && decide (a < w.1 + w.2.1)) with
  | some w => windowChannel w.2.2 (a - w.1)
  | none => defaultChannel a

/-- Bytes of one pseudo-channel that a share of `gib` GiB of its stack takes: a stack has 64 pseudo-channels. -/
def channelShare (gib : Nat) : Nat := gib <<< 24

/-- Offset of a stack-tier address within its pseudo-channel (R569, R570): in a pin window it counts above the default area's share of
the channel and above the shares of the lower-numbered windows that take from the same stack. -/
def State.channelOffset (s : State) (a : Nat) : Nat :=
  match s.pinWindows.find? (fun w => decide (w.1 ≤ a) && decide (a < w.1 + w.2.1)) with
  | some (base, _, members) =>
    let o := a - base
    let stack := windowChannel members o / 64
    let lower := s.pinWindows.filter (fun w => decide (w.1 < base) && w.2.2.contains stack && decide (w.2.1 ≠ 0))
    channelShare (s.stackGiB - s.rd .pinReserve) + (lower.map (fun w => w.2.1 / w.2.2.length / 64)).sum
      + (((o >>> 11) >>> (6 + Nat.log2 members.length)) <<< 11 ||| o % 2048)
  | none => ((a >>> 21) <<< 11) ||| a % 2048

/-- Base die of a fast-tier address (R565). -/
def State.fastDie (s : State) (a : Nat) : Nat :=
  let o := a - 0x080000000000
  if s.bit .fastInterleave then
    let quarter := s.fastBytes / 4
    4 * (o / quarter % 4) + (o % quarter / 2048) % 4
  else o / 2048 % 16

/-- The base die, and so the stack, that holds a local address outside the neighbour window. -/
def State.dieOf (s : State) (a : Nat) : Nat := if tierOf a = 0 then s.channelOf a / 64 else s.fastDie a

/-- The base dies that a range touches, one look per 2 KiB granule. -/
def State.diesOf (s : State) (a len : Nat) : List Nat :=
  ((List.range ((a + len - 1) / 2048 + 1 - a / 2048)).map (fun i => s.dieOf ((a / 2048 + i) * 2048))).eraseDups

/-- Some stack that the range needs is in its drain class (R960, R962). -/
def State.drains (s : State) (a len : Nat) : Bool :=
  decide (tierOf a ≠ 2) && (s.diesOf a len).any (fun d => s.rd .stackClass d = 2)

/-! ### The memory-side cache (R572 to R579) -/

/-- Whether the base dies hold a memory-side cache: Flat and Split modes (R572). -/
def State.cached (s : State) : Bool := s.rd .memMode ≠ 1

/-- Sets of the cache of one base die (R564, R572): 128 MiB in Flat mode and 64 MiB in Split mode, in sets of 16 lines of 256 bytes. -/
def State.cacheSets (s : State) : Nat := if s.rd .memMode = 0 then 32768 else 16384

/-- The set of a line in the cache of a base die; the spec leaves open which lines share a set (log entry 10). -/
def setOf (sets die line : Nat) : Nat := Config.cacheSet die line % sets

/-- Whether a cache line holds the address now. -/
def State.inCache (s : State) (a : Nat) : Bool :=
  s.cached && tierOf a = 0 && (Sp.getD s.cache (s.dieOf a) []).any (fun l => l.line = a / 256)

/-- The line that a fill of a line into its set evicts (R576): with 16 ways taken the least recently used line that is not a keep line,
or for a keep fill into a set of 12 keep lines the least recently used keep line. A die of fewer than 12 lines has no full set. -/
def cacheVictim (sets die : Nat) (lines : List CacheLine) (new : CacheLine) : Option CacheLine :=
  if lines.length < 12 then none else
  let mine := lines.filter (fun l => setOf sets die l.line = setOf sets die new.line)
  let keeps := mine.filter (·.keep)
  if new.keep && decide (12 ≤ keeps.length) then keeps.getLast?
  else if 16 ≤ mine.length then (mine.filter (fun l => !l.keep)).getLast? else none

/-- The lines of a die after a fill of a line; a set of 16 keep lines takes no other line. -/
def cacheFill (sets die : Nat) (lines : List CacheLine) (new : CacheLine) : List CacheLine :=
  match cacheVictim sets die lines new with
  | some v => new :: lines.filter (fun l => l.line ≠ v.line)
  | none =>
    if lines.length < 16 then new :: lines
    else if 16 ≤ (lines.filter (fun l => setOf sets die l.line = setOf sets die new.line)).length then lines
    else new :: lines

/-- A fill of a line meets a word that is uncorrectable or poisoned (R638): by its mark, or because the read that asks for the line found
it so. -/
def Store.fillFails (st : Store) (bad : List Nat) (line : Nat) : Bool :=
  bad.any (fun w => w / 32 = line) || st.marks.any (fun e => e.1 / 32 = line && (e.2.decode = .uncorrectable || e.2.decode = .poisoned))

/-- A dirty line is written back to the stack: an uncorrectable word of it goes there poisoned (R640). -/
def Store.writeBack (st : Store) (line : Nat) : Store :=
  { st with marks := st.marks.map (fun e => if e.1 / 32 = line && e.2.decode = .uncorrectable then (e.1, .poison 0) else e) }

/-- The failed words of a line, by their marks, and whether each is poisoned. -/
def Store.failedIn (st : Store) (line : Nat) : List (Nat × Bool) :=
  (st.marks.filter (fun e => e.1 / 32 = line && (e.2.decode = .uncorrectable || e.2.decode = .poisoned))).map
    (fun e => (e.1, e.2.decode = .poisoned))

/-- A line is evicted: nothing of it is lost (R575, R640). The failed words that its write-back meets are counted and logged in the next a-cycle
(R629, R660; log entry 10). -/
def State.evict (s : State) (v : Option CacheLine) : State :=
  match v with
  | some l => if l.dirty then
      { s with mem := s.mem.writeBack l.line, power := { s.power with evicted := s.power.evicted ++ s.mem.failedIn l.line } } else s
  | none => s

/-- A read under a hint in effect that misses a line allocates it, unless its fill meets a failed word (R575, R638). -/
def State.fills (s : State) (bad : List Nat) (hint line : Nat) : Bool := (hint = 0 || hint = 2) && !s.mem.fillFails bad line

/-- One access to one line under a hint in effect (R575, R577): `whole` says that the access covers the line entirely; `bad` are the
words that the access read as failed. -/
def State.cacheLine (s : State) (bad : List Nat) (hint : Nat) (write whole : Bool) (line : Nat) : State :=
  let die := s.dieOf (line * 256)
  let lines := Sp.getD s.cache die []
  let put (s : State) (l : List CacheLine) : State := { s with cache := Sp.put s.cache die l }
  match lines.find? (fun l => l.line = line) with
  | some l =>
    let s1 := s.count .cacheHit die
    let rest := lines.filter (fun x => x.line ≠ line)
    if hint = 3 && !write && whole then
      (put s1 rest).count .cacheDrop die
    else put s1 ({ l with keep := l.keep || hint = 2, dirty := l.dirty || write } :: rest)
  | none =>
    let s1 := s.count .cacheMiss die
    let new : CacheLine := { line := line, keep := hint = 2, dirty := write }
    let allocate := if write then hint ≠ 1 else s.fills bad hint line
    if allocate then (put s1 (cacheFill s.cacheSets die lines new)).evict (cacheVictim s.cacheSets die lines new) else s1

/-- The lines that a drop read over a range invalidates now: those it covers entirely and that hit (R575, R577). -/
def State.dropped (s : State) (a len : Nat) : List Nat :=
  ((List.range (len / 256 + 2)).map (fun i => a / 256 + i)).filter
    (fun l => decide (a ≤ l * 256) && decide (l * 256 + 256 ≤ a + len) && s.inCache (l * 256))

/-- The cache's part of an access of the stack tier (R573), with the words that it read as failed. -/
def State.cacheAccess (s : State) (bad : List Nat) (hint : Nat) (write : Bool) (a len : Nat) : State :=
  if !s.cached || tierOf a ≠ 0 || len = 0 then s else
  (List.range ((a + len - 1) / 256 + 1 - a / 256)).foldl
    (fun s i =>
      let l := a / 256 + i
      s.cacheLine bad hint write (decide (a ≤ l * 256) && decide (l * 256 + 256 ≤ a + len)) l) s

/-! ### Stores of checked words -/

/-- The outcome of reading one word (R629): data, with whether the word was corrected; uncorrectable; poisoned. -/
inductive Rd1 where
  | ok (v : BitVec 64) (corrected : Bool)
  | ue
  | poison
deriving DecidableEq, Repr

/-- The eight bytes of a word as one number, when all have been written. -/
def Store.word? (st : Store) (w : Nat) : Option Nat :=
  ((List.range 8).mapM (fun i => (Sp.get? st.cells (8 * w + i)).or (if st.zeroed then some 0 else none))).map leNat

/-- Read one word (R629). A word never written, or undefined, answers a free value or a free bus error (R648), and so does one with an error
beyond the code, which may be detected, miscorrected or pass unseen. -/
def Store.readWord (st : Store) (w fresh : Nat) : Rd1 :=
  let d := ((Sp.get? st.marks w).map Mark.decode).getD .clean
  if d = .poisoned then .poison
  else if d = .uncorrectable then .ue
  else
    match (if d = .beyond then none else st.word? w) with
    | some v => .ok (BitVec.ofNat 64 v) (d = .corrected)
    | none =>
      match Config.unwrittenWord w fresh with
      | some v => .ok v false
      | none => .ue

/-- Write bytes from an address. In a cleared store a byte of zero is not listed. -/
def writeCells (zeroed : Bool) (c : List Host.Cell) (a : Nat) : List Byte → List Host.Cell
  | [] => c
  | b :: r => writeCells zeroed (if zeroed && b = 0 then Sp.del c a else Sp.put c a b) (a + 1) r

/-- Write one whole word with valid check bits, which clears any mark (R633). -/
def Store.writeWord (st : Store) (w : Nat) (v : BitVec 64) : Store :=
  { st with cells := writeCells st.zeroed st.cells (8 * w) (leBytes v.toNat 8), marks := Sp.del st.marks w }

/-- Write one word poisoned (R634, R643). -/
def Store.poisonWord (st : Store) (w : Nat) : Store := { st with marks := Sp.put st.marks w (.poison 0) }

/-- A word that has read as uncorrectable reads so until a write replaces it (R635), whatever its bits were. -/
def Store.stuckWord (st : Store) (w : Nat) : Store :=
  if (Sp.get? st.marks w).map Mark.decode = some .uncorrectable then st else { st with marks := Sp.put st.marks w (.errors 3) }

/-- Clear the corrected mark of a word: the write-back of R630. -/
def Store.scrubWord (st : Store) (w : Nat) : Store := { st with marks := Sp.del st.marks w }

/-- A word becomes undefined: its bytes are as if never written (R578, R624, R994, R1041). -/
def Store.forget (st : Store) (w : Nat) : Store :=
  { st with cells := st.cells.filter (fun e => e.1 / 8 ≠ w),
            marks := if st.zeroed then Sp.put st.marks w .undefined else Sp.del st.marks w }

/-- The canonical form: bytes in rising address order without repeats, marks likewise, and no listed byte equal to what an
unlisted one reads as. -/
def Store.wf (st : Store) : Bool :=
  Sp.sorted st.cells && Sp.sorted st.marks && !(st.zeroed && st.cells.any (fun e => e.2 = 0))

/-! ### Error log (R645, R659, R660, R1067) -/

/-- STORE codes of ERR_LOG. -/
def stStack : Nat := 0
def stSram : Nat := 1
def stBufA : Nat := 2
def stBufB : Nat := 3
def stScratch : Nat := 4
def stLine : Nat := 5

/-- REQUESTER codes of ERR_LOG. -/
def rqPour : Nat := 0
def rqRunner : Nat := 1
def rqPattern : Nat := 2
def rqRegion : Nat := 3
def rqHeat : Nat := 4
def rqHost : Nat := 5
def rqFabric : Nat := 6
def rqScrub : Nat := 7
def rqRestore : Nat := 8

/-- Who reads or writes: its REQUESTER code, its flask, the part behind a fabric request, the ladle of a heat, and the function
and offset of a host access. -/
structure Who where
  rq : Nat
  flask : Nat := 0
  device : Nat := 0
  ladle : Option Nat := none
  host : Option (Fn × Nat) := none
deriving DecidableEq, Repr

/-- Write one ERR_LOG entry and one contrail entry, and set UE_SEEN (R660). -/
def State.logError (s : State) (addr store kind : Nat) (who : Who) (mask : Nat) : State :=
  let tail := s.rd .errLogTail
  let i := tail % 16
  let s1 := if 16 ≤ sub32 tail (s.rd .errLogHead) then s.setBit .logOverrun else s
  let s2 := ((((((((s1.wr .errAddr i addr).wr .errStore i store).wr .errKind i kind).wr .errRequester i who.rq).wr
    .errFlask i who.flask).wr .errTime i s.now).wr .errMask i mask).wr .errDevice i who.device).wr .errLogTail 0 (tail + 1)
  let s3 := if s2.bit .ueIntEn then s2.raise .ueSeen 0 causeIntegrity else s2.setBit .ueSeen
  s3.contrailAdd 0x02 who.flask 0
    (leBytes (addr + (store <<< 44) + (kind <<< 48) + (who.rq <<< 50) + (who.flask <<< 54)) 8 ++ leBytes s.now 8
      ++ leBytes (mask + (who.device <<< 32)) 8)

/-- Count a corrected word; CE_OVER when a counter reaches CE_THRESHOLD (R629). -/
def State.countCe (s : State) (k : FKind) (i : Nat) : State :=
  let s1 := s.count k i
  if s.rd .ceThreshold ≤ s1.rd k i then
    (if s1.bit .ceIntEn then s1.raise .ceOver 0 causeIntegrity else s1.setBit .ceOver)
  else s1

/-- Whether an address's word stands in base-die SRAM now: a fast-tier address, or a stack address that the cache holds. -/
def State.inSram (s : State) (a : Nat) : Bool := tierOf a ≠ 0 || s.inCache a

/-! ### Reads and writes of local memory -/

/-- What a transfer read: its bytes with failed words as 0, the failed words (offset in words from the first, and whether
poisoned), and the code and piece mask of the first failed request (R642, R645). -/
structure RdRes where
  bytes : List Byte
  failed : List (Nat × Bool) := []
  code : Nat := 0
  detail : Nat := 0
deriving DecidableEq, Repr

/-- The word numbers of the failed words of a read that began at an address. -/
def RdRes.failedAt (r : RdRes) (a : Nat) : List Nat := r.failed.map (fun e => a / 8 + e.1)

/-- The bytes of word outcomes; a failed word reads as 0. -/
def rdBytes (l : List Rd1) : List Byte :=
  (l.map (fun r => match r with | .ok v _ => leBytes v.toNat 8 | _ => List.replicate 8 0)).flatten

/-- The failed words of word outcomes, numbered from `k`. -/
def rdFailed : Nat → List Rd1 → List (Nat × Bool)
  | _, [] => []
  | k, .ok _ _ :: r => rdFailed (k + 1) r
  | k, .ue :: r => (k, false) :: rdFailed (k + 1) r
  | k, .poison :: r => (k, true) :: rdFailed (k + 1) r

/-- The piece mask of a request (R641, R645): bit i set when a failed word lies in 128-byte unit i of its 4 KiB range. -/
def pieceMask (first : Nat) (failed : List (Nat × Bool)) : Nat :=
  bitMask (failed.map (fun e => (first + e.1) * 8 % 4096 / 128))

/-- The code of a request: POISON_READ when every failed word was poisoned, else UE_READ (R642). -/
def failCode (failed : List (Nat × Bool)) : Nat :=
  if failed.isEmpty then cOK else if failed.all (·.2) then cPoisonRead else cUeRead

/-- The effect of one word's outcome on the word (R630, R635), the counters and the error log. -/
def State.noteWord (s : State) (who : Who) (mask w : Nat) (r : Rd1) : State :=
  let a := 8 * w
  let sram := s.inSram a
  let d := s.dieOf a
  match r with
  | .ok _ false => s
  | .ok _ true => ({ s with mem := s.mem.scrubWord w }).countCe (if sram then .eccCeSram else .eccCe) d
  | .ue =>
    (({ s with mem := s.mem.stuckWord w }).count (if sram then .eccUeSram else .eccUe) d).logError a (if sram then stSram else stStack)
      (if who.rq = rqScrub then 2 else 0) who mask
  | .poison => (s.count .poisonReads 0).logError a (if sram then stSram else stStack) (if who.rq = rqScrub then 2 else 1) who mask

/-- Read whole words of one request, which lies in one aligned 4 KiB range (R641). -/
def State.readRequest (s : State) (who : Who) (first n : Nat) : RdRes × State :=
  let rs := (List.range n).map (fun i => s.mem.readWord (first + i) s.fresh)
  let failed := rdFailed 0 rs
  let mask := pieceMask first failed
  let s1 := (List.range n).foldl (fun s i => s.noteWord who mask (first + i) ((rs[i]?).getD .ue)) s
  ({ bytes := rdBytes rs, failed := failed, code := failCode failed, detail := mask }, s1)

/-- Join the results of consecutive requests; the first failed request gives the code and the mask (R645). -/
def RdRes.append (a b : RdRes) : RdRes :=
  { bytes := a.bytes ++ b.bytes,
    failed := a.failed ++ b.failed.map (fun e => (e.1 + a.bytes.length / 8, e.2)),
    code := if a.code ≠ 0 then a.code else b.code,
    detail := if a.code ≠ 0 then a.detail else b.detail }

/-- Cut a run of words into requests that each lie in one aligned 4 KiB range (R641): first word and length. -/
def requests : Nat → Nat → Nat → List (Nat × Nat)
  | 0, _, _ => []
  | fuel + 1, first, n =>
    if n = 0 then [] else
    let m := min n (512 - first % 512)
    (first, m) :: requests fuel (first + m) (n - m)

/-- Read whole words of local memory, request by request; all requests of a transfer are issued (log entry 13). -/
def State.readWords (s : State) (who : Who) (first n : Nat) : RdRes × State :=
  (requests (n + 1) first n).foldl
    (fun (acc : RdRes × State) q =>
      let r := acc.2.readRequest who q.1 q.2
      (acc.1.append r.1, r.2)) ({ bytes := [] }, s)

/-- The lines of a range. -/
def linesOf (a len : Nat) : List Nat := (List.range ((a + len - 1) / 256 + 1 - a / 256)).map (· + a / 256)

/-- The outcome of reading a word of a line with a mark beside those that the request reads. -/
def Mark.outcome (m : Mark) : Rd1 :=
  match m.decode with
  | .corrected => .ok 0 true
  | .uncorrectable => .ue
  | .poisoned => .poison
  | _ => .ok 0 false

/-- A fill of the lines that a read misses reads the other words of them too: a corrected one is written back, in the line and in the stack, and a
failed one is counted and logged, with no piece of the request (R629, R638, R639, R660). -/
def State.fillLines (s : State) (who : Who) (hint a len : Nat) : State :=
  if !s.cached || tierOf a ≠ 0 || !(hint = 0 || hint = 2) then s else
  ((linesOf a len).filter (fun l => !s.inCache (l * 256))).foldl (fun s l =>
    (s.mem.marks.filter (fun e => e.1 / 32 = l && (decide (e.1 < a / 8) || decide ((a + len - 1) / 8 < e.1)))).foldl
      (fun s e => s.noteWord who 0 e.1 e.2.outcome) s) s

/-- Read bytes of local memory with a hint in effect. A drop read invalidates the lines it covers, and their words become
undefined (R578). -/
def State.readLocal (s : State) (who : Who) (hint a len : Nat) : RdRes × State :=
  if len = 0 then ({ bytes := [] }, s) else
  let w0 := a / 8
  let n := (a + len - 1) / 8 + 1 - w0
  let r := s.readWords who w0 n
  let gone := if hint = 3 then s.dropped a len else []
  let bad := r.1.failedAt (8 * w0)
  let s1 := (r.2.fillLines who hint a len).cacheAccess bad hint false a len
  let s2 := gone.foldl (fun s l =>
    (List.range 32).foldl (fun s i => { s with mem := s.mem.forget (l * 32 + i) }) s) s1
  ({ r.1 with bytes := (r.1.bytes.drop (a - 8 * w0)).take len }, s2)

/-- Write whole words of local memory from an address aligned to 8 bytes; the words listed (by offset) are written
poisoned. -/
def State.writeLocal (s : State) (hint a : Nat) (data : List Byte) (bad : List Nat) : State :=
  let n := data.length / 8
  let ws := chunks 8 n data
  let m := (List.range n).foldl
    (fun (m : Store) i =>
      if i ∈ bad then m.poisonWord (a / 8 + i)
      else m.writeWord (a / 8 + i) (BitVec.ofNat 64 (leNat ((ws[i]?).getD [])))) s.mem
  ({ s with mem := m }).cacheAccess [] hint true a data.length

/-- Write bytes of local memory at any address: a word covered in part is read, merged and written back whole, or written
poisoned when the read fails (R634). -/
def State.mergeLocal (s : State) (who : Who) (hint a : Nat) (data : List Byte) : State :=
  if data.isEmpty then s else
  let w0 := a / 8
  let n := (a + data.length - 1) / 8 + 1 - w0
  let s1 := (List.range n).foldl
    (fun (s : State) i =>
      let w := w0 + i
      let whole := decide (a ≤ 8 * w) && decide (8 * w + 8 ≤ a + data.length)
      let byteAt : Nat → Option Byte := fun x => if a ≤ x then data[x - a]? else none
      if whole then
        { s with mem := s.mem.writeWord w (BitVec.ofNat 64 (leNat ((List.range 8).filterMap (fun j => byteAt (8 * w + j))))) }
      else
        let merge (old : Nat) : BitVec 64 :=
          BitVec.ofNat 64 (leNat ((List.range 8).map (fun j => (byteAt (8 * w + j)).getD (BitVec.ofNat 8 (old >>> (8 * j))))))
        match s.mem.readWord w s.fresh with
        | .ok v c =>
          let s2 := s.noteWord who 0 w (.ok v c)
          { s2 with mem := s2.mem.writeWord w (merge v.toNat) }
        | .ue =>
          let sram := s.inSram (8 * w)
          let s2 := (s.count (if sram then .eccUeSram else .eccUe) (s.dieOf (8 * w))).logError (8 * w)
            (if sram then stSram else stStack) 3 who (pieceMask w [(0, false)])
          { s2 with mem := s2.mem.poisonWord w }
        | .poison =>
          let sram := s.inSram (8 * w)
          let s2 := (s.count .poisonReads 0).logError (8 * w) (if sram then stSram else stStack) 3 who (pieceMask w [(0, true)])
          { s2 with mem := s2.mem.poisonWord w }) s
  s1.cacheAccess [] hint true a data.length

/-! ### Segments (R580 to R584) -/

/-- The rights a segment grants. -/
inductive Right where
  | read | write | remoteRead | remoteWrite
deriving DecidableEq, Repr

/-- The field that grants a right. -/
def Right.kind : Right → FKind
  | .read => .segRead | .write => .segWrite | .remoteRead => .segRemoteRead | .remoteWrite => .segRemoteWrite

/-- The lowest-numbered valid segment of a flask that contains the range and grants the right (R584), as its index part-wide. -/
def State.segment (s : State) (f a len : Nat) (r : Right) : Option Nat :=
  ((List.range 256).map (fun i => 256 * f + i)).find?
    (fun i => s.bit .segValid i && decide (s.rd .segBase i ≤ a) && decide (a + len ≤ s.rd .segLimit i + 1) && s.bit r.kind i)

/-- An access is allowed (R584). -/
def State.allowed (s : State) (f a len : Nat) (r : Right) : Bool := (s.segment f a len r).isSome

/-- The hint in effect: the descriptor's, or for 0b00 the default hint of the segment (R133, R584). -/
def State.hintOf (s : State) (f a len hint : Nat) (r : Right) : Nat :=
  if hint ≠ 0 then hint else
  match s.segment f a len r with
  | some i => s.rd .segHint i
  | none => 0

/-- The words of a segment entry as SEG_WRITE carries them. -/
structure SegWords where
  base : Nat
  limit : Nat
  w : Nat
  user : Nat
deriving DecidableEq, Repr

/-- The entry `i` (part-wide) now. -/
def State.segWords (s : State) (i : Nat) : SegWords :=
  { base := s.rd .segBase i, limit := s.rd .segLimit i, user := s.rd .segUser i
    w := s.rd .segValid i + (s.rd .segTier i <<< 1) + (s.rd .segHint i <<< 3) + (s.rd .segRead i <<< 5) + (s.rd .segWrite i <<< 6)
      + (s.rd .segRemoteRead i <<< 7) + (s.rd .segRemoteWrite i <<< 8) }

/-- Store the words of a segment entry. -/
def State.setSegment (s : State) (i : Nat) (x : SegWords) : State :=
  let s1 := ((s.wr .segBase i x.base).wr .segLimit i x.limit).wr .segUser i x.user
  [(FKind.segValid, 0, 1), (.segTier, 1, 2), (.segHint, 3, 2), (.segRead, 5, 1), (.segWrite, 6, 1), (.segRemoteRead, 7, 1),
    (.segRemoteWrite, 8, 1)].foldl (fun (s : State) e => s.wr e.1 i (bits x.w e.2.1 e.2.2)) s1

/-- The state with the entry that a SEG_WRITE under way replaced, for what was dispatched before the command (R585). -/
def State.oldEntry (s : State) (old : Bool) : State :=
  match s.mbox.running.map (·.undo) with
  | some [i, b, l, w, u] => if old then s.setSegment i { base := b, limit := l, w := w, user := u } else s
  | _ => s

/-- A pour, or the pass start of a heat, reads the segment table as it stood when it was dispatched (R585). -/
def State.asPour (s : State) (id : Nat) : State := s.oldEntry (s.mbox.running.any (fun c => c.waitFor.contains id))
def State.asHeat (s : State) (n pass : Nat) : State := s.oldEntry (s.mbox.running.any (fun c => c.waitHeats.contains (n, pass)))

/-! ### Accesses that may leave the part -/

/-- The fetch key of an address of another part: beyond every local address, by device. -/
def remoteKey (device a : Nat) : Nat := (device + 1) * 2 ^ 44 + a

/-- The device and address a fetch key of the neighbour window or of another part names (R617, R596), or the code that the
access faults with at issue (R622). -/
def State.target (s : State) (key : Nat) : Except Nat (Nat × Nat) :=
  if 2 ^ 44 ≤ key then .ok (key / 2 ^ 44 - 1, key % 2 ^ 44) else
  let b := (key - 0x0C0000000000) / 2 ^ 30
  if s.rd .bayState b = 1 then .ok (s.rd .bayDevice b, s.rd .bayLenderGib b * 2 ^ 30 + key % 2 ^ 30)
  else .error cBayRevoked

/-- The owner of the words that a read of the neighbour tier or of another part brings: its pour, else the kind of requester and its
flask, or the function of a host access. -/
def ownerOf (who : Who) : Option Nat → Nat
  | some id => 2 ^ 20 + id
  | none => 64 * who.rq + (match who.host with
    | some (fn, _) => fnNum fn
    | none => who.flask)

/-- The place of a word in the staging. -/
def stageKey (owner w : Nat) : Nat := owner * 2 ^ 56 + w

/-- A read request of an owner that waits already covers the word of a fetch key. -/
def State.asked (s : State) (owner w : Nat) : Bool :=
  s.tc2.any (fun q => q.op = 0x80 && (q.dest[1]?).getD 0 = owner && decide ((q.dest[0]?).getD 0 / 8 ≤ w)
    && decide (w < ((q.dest[0]?).getD 0 + q.len) / 8))

/-- Issue read requests for the words of a key range that are neither staged nor asked for, one request to each aligned
4 KiB range (R694); the code of the fault at issue, if any. -/
def State.ask (s : State) (who : Who) (pour : Option Nat) :
    List (Nat × Nat) → Except Nat State
  | [] => .ok s
  | (w, n) :: r =>
    let owner := ownerOf who pour
    if (List.range n).all (fun i => (Sp.get? s.staged (stageKey owner (w + i))).isSome || s.asked owner (w + i)) then
      State.ask s who pour r
    else
      match s.target (8 * w) with
      | .error c => .error c
      | .ok (dev, addr) =>
        match s.issueTc2 0x80 dev addr who.flask (8 * n) (8 * n) [] pour who.host [8 * w, owner] who.ladle with
        | some s1 => State.ask s1 who pour r
        | none => .error cLinkLost

/-- A key lies outside local memory: in the neighbour window or on another part. -/
def farKey (key : Nat) : Bool := decide (2 ^ 44 ≤ key) || tierOf key = 2

/-- The words of a byte range: the first and their number. -/
def wordsOf (key len : Nat) : Nat × Nat := (key / 8, if len = 0 then 0 else (key + len - 1) / 8 + 1 - key / 8)

/-- Every word of a far range has come for its owner. -/
def State.isStaged (s : State) (owner key len : Nat) : Bool :=
  let w := wordsOf key len
  (List.range w.2).all (fun i => (Sp.get? s.staged (stageKey owner (w.1 + i))).isSome)

/-- The code with which a request for a word of a far range ended, if one did (R620, R618, R696). -/
def State.lostCode (s : State) (owner key len : Nat) : Option Nat :=
  let w := wordsOf key len
  (List.range w.2).findSome? (fun i =>
    match Sp.get? s.staged (stageKey owner (w.1 + i)) with
    | some (3, v) => some v.toNat
    | _ => none)

/-- What the staged words of a far range hold, as one transfer (R642, R643). -/
def State.peekFar (s : State) (owner key len : Nat) : RdRes :=
  let w := wordsOf key len
  let rs := (List.range w.2).map (fun i => match Sp.getD s.staged (stageKey owner (w.1 + i)) (0, 0) with
    | (0, v) => Rd1.ok v false
    | (1, _) => Rd1.ue
    | _ => Rd1.poison)
  let parts := (requests (w.2 + 1) w.1 w.2).map (fun q =>
    let l := (rs.drop (q.1 - w.1)).take q.2
    let f := rdFailed 0 l
    ({ bytes := rdBytes l, failed := f, code := failCode f, detail := pieceMask q.1 f } : RdRes))
  let r := parts.foldl RdRes.append { bytes := [] }
  { r with bytes := (r.bytes.drop (key - 8 * w.1)).take len }

/-- The state with the staged words of a far range taken. -/
def State.unstage (s : State) (owner key len : Nat) : State :=
  let w := wordsOf key len
  { s with staged := s.staged.filter (fun e => decide (e.1 < stageKey owner w.1) || decide (stageKey owner (w.1 + w.2) ≤ e.1)) }

/-- A range to read: the hint in effect, the key and the length in bytes. -/
structure Span where
  hint : Nat := 0
  key : Nat
  len : Nat
deriving DecidableEq, Repr

/-- The outcome of reading ranges that may leave the part: all read; waiting for responses over TC2; or a fault at issue or of a
request. -/
inductive Fetch where
  | got (r : List RdRes) (s : State)
  | wait (s : State)
  | fail (code : Nat) (s : State)

/-- Ask for every far range that has not come; the code of the fault at issue, if any (R622, R708, R962). -/
def State.askAll (s : State) (who : Who) (pour : Option Nat) : List Span → Except Nat State
  | [] => .ok s
  | q :: r =>
    if q.len = 0 then State.askAll s who pour r
    else if farKey q.key then
      let w := wordsOf q.key q.len
      match s.ask who pour (requests (w.2 + 1) w.1 w.2) with
      | .error c => .error c
      | .ok s1 => State.askAll s1 who pour r
    else if s.drains q.key q.len then .error cThermalStop
    else State.askAll s who pour r

/-- Read one range, far words from the staging. -/
def State.take1 (s : State) (who : Who) (owner : Nat) (q : Span) : RdRes × State :=
  if q.len = 0 then ({ bytes := [] }, s)
  else if farKey q.key then (s.peekFar owner q.key q.len, s)
  else s.readLocal who q.hint q.key q.len

/-- Read ranges in order. Nothing is read until every far word has come. -/
def State.fetch (s : State) (who : Who) (pour : Option Nat) (qs : List Span) : Fetch :=
  let owner := ownerOf who pour
  let far := qs.filter (fun q => q.len ≠ 0 && farKey q.key)
  let clean (s : State) : State := far.foldl (fun s q => s.unstage owner q.key q.len) s
  match s.askAll who pour qs with
  | .error c => .fail c s
  | .ok s1 =>
    match far.findSome? (fun q => s1.lostCode owner q.key q.len) with
    | some c => .fail c (clean s1)
    | none =>
      if far.all (fun q => s1.isStaged owner q.key q.len) then
        let r := qs.foldl (fun (acc : List RdRes × State) q =>
          let x := acc.2.take1 who owner q
          (acc.1 ++ [x.1], x.2)) ([], s1)
        .got r.1 (clean r.2)
      else .wait s1

/-- Write whole words at a key; the words listed (by offset) are written poisoned in local memory and left out of a write to
another part (log entry 14). The code of the fault at issue, if any. -/
def State.put (s : State) (who : Who) (pour : Option Nat) (hint key : Nat) (data : List Byte) (bad : List Nat) :
    Except Nat State :=
  if data.isEmpty then .ok s
  else if 2 ^ 44 ≤ key || tierOf key = 2 then
    (requests (data.length / 8 + 1) (key / 8) (data.length / 8)).foldl
      (fun (acc : Except Nat State) q =>
        match acc with
        | .error c => .error c
        | .ok s =>
          match s.target (8 * q.1) with
          | .error c => .error c
          | .ok (dev, addr) =>
            let off := q.1 - key / 8
            let part := (data.drop (8 * off)).take (8 * q.2)
            if (List.range q.2).any (fun i => off + i ∈ bad) then
              (List.range q.2).foldl
                (fun (acc : Except Nat State) i =>
                  match acc with
                  | .error c => .error c
                  | .ok s =>
                    if off + i ∈ bad then .ok s else
                    match s.issueTc2 0x82 dev (addr + 8 * i) who.flask 0 8 ((part.drop (8 * i)).take 8) pour who.host [] who.ladle with
                    | some s1 => .ok s1
                    | none => .error cLinkLost) (.ok s)
            else
              match s.issueTc2 0x82 dev addr who.flask 0 part.length part pour who.host [] who.ladle with
              | some s1 => .ok s1
              | none => .error cLinkLost) (.ok s)
  else if s.drains key data.length then .error cThermalStop
  else .ok (s.writeLocal hint key data bad)

/-- The words from a key, by offset, that hold a byte of the words listed of data written there. -/
def spilt (key : Nat) (bad : List Nat) : List Nat :=
  if key % 8 = 0 then bad else (bad.map (fun i => [i, i + 1])).flatten.eraseDups

/-- Write bytes at a key of any alignment, with the words of the data listed poisoned where they land. A word of another part that is
covered in part is sent whole, its other bytes a free value. -/
def State.putBytes (s : State) (who : Who) (pour : Option Nat) (hint key : Nat) (data : List Byte) (bad : List Nat) :
    Except Nat State :=
  if data.isEmpty then .ok s
  else if key % 8 = 0 && data.length % 8 = 0 then s.put who pour hint key data bad
  else if farKey key then
    let lead := key % 8
    let tail := (8 - (key + data.length) % 8) % 8
    s.put who pour hint (key - lead) (s.freeBytes 0 lead ++ data ++ s.freeBytes 8 tail) (spilt key bad)
  else if s.drains key data.length then .error cThermalStop
  else
    let s1 := s.mergeLocal who hint key data
    let n := (key % 8 + data.length + 7) / 8
    .ok (((spilt key bad).filter (fun i => decide (i < n))).foldl
      (fun (s : State) i => { s with mem := s.mem.poisonWord (key / 8 + i) }) s1)

end Sys2Proof.Machine
end

