-- ==== Sys2Proof/Machine/Work.lean ====
section
/-!
DEFINITION. The rings of a flask and the ends of its work: completion records, events, semaphores, the stop of a ladle and
the retire point (R180 to R198, R491 to R514, R550 to R553).
-/
namespace Sys2Proof.Machine

/-! ### Rings -/

/-- A base address held in a LO and a HI register; `sh` is the lowest bit of the LO field. -/
def State.base (s : State) (lo hi : FKind) (sh i : Nat) : Nat := (s.rd lo i <<< sh) + (s.rd hi i <<< 32)

/-- The address of the next record of a ring at its TAIL (R505). -/
def State.ringSlot (s : State) (lo hi size tail : FKind) (f : Nat) : Nat :=
  s.base lo hi 12 f + (s.rd tail f % 2 ^ s.rd size f) * 32

/-- A ring has room: enabled, fewer records than its size, and the slot's stack not draining (R508, R1074). A ring outside
the present memory counts as full too (log entry 15). -/
def State.ringRoom (s : State) (lo hi size enable head tail : FKind) (f : Nat) : Bool :=
  let a := s.ringSlot lo hi size tail f
  s.bit enable f && decide (sub32 (s.rd tail f) (s.rd head f) < 2 ^ s.rd size f) && s.present a 32 && !farKey a
    && !s.drains a 32

/-- PHASE of a record written at a TAIL (R511). -/
def ringPhase (tail size : Nat) : Nat := if tail / 2 ^ size % 2 = 0 then 1 else 0

/-- Completion source: armed and enabled, it fires and is disarmed (R855). -/
def State.cqFire (s : State) (f : Nat) : State :=
  if s.bit .cqIntEn f && (s.rd .cqArmed (f / 32)).testBit (f % 32) then
    (s.fire (s.flaskVector f false)).wr .cqArmed (f / 32) (s.rd .cqArmed (f / 32) &&& (2 ^ 32 - 1 - 1 <<< (f % 32)))
  else s

/-- Event source (R858). -/
def State.eqFire (s : State) (f : Nat) : State :=
  if s.bit .eqIntEn f && (s.rd .eqArmed (f / 32)).testBit (f % 32) then
    (s.fire (s.flaskVector f true)).wr .eqArmed (f / 32) (s.rd .eqArmed (f / 32) &&& (2 ^ 32 - 1 - 1 <<< (f % 32)))
  else s

/-- The 32 bytes of a completion record (R513). -/
def CqRec.bytes (r : CqRec) (phase time : Nat) : List Byte :=
  let hp : HeatPos := r.heat.getD { pass := 0, sec := 0, prog := 0 }
  let inHeat := if r.heat.isSome then 1 else 0
  leBytes (r.status + (r.tag <<< 16)) 4 ++ leBytes r.index 4
  ++ leBytes (r.kind + ((r.ladle % 4) <<< 2) + (ladleFlask r.ladle <<< 4) + (inHeat <<< 10) + (hp.sec <<< 11)
      + (r.opcode <<< 16)) 4
  ++ leBytes (hp.pass + (phase <<< 31)) 4 ++ leBytes r.detail 4 ++ leBytes hp.prog 4 ++ leBytes time 8

/-- Write one completion record at TAIL, and fire the completion source (R505, R511, R855). -/
def State.cqWrite (s : State) (f : Nat) (r : CqRec) : State :=
  let a := s.ringSlot .cqBaseLo .cqBaseHi .cqSizeLog2 .cqTail f
  let t := s.rd .cqTail f
  ((s.writeLocal 0 a (r.bytes (ringPhase t (s.rd .cqSizeLog2 f)) s.now) []).wr .cqTail f (t + 1)).cqFire f

/-- Whether the completion ring of a flask has room for a record. -/
def State.cqRoom (s : State) (f : Nat) : Bool := s.ringRoom .cqBaseLo .cqBaseHi .cqSizeLog2 .cqEnable .cqHead .cqTail f

/-- A completion record: written, or held behind the records held already, with CQ_FULL set (R508, R512). -/
def State.complete (s : State) (r : CqRec) : State :=
  let f := ladleFlask r.ladle
  let q := Sp.getD s.heldCq f []
  if q.isEmpty && s.cqRoom f then s.cqWrite f r
  else ({ s with heldCq := Sp.put s.heldCq f (q ++ [r]) }).setBit .cqFull f

/-- An event record (R514). -/
structure EvRec where
  event : Nat
  ladle : Nat
  tag : Nat := 0
  pass : Option Nat := none
  arg0 : Nat := 0
  arg1 : Nat := 0
  arg2 : Nat := 0
  code : Nat := 0
deriving DecidableEq, Repr

/-- The 32 bytes of an event record (R514). -/
def EvRec.bytes (r : EvRec) (phase time : Nat) : List Byte :=
  leBytes (r.event + ((r.ladle % 4) <<< 8) + (ladleFlask r.ladle <<< 10) + (r.tag <<< 16)) 4
  ++ leBytes (r.pass.getD 0 + ((if r.pass.isSome then 1 else 0) <<< 12) + (phase <<< 31)) 4
  ++ leBytes r.arg0 4 ++ leBytes r.arg1 4 ++ leBytes r.arg2 4 ++ leBytes r.code 4 ++ leBytes time 8

/-- An event: written at the event ring's TAIL, or discarded and counted when the ring is full (R510, R858). -/
def State.event (s : State) (r : EvRec) : State :=
  let f := ladleFlask r.ladle
  if s.ringRoom .eqBaseLo .eqBaseHi .eqSizeLog2 .eqEnable .eqHead .eqTail f then
    let a := s.ringSlot .eqBaseLo .eqBaseHi .eqSizeLog2 .eqTail f
    let t := s.rd .eqTail f
    ((s.writeLocal 0 a (r.bytes (ringPhase t (s.rd .eqSizeLog2 f)) s.now) []).wr .eqTail f (t + 1)).eqFire f
  else (s.setBit .eqOverflow f).count .eqLost f

/-! ### Semaphores (R180 to R189) -/

/-- ADD: modulo 2^32 (R187). -/
def State.semAdd (s : State) (f i v : Nat) : State := s.wr .sem (64 * f + i) (s.rd .sem (64 * f + i) + v)

/-- SET (R187). -/
def State.semSet (s : State) (f i v : Nat) : State := s.wr .sem (64 * f + i) v

/-- GE: the semaphore minus the value is zero or positive as a 32-bit two's-complement number (R181). -/
def semGe (sem v : Nat) : Bool := decide (sub32 sem v < 2 ^ 31)

/-- A wait condition: 0 GE, 1 EQ (R181). -/
def semHolds (cond sem v : Nat) : Bool := if cond = 0 then semGe sem v else sem % 2 ^ 32 = v % 2 ^ 32

/-! ### The fields of a pour record (R124 to R143) -/

def Pour.opcode (p : Pour) : Nat := p.f 0 8
def Pour.subop (p : Pour) : Nat := p.f 8 8
def Pour.arrayX (p : Pour) : Nat := p.f 16 5
def Pour.arrayY (p : Pour) : Nat := p.f 21 4
def Pour.array (p : Pour) : Nat := arrayIndex p.arrayX p.arrayY
def Pour.bank (p : Pour) : Nat := p.f 25 1
def Pour.tileShape (p : Pour) : Nat := p.f 26 3
def Pour.shapeSrc (p : Pour) : Nat := p.f 29 1
def Pour.waitSemEn (p : Pour) : Bool := p.f 30 1 = 1
def Pour.waitTimeEn (p : Pour) : Bool := p.f 31 1 = 1
def Pour.signalEn (p : Pour) : Bool := p.f 32 1 = 1
def Pour.completeEn (p : Pour) : Bool := p.f 33 1 = 1
def Pour.live (p : Pour) : Nat := p.f 34 4
def Pour.watchEn (p : Pour) : Bool := p.f 38 1 = 1
def Pour.watchSlot (p : Pour) : Nat := p.f 40 12
def Pour.rowFn (p : Pour) : Nat := p.f 56 8
def Pour.mMax (p : Pour) : Nat := p.f 64 16
def Pour.nMax (p : Pour) : Nat := p.f 80 16
def Pour.kMax (p : Pour) : Nat := p.f 96 32
def Pour.shapeAddr (p : Pour) : Nat := p.f 128 44
def Pour.waitSem (p : Pour) : Nat := p.f 832 6
def Pour.waitCond (p : Pour) : Nat := p.f 838 2
def Pour.signalSem (p : Pour) : Nat := p.f 840 6
def Pour.signalOp (p : Pour) : Nat := p.f 846 2
def Pour.signalValue (p : Pour) : Nat := p.f 848 16
def Pour.waitValue (p : Pour) : Nat := p.f 864 32
def Pour.waitTime (p : Pour) : Nat := p.f 896 64
def Pour.tag (p : Pour) : Nat := p.f 960 16
/-- A field of FAMILY_PARAM, by its bit in the PARAM word. -/
def Pour.param (p : Pour) (lo w : Nat) : Nat := p.f (960 + lo) w

/-- The pour performs its signal when it ends OK: it asks for it, or it is a SIGNAL pour, which performs its operation whatever SIGNAL_EN
holds (R186, R192; log entry 58). -/
def Pour.signals (p : Pour) : Bool := p.signalEn || p.opcode = 0xD

/-- A pour's signal (R186, R187). -/
def State.signal (s : State) (p : Pour) : State :=
  if p.signals then
    (if p.signalOp = 0 then s.semAdd p.flask p.signalSem p.signalValue else s.semSet p.flask p.signalSem p.signalValue)
  else s

/-- The semaphore part of a pour's wait holds (R181). -/
def State.semMet (s : State) (p : Pour) : Bool :=
  !p.waitSemEn || semHolds p.waitCond (s.rd .sem (64 * p.flask + p.waitSem)) p.waitValue

/-- The time part of a pour's wait holds: only under time lock (R183, R185). -/
def State.timeMet (s : State) (p : Pour) : Bool := !p.waitTimeEn || (s.timeLock && decide (p.waitTime ≤ s.now))

/-- Both waits hold in the same a-cycle (R184). -/
def State.waitsMet (s : State) (p : Pour) : Bool := s.semMet p && s.timeMet p

/-- A write of a pour is on its way to another part. -/
def State.flies (s : State) (p : Pour) : Bool := s.tc2.any (fun q => q.pour = some p.id && q.op = 0x82)

/-! ### The retire point (R551) -/

/-- A record lies in the cut of its ladle: it is cancelled. -/
def State.cutCovers (s : State) (n i : Nat) : Bool :=
  match (s.ladle n).cut with
  | some c => decide (sub32 i c < 2 ^ 31)
  | none => false

/-- Note that a record has ended; only records that an abort could still name are kept. -/
def State.noteEnded (s : State) (n i : Nat) : State :=
  let tail := s.rd .ladleTail n
  s.onLadle n (fun r =>
    { r with ended := i :: r.ended.filter (fun j => j ≠ i && decide (sub32 tail j ≤ 2 ^ s.rd .ladleSizeLog2 n)) })

/-- A ladle stops: STOP_CODE and one LADLE_STOP event (R501, R502), and nothing of it waits any more. A ladle that is not ACTIVE stays as it
is. -/
def State.stopLadle (s : State) (n code tag : Nat) : State :=
  if s.rd .ladleState n = ladleActive then
    (((s.wr .ladleState n ladleStopped).wr .stopCode n code).onLadle n (fun r => { r with waits := [], record := none })).event
      { event := 0x03, ladle := n, tag := tag, arg0 := s.rd .ladleHead n, code := code }
  else s

/-- Record a cause that ends a heat; the first recorded sets the status, and dispatch stops (R537). -/
def State.stopHeat (s : State) (n code : Nat) : State :=
  match Sp.get? s.heats n with
  | none => s
  | some h =>
    let s1 := { s with heats := Sp.put s.heats n { h with stopCode := some (h.stopCode.getD code) } }
    (s1.onLadle n (fun r => { r with waits := r.waits.filter (fun w => w.1 = 3) })).setBit .heatStopPending n

/-- DETAIL of a pour's record: that of a COLL pour holds ATTEMPT above the chunk (R771, R813), unless a read of its descriptor or its lists has
failed, which gives the piece mask (R645). -/
def State.detailOf (s : State) (p : Pour) (detail : Nat) : Nat :=
  if p.f 0 8 = 0xB && (p.begun || detail = 0) then detail % 2 ^ 24 + (s.rd .riserAttempt p.ladle <<< 24) else detail

/-- The completion record of a pour. -/
def Pour.record (p : Pour) (status detail : Nat) : CqRec :=
  { status := status, tag := p.tag, index := p.index, kind := 0, ladle := p.ladle, heat := p.heat,
    opcode := p.opcode, detail := detail }

/-- A pour ends with a status at the retire point: a cancelled pour leaves nothing; otherwise its record ends, a completion
record is written when the pour faulted or asks for one, and a fault stops the ladle or the heat (R199, R200, R506, R551). -/
def State.endPour (s : State) (p : Pour) (status detail : Nat) : State :=
  let s1 := s.dropPour p.id
  if p.cancelled || s.cutCovers p.ladle p.index then s1 else
  let s2 := if p.heat.isNone then s1.noteEnded p.ladle p.index else s1
  let s3 := if status ≠ cOK || p.completeEn then s2.complete (p.record status (s.detailOf p detail)) else s2
  if status = cOK then s3
  else if p.heat.isSome then s3.stopHeat p.ladle status
  else s3.stopLadle p.ladle status p.tag

/-- A pour ends OK: its signal, then its record, with the DETAIL that a COLL pour keeps (R179, R186, R509, R771). A cancelled pour performs no signal (R553). -/
def State.endOk (s : State) (p : Pour) : State :=
  (if p.cancelled || s.cutCovers p.ladle p.index then s else s.signal p).endPour p cOK p.detail

/-- A fault is found in a pour: it is kept with the pour until POUR_FAULT records it. -/
def State.faultPour (s : State) (p : Pour) (code detail : Nat) (failed : List Nat := []) : State :=
  s.onPour p.id (fun q => { q with stage := .faulted, code := code, detail := detail, failed := failed })

/-- The flask may dispatch: enabled, not in reset, and no completion record held (R489, R508, R556). -/
def State.flaskRuns (s : State) (f : Nat) : Bool :=
  s.bit .flaskEnabled f && !s.bit .resetBusy f && (Sp.getD s.heldCq f []).isEmpty

end Sys2Proof.Machine
end

