-- ==== Sys2Proof/Machine/Host.lean ====
section
/-!
DEFINITION. The host interface: register accesses of BAR0 and the management port, the BAR2 windows, doorbells, ring heads
and the host interrupt registers (R827 to R860, R895 to R904), and resets by the host.
-/
namespace Sys2Proof.Machine

/-! ### SEC_BUF (R937, R938) -/

/-- Bytes of SEC_BUF, addressed modulo its 32 KiB. -/
def State.bufBytes (s : State) (off n : Nat) : List Byte := (List.range n).map (fun i => Sp.getD s.sec.buf ((off + i) % 32768) 0)

/-- SEC_BUF with bytes stored from an offset, modulo its 32 KiB. -/
def State.bufPut (s : State) (off : Nat) (l : List Byte) : State :=
  { s with sec := { s.sec with buf := l.zipIdx.foldl (fun b e => Sp.put b ((off + e.2) % 32768) e.1) s.sec.buf } }

/-! ### Finding a register -/

/-- The index of a register of an array, and the byte of it that an offset names. -/
def RegRow.find (r : RegRow) (off : Nat) : Option (Nat × Nat) :=
  if off < r.base then none else
  let d := off - r.base
  let i := if r.stride = 0 then 0 else d / r.stride
  let rem := if r.stride = 0 then d else d % r.stride
  let j := if r.stride2 = 0 then 0 else rem / r.stride2
  let b := if r.stride2 = 0 then rem else rem % r.stride2
  if i < r.count && j < r.count2 && b < r.bytes then some (i * r.count2 + j, b) else none

/-- A register found: its array, its index and the byte of it that the access starts at. -/
structure RegAt where
  row : RegRow
  index : Nat
  byte : Nat
deriving DecidableEq, Repr

/-- The register at an offset of PF0 BAR0 (R840). -/
def regAt (off : Nat) : Option RegAt :=
  regTable.findSome? (fun r => (r.find off).map (fun e => { row := r, index := e.1, byte := e.2 }))

/-- The register at an offset of PF0 BAR0, with another index: registers of the same kind outside PF0 BAR0. -/
def regAs (off index : Nat) : Option RegAt := (regAt off).map (fun r => { r with index := index })

/-- The register of a mailbox at an offset from the mailbox's MBOX_CTRL: CTRL at 0, ACK at 8, DATA from 0x40. -/
def boxReg (box o : Nat) : Option RegAt :=
  if 0x40 ≤ o then (regAt (0x1040 + (o - 0x40) % 0x40)).map (fun r => { r with index := 16 * box + (o - 0x40) / 4 })
  else regAs (0x1000 + o) box

/-- The registers of VF BAR0 (R841). -/
def State.vfReg (s : State) (v off : Nat) : Option RegAt :=
  if 0x100 ≤ off && off < 0x148 then regAt (0x300000 + 0x80 * v + (off - 0x100))
  else if 0x200 ≤ off && off < 0x300 then regAt (0x310000 + 0x100 * v + (off - 0x200))
  else if 0x400 ≤ off && off < 0x500 then regAt (0x280000 + 0x100 * v + (off - 0x400))
  else if off = 0x500 then regAt (0x240000 + 4 * v)
  else if off = 0x504 then regAt (0x240100 + 4 * v)
  else if off = 0x508 then regAt (0x240200 + 4 * v)
  else if 0x600 ≤ off && off < 0x60C then regAt (0x400000 + (off - 0x600))
  else if 0x700 ≤ off && off < 0x704 then regAt (0x900100 + 16 * v)
  else if 0x710 ≤ off && off < 0x730 then regAt (0x901000 + 32 * v + (off - 0x710))
  else if off = 0x800 then regAt (0x2D4000 + 4 * v)
  else if off = 0x804 then regAt (0x2D4100 + 4 * v)
  else if 0x1000 ≤ off && off < 0x1060 then boxReg (8 + v) (off - 0x1000)
  else if 0x8000 ≤ off && off < 0x8100 then (regAt (0x10000 + (off - 0x8000))).map (fun r => { r with index := vfVector v r.index })
  else if 0x10000 ≤ off && off < 0x10000 + 5 * 0x4000 then
    let k := (off - 0x10000) / 0x4000
    let i := (off - 0x10000) % 0x4000 / 4
    if i < s.rd .watchCount v then regAt (0x2C0000 + 0x4000 * k + 4 * (s.rd .watchBase v + i)) else none
  else none

/-- SEC_STATUS, which both secure channels show (R936, R937). -/
def secStatusReg (byte : Nat) : RegAt :=
  { row := { base := 0, stride := 0, count := 1, bytes := 4,
             fields := [(.lifecycle, 0), (.runBank, 4), (.preferredBank, 5), (.runTrial, 6), (.recovery, 7), (.idleVerified, 8), (.fwSvn, 16),
                        (.tokenSvn, 24)] },
    index := 0, byte := byte }

/-- The registers of the management port that have fields of their own (R900, R937, R973, R1025). -/
def mgtReg (off : Nat) : Option RegAt :=
  if off < 4 then regAt off
  else if 0x08 ≤ off && off < 0x0C then boxReg boxMgmt (off - 0x08)
  else if 0x0C ≤ off && off < 0x14 then boxReg boxMgmt (off - 0x04)
  else if 0x20 ≤ off && off < 0x60 then boxReg boxMgmt (0x40 + (off - 0x20))
  else if 0x80 ≤ off && off < 0x90 then boxReg boxSecMgmt (off - 0x80)
  else if 0x90 ≤ off && off < 0xB0 then boxReg boxSecMgmt (0x40 + (off - 0x90))
  else if off = 0xB0 then some { row := { base := 0, stride := 0, count := 1, bytes := 4, fields := [(.bufPtr, 0)] }, index := 0, byte := 0 }
  else if off = 0xB8 then some (secStatusReg 0)
  else if off = 0xC0 then
    some { row := { base := 0, stride := 0, count := 1, bytes := 4, fields := [(.mgtCtSlot, 0), (.mgtCtRegion, 31)] }, index := 0, byte := 0 }
  else if 0xC8 ≤ off && off < 0xDC then regAt (0xD00008 + (off - 0xC8))
  else if 0xE0 ≤ off && off < 0xE8 then regAt (0xB00010 + (off - 0xE0))
  else if 0xE8 ≤ off && off < 0xEC then regAt (0xB00000 + (off - 0xE8))
  else none

/-- The register that an access at a port reaches. BAR0 answers from IDENTITY onward (R984), a VF only while it exists, and
the management port whenever the island is up (R901). SEC_DATA_8 to SEC_DATA_15 of PF1 are reserved (R938). -/
def State.reach (s : State) (port : RegPort) (off : Nat) : Option RegAt :=
  match port with
  | .bar0 .pf0 => if s.bar0Up then regAt off else none
  | .bar0 (.vf v) => if s.bar0Up && s.vfExists v then s.vfReg v off else none
  | .pf1 =>
    if !s.bar0Up then none
    else if off < 0x60 then boxReg boxSecPf1 off
    else if off = 0x100 then some (secStatusReg 0)
    else none
  | .mgmt _ => if s.island then mgtReg off else none
  | .bar4 _ | .config _ | .configPf1 => none

/-! ### Writing and reading registers by access code (R10) -/

/-- Registers with a command of their own: their fields change by that command and not by REGISTER_WRITE. -/
def ownCommand (k : FKind) : Bool :=
  match k with
  | .sem | .cqHead | .eqHead | .ladleHead | .ladleResume | .ladleAbort | .flaskReset | .hostIntCause | .hostIntEn
  | .sourceSel | .timePlane | .holdoverLimit | .deferLead | .deferPolicy | .tickLoadArm
  | .entKind | .entState | .entFlask | .entFlaskEn | .entReadySem | .watchAvg
  | .tableValid | .tableFormat | .tableRowElems32 | .tableOwner | .tableRetireSigEn | .tableRetireSem | .tableRowsM1
  | .tableBaseA | .tableBaseB | .groupId | .groupFlask | .groupValid | .groupStart | .groupExtent | .groupStride
  | .portEnable | .portPlane | .ctSlot | .ctRegion | .mgtCtSlot | .mgtCtRegion | .probeGroup | .probeDiv | .probeEnable | .probeActFlask
  | .errLogHead | .mboxGo => true
  | _ => false

/-- The conditions under which a field takes a write. -/
def State.takesWrite (s : State) (k : FKind) (i : Nat) : Bool :=
  match k with
  | .cqBaseLo | .cqBaseHi | .cqSizeLog2 => !s.bit .cqEnable i
  | .eqBaseLo | .eqBaseHi | .eqSizeLog2 => !s.bit .eqEnable i
  | .ladleBaseLo | .ladleBaseHi | .ladleSizeLog2 => !s.bit .ladleEnable i
  | .mboxIntEn | .mboxCmd | .mboxSeq => !s.bit .mboxGo i
  | .mboxData => !s.bit .mboxGo (i / 16)
  | .entTime | .entPeriod | .entRepeat | .entArg | .entDuration => s.rd .entState i = 0
  -- the first of the VF_WIN registers is VF_WIN_1 (R903)
  | .vfWin => i ≠ 0
  | _ => true

/-- The part of a 64-bit register write that falls on a field: written bits and their values. -/
def fieldPart (mask value : Nat) (k : FKind) (lsb : Nat) : Nat × Nat :=
  let m := bits mask lsb k.info.width
  (m, bits value lsb k.info.width &&& m)

/-- Write one field (R10). -/
def State.writeField (s : State) (k : FKind) (i m v : Nat) : State :=
  if m = 0 || ownCommand k || !s.takesWrite k i then s else
  let old := s.rd k i
  let full := 2 ^ k.info.width - 1
  match k.info.acc with
  | .rw => s.wr k i ((old &&& (full - m)) ||| v)
  | .w1c => s.wr k i (old &&& (full - v))
  | .w1s => s.wr k i (old ||| v)
  | _ => s

/-- A write of LADLE_TAIL: ignored with TAIL_ERROR when it would make the ladle hold more than its ring (R494). -/
def State.tailWrite (s : State) (n v : Nat) : State :=
  if 2 ^ s.rd .ladleSizeLog2 n < sub32 v (s.rd .ladleHead n) then s.setBit .tailError n else s.wr .ladleTail n v

/-- After a write of a ring or ladle configuration: a size outside 6 to 16 leaves ENABLE 0, and a ladle's STATE follows its
ENABLE, and a disabled ladle forgets the record that it had read (R496): it reads the ring anew. -/
def State.afterCfg (s0 s : State) (r : RegAt) : State :=
  let i := r.index
  let legal (size : FKind) : Bool := decide (6 ≤ s.rd size i) && decide (s.rd size i ≤ 16)
  if r.row.fields.any (fun e => e.1 = .cqEnable) then
    (if s.bit .cqEnable i && !s0.bit .cqEnable i && !legal .cqSizeLog2 then s.clr .cqEnable i else s)
  else if r.row.fields.any (fun e => e.1 = .eqEnable) then
    (if s.bit .eqEnable i && !s0.bit .eqEnable i && !legal .eqSizeLog2 then s.clr .eqEnable i else s)
  else if r.row.fields.any (fun e => e.1 = .ladleEnable) then
    (if s.bit .ladleEnable i then
      (if s0.bit .ladleEnable i then s
       else if legal .ladleSizeLog2 then s.wr .ladleState i ladleActive else s.clr .ladleEnable i)
     else (s.wr .ladleState i ladleDisabled).onLadle i (fun x => { x with record := none }))
  else s

/-- Write the bits `mask` of one register. -/
def State.regWrite (s : State) (r : RegAt) (mask value : Nat) : State :=
  if r.row.fields.any (fun e => e.1 = .ladleTail) then
    (if mask % 2 ^ 32 = 2 ^ 32 - 1 then s.tailWrite r.index (value % 2 ^ 32) else s)
  -- a write of word 0x10 that covers STATE arms or frees the entry, by its own command
  else if r.row.fields.any (fun e => e.1 = .entKind) && mask % 2 ^ 32 ≠ 0 then s
  else
    let s1 := r.row.fields.foldl (fun s e =>
      let p := fieldPart mask value e.1 e.2
      s.writeField e.1 r.index p.1 p.2) s
    State.afterCfg s s1 r

/-- A write through the management port that is discarded: in SMBus mode its PEC is missing or wrong (R896, R897). -/
def State.pecDiscards (s : State) (port : RegPort) : Bool :=
  match port with
  | .mgmt pecOk => !s.mbox.mgmtI3c && !pecOk
  | _ => false

/-- A write through the management port that does not cover whole registers (R899): a word of it is covered in part. -/
def partWords (port : RegPort) (be : Nat) : Bool :=
  match port with
  | .mgmt _ => !((be % 16 = 0 || be % 16 = 15) && (be / 16 % 16 = 0 || be / 16 % 16 = 15))
  | _ => false

/-- The function whose configuration space a port reaches. -/
def configFn : RegPort → Option Nat
  | .config fn => some (fnNum fn)
  | .configPf1 => some 64
  | _ => none

/-- A list of functions with one put in or taken out. -/
def setFn (l : List Nat) (fn : Nat) (on : Bool) : List Nat := l.filter (· ≠ fn) ++ (if on then [fn] else [])

/-- A write of configuration space (R829, R832, R985; log entry 16): MSI-X Enable and Function Mask, the size of PF0 BAR2 from 1 GiB to 2 TiB,
and the power state; each when the byte that holds it is enabled. -/
def HostRt.configWrite (h : HostRt) (fn off be v : Nat) : HostRt :=
  let h1 := if off = Config.msixControlAt fn && be.testBit 3 then
      { h with msixOn := setFn h.msixOn fn (v.testBit 31), msixHeld := setFn h.msixHeld fn (v.testBit 30) } else h
  let size := bits v 8 6
  let h2 := if fn = 0 && off = Config.barControlAt && be.testBit 1 && decide (10 ≤ size) && decide (size ≤ 21) then
      { h1 with bar2Log := 20 + size } else h1
  if off = Config.powerControlAt fn && be.testBit 0 then { h2 with sleeping := setFn h2.sleeping fn (bits v 0 2 = 3) } else h2

/-- An offset of PF1 BAR0 that lies in SEC_BUF (R936). -/
def inSecBuf (port : RegPort) (off : Nat) : Bool := port = .pf1 && decide (0x8000 ≤ off) && decide (off < 0x10000)

/-- A write of one or two aligned words (R838, R839, R899): one access to a 64-bit register, else one 32-bit access after the other; a
word whose four byte enables are not all set takes nothing. A write through the management port keeps its offset (R898). -/
def State.busWrite (s0 : State) (port : RegPort) (off be value : Nat) : State :=
  if off % 4 ≠ 0 || s0.pecDiscards port then s0 else
  let s : State := match port with
    | .mgmt _ => { s0 with mbox := { s0.mbox with mgmtOffset := off } }
    | _ => s0
  if partWords port be then s else
  let one (s : State) (off v : Nat) : State :=
    match s.reach port off with
    | some r => s.regWrite r ((2 ^ 32 - 1) <<< (8 * r.byte)) (v <<< (8 * r.byte))
    | none => if inSecBuf port off && s.bar0Up then s.bufPut (off - 0x8000) (leBytes v 4) else s
  let low := if be % 16 = 0x0F then one s off (value % 2 ^ 32) else s
  let halves := if be / 16 % 16 = 0x0F then one low (off + 4) (value >>> 32) else low
  if be % 256 = 0xFF && off % 8 = 0 then
    match s.reach port off with
    | some r => if r.row.bytes = 8 && r.byte = 0 then s.regWrite r (2 ^ 64 - 1) value else halves
    | none => halves
  else halves

/-- The value of a register. -/
def State.regValue (s : State) (r : RegAt) : Nat :=
  r.row.fields.foldl (fun v e => v ||| (s.field e.1 r.index <<< e.2)) 0

/-- The 32-bit word of the register at an offset of PF0 BAR0. -/
def State.regWord (s : State) (off : Nat) : Nat :=
  match regAt off with
  | some r => bits (s.regValue r) (8 * r.byte) 32
  | none => 0

/-- The hottest unit (0 to 15 stack, 16 to 19 compute die, 20 to 27 engine) and its TEMP. -/
def State.hottest (s : State) : Nat × Nat :=
  let l := (List.range 16).map (fun i => (i, s.rd .stackTemp i)) ++ (List.range 4).map (fun i => (16 + i, s.rd .dieTemp i))
    ++ (List.range 8).map (fun i => (20 + i, s.rd .engineTemp i))
  l.foldl (fun b e => if b.2 < e.2 then e else b) (0, s.rd .stackTemp 0)

/-- MGT_STATE (R980): 0 STANDBY, 1 STARTING, 2 RUNNING. -/
def State.mgtState (s : State) : Nat :=
  match s.phase with
  | .off | .standby | .recovery => 0
  | .ready => 2
  | _ => 1

/-- The ladle of a doorbell page of a function (R493, R848). -/
def State.pageLadle (s : State) (fn : Fn) (page : Nat) : Option Nat :=
  match fn with
  | .pf0 => if page < 256 then some page else none
  | .vf v => if s.vfExists v && decide (page < 4) then some (4 * v + page) else none

/-- A free value with the field of n bits from bit lo replaced. -/
def setBits (x lo n v : Nat) : Nat := x - (bits x lo n <<< lo) + (v % 2 ^ n <<< lo)

/-- The words of a 64-bit BAR of 2^log bytes whose address is a free value (R832): the bits below its size read 0, those of its kind apart. -/
def barLow (log kind x : Nat) : Nat := setBits x 0 (min 32 log) kind
def barHigh (log x : Nat) : Nat := setBits x 0 (log - 32) 0

/-- The identification words of a function's configuration space (R832, R834), at the places that PCI Express gives them (log entry 59): vendor
and device ID at 0x00, revision and class code at 0x08, the BARs of a physical function from 0x10, subsystem IDs at 0x2C; with the control
words that `HostRt.configWrite` writes. Nothing is said of the other words: free values. -/
def State.configWord (s : State) (fn device off : Nat) : Nat :=
  let x := bits (s.free off).toNat 0 32
  if off = 0x00 then device <<< 16 ||| 0x1F9C
  else if off = 0x08 then 0x120000 <<< 8 ||| s.rd .hostStepping
  else if off = 0x2C then (if s.part1024 then 0x1024 else 0x1536) <<< 16 ||| 0x1F9C
  else if fn = 0 && off = 0x10 then barLow 26 4 x
  else if fn = 0 && off = 0x18 then barLow s.host.bar2Log 12 x
  else if fn = 0 && off = 0x1C then barHigh s.host.bar2Log x
  else if fn = 0 && off = 0x20 then barLow 20 12 x
  else if fn = 64 && off = 0x10 then barLow 16 4 x
  else if decide (0x10 ≤ off) && decide (off < 0x28) && (decide (0x18 ≤ off) && fn = 64 || decide (0 < fn) && decide (fn < 64)) then 0
  else if off = Config.msixControlAt fn then
    setBits x 30 2 ((if s.host.msixHeld.contains fn then 1 else 0) + (if s.host.msixOn.contains fn then 2 else 0))
  else if fn = 0 && off = Config.barControlAt then setBits x 8 6 (s.host.bar2Log - 20)
  else if off = Config.powerControlAt fn then setBits x 0 2 (if s.host.sleeping.contains fn then 3 else 0)
  else x

/-- A word at an offset of a port that holds no register of fields: VF_INFO and the PBA of a VF (R841), SEC_BUF (R936), MGT_STATE (R980), the last word of the power window (R973),
a doorbell page (R849), configuration space. An offset that holds nothing reads 0 (R839). -/
def State.portWord (s : State) (port : RegPort) (off : Nat) : Nat :=
  match port with
  | .bar0 .pf0 => 0
  | .bar0 (.vf v) =>
    if !(s.bar0Up && s.vfExists v) then 0
    else if off = 0 then v
    else if off = 0x9000 then bitMask ((List.range 16).filter (fun b => vfVector v b ∈ s.host.held))
    else 0
  | .pf1 => if inSecBuf port off && s.bar0Up then leNat (s.bufBytes (off - 0x8000) 4) else 0
  | .mgmt _ =>
    if !s.island then 0
    else if off = 0x04 then s.mgtState
    else if off = 0xEC then s.hottest.2 % 1024 ||| ((if s.power.emergency then 1 else 0) <<< 10) ||| ((s.power.cause % 8) <<< 11)
    else 0
  | .bar4 fn => if off % 4096 = 0 then ((s.pageLadle fn (off / 4096)).map (fun n => s.rd .ladleHead n)).getD 0 else 0
  | .config .pf0 => s.configWord 0 0x9160 off
  | .config (.vf v) => s.configWord v 0x9162 off
  | .configPf1 => s.configWord 64 0x9161 off

/-- A port completes a read with data: BAR4 from READY onward (R985), configuration requests from IDENTITY onward (R984) for a function that
exists. -/
def State.answers (s : State) (port : RegPort) : Bool :=
  match port with
  | .bar4 _ => s.ready
  | .config .pf0 | .configPf1 => s.bar0Up
  | .config (.vf v) => s.bar0Up && s.vfExists v
  | _ => true

/-- The RC fields that a read of bits `mask` covers are cleared (R10). -/
def State.clearRead (s : State) (r : RegAt) (mask : Nat) : State :=
  r.row.fields.foldl (fun s e =>
    if e.1.info.acc = .rc && bits mask e.2 e.1.info.width ≠ 0 then s.wr e.1 r.index 0 else s) s

/-- A read of ALMANAC_NOW_LO latches the high half of the same instant (R445). -/
def State.latchNow (s : State) (r : RegAt) : State :=
  if r.row.fields.any (fun e => e.1 = .nowLo) then s.wr .nowHi 0 (s.now / 2 ^ 32) else s

/-- The start-up phase that loads a register block has not ended (R986): RECORD for the arrays and the contrail, CONFIG for memory and fabric. -/
def State.unloaded (s : State) (b : Block) : Bool :=
  match b with
  | .array | .contrail => s.phase = .identity || s.phase = .record || (s.phase = .failed && decide (s.rd .failCause ≤ 2))
  | .memory | .fabric => !s.ready
  | _ => false

/-- The value that a read of a register at a port returns: at BAR0, the reset value for a register of a block not yet loaded (R986). -/
def State.portValue (s : State) (port : RegPort) (r : RegAt) : Nat :=
  match port with
  | .bar0 _ => r.row.fields.foldl (fun v e =>
      v ||| ((if s.unloaded e.1.info.block then e.1.info.reset else s.field e.1 r.index) <<< e.2)) 0
  | _ => s.regValue r

/-- One word read at a port, and the state after the clear. -/
def State.readWordAt (s : State) (port : RegPort) (off : Nat) : List Byte × State :=
  match s.reach port off with
  | some r => (leBytes (bits (s.portValue port r) (8 * r.byte) 32) 4, (s.clearRead r ((2 ^ 32 - 1) <<< (8 * r.byte))).latchNow r)
  | none => (leBytes (s.portWord port off) 4, s)

/-- Words read at a port in ascending order. -/
def State.readWordsAt (s : State) (port : RegPort) (off : Nat) : Nat → List Byte × State
  | 0 => ([], s)
  | n + 1 =>
    let a := s.readWordAt port off
    let b := a.2.readWordsAt port (off + 4) n
    (a.1 ++ b.1, b.2)

/-- A read: the data, and the state after the clear; `none` completes with Unsupported Request (R839, R985). BAR0, PF1 and doorbell pages take
one or two whole words, configuration space bytes of one word, the management port a block of any length, which in I3C mode starts at the last
offset written (R896, R898). -/
def State.busRead (s : State) (port : RegPort) (off len : Nat) : Option (List Byte × State) :=
  let from_ (s : State) (off : Nat) : List Byte × State :=
    let x := s.readWordsAt port (off / 4 * 4) (ceilDiv (off % 4 + len) 4)
    ((x.1.drop (off % 4)).take len, x.2)
  if !s.answers port || len = 0 then none else
  match port with
  | .mgmt _ =>
    if s.mbox.mgmtI3c then some (from_ s s.mbox.mgmtOffset) else some (from_ { s with mbox := { s.mbox with mgmtOffset := off } } off)
  | .config _ | .configPf1 => if 4 < off % 4 + len then none else some (from_ s off)
  | _ => if off % 4 ≠ 0 || (len ≠ 4 && len ≠ 8) then none else some (from_ s off)

/-- What the part sends on the host link. -/
def State.send (s : State) (m : HostMsg) : State := { s with host := { s.host with out := s.host.out ++ [m] } }

/-- Report an error of a BAR2 access in AER (R844, R847, R1070). -/
def State.report (s : State) (r : AerReport) : State := { s with host := { s.host with aer := r :: s.host.aer } }

/-- REGISTER_WRITE (R10). A write of configuration space is completed (R984). -/
def execRegisterWrite (port : RegPort) (off be : Nat) (value : Word64) (s : State) : Host.Outcome State Fault Refusal :=
  done (match configFn port with
    | some fn =>
      if s.answers port then { s with host := s.host.configWrite fn off be value.toNat }.send (.data [] false) else s.send .unsupported
    | none => s.busWrite port off be value.toNat)

/-- RC_COUNTER_READ (R121): the read returns every increment made before it and clears the counter. A read of registers that clear nothing
is the same command. -/
def execRcCounterRead (port : RegPort) (off len : Nat) (s : State) : Host.Outcome State Fault Refusal :=
  done (match s.busRead port off len with
    | some (d, s1) => s1.send (.data d false)
    | none => s.send .unsupported)

/-- ALMANAC_NOW_LO_READ (R445): the low half is returned, and the high half of the same instant is latched. -/
def execAlmanacNowLoRead (fn : Fn) (s : State) : Host.Outcome State Fault Refusal :=
  let up := match fn with
    | .pf0 => s.bar0Up
    | .vf v => s.bar0Up && s.vfExists v
  done (if up then (s.send (.data (leBytes (s.now % 2 ^ 32) 4) false)).wr .nowHi 0 (s.now / 2 ^ 32) else s)

/-- SEM_WRITE (R197, R189): a host write sets a semaphore. -/
def execSemWrite (n : Nat) (value : Word32) (s : State) : Host.Outcome State Fault Refusal :=
  done (if s.bar0Up && decide (n < 4096) then s.wr .sem n value.toNat else s)

/-- CQ_HEAD_WRITE (R856): sets the armed bit; with records remaining and CQ_INT_EN 1 the source fires at once. -/
def execCqHeadWrite (f : Nat) (value : Word32) (s : State) : Host.Outcome State Fault Refusal :=
  let s1 := (s.wr .cqHead f value.toNat).wr .cqArmed (f / 32) (s.rd .cqArmed (f / 32) ||| 1 <<< (f % 32))
  done (if s.bar0Up && decide (f < 64) then (if s1.rd .cqHead f ≠ s1.rd .cqTail f then s1.cqFire f else s1) else s)

/-- EQ_HEAD_WRITE (R858). -/
def execEqHeadWrite (f : Nat) (value : Word32) (s : State) : Host.Outcome State Fault Refusal :=
  let s1 := (s.wr .eqHead f value.toNat).wr .eqArmed (f / 32) (s.rd .eqArmed (f / 32) ||| 1 <<< (f % 32))
  done (if s.bar0Up && decide (f < 64) then (if s1.rd .eqHead f ≠ s1.rd .eqTail f then s1.eqFire f else s1) else s)

/-- LADLE_HEAD_WRITE (R503): moves the head of a STOPPED ladle. -/
def execLadleHeadWrite (n : Nat) (value : Word32) (s : State) : Host.Outcome State Fault Refusal :=
  done (if s.bar0Up && s.rd .ladleState n = ladleStopped then s.wr .ladleHead n value.toNat else s)

/-- HOST_INT_WRITE (R860): a write of HOST_INT_CAUSE clears bits written 1, a write of HOST_INT_EN replaces it; when the
masked cause is then nonzero the part-event source fires. -/
def execHostIntWrite (enable : Bool) (value : Word32) (s : State) : Host.Outcome State Fault Refusal :=
  let s1 := if enable then s.wr .hostIntEn 0 value.toNat
    else s.wr .hostIntCause 0 (s.rd .hostIntCause &&& (127 - value.toNat % 128))
  let s2 := if s1.maskedCause ≠ 0 then s1.fire (s1.route 136) else s1
  done (if s.bar0Up then { s2 with host := { s2.host with irqLevel := s1.maskedCause } } else s)

/-- ERR_LOG_HEAD_WRITE (R1067): a HEAD beyond TAIL, modulo 2^32, is taken as TAIL. -/
def execErrLogHeadWrite (value : Word32) (s : State) : Host.Outcome State Fault Refusal :=
  let tail := s.rd .errLogTail
  let v := value.toNat
  -- beyond TAIL: the entries read past would exceed those written
  done (if s.bar0Up then s.wr .errLogHead 0 (if sub32 tail v < 2 ^ 31 then v else tail) else s)

/-! ### BAR2 (R842 to R847) -/

/-- The bytes of a function's BAR2 (R832). -/
def State.bar2Bytes (s : State) (fn : Fn) : Nat :=
  match fn with
  | .pf0 => 2 ^ s.host.bar2Log
  | .vf _ => 2 ^ 36

/-- The local address that an offset of a function's BAR2 reaches (R842, R843). -/
def State.bar2Addr (s : State) (fn : Fn) (off : Nat) : Nat :=
  match fn with
  | .pf0 => (s.rd .bar2Win <<< 30) / s.bar2Bytes fn * s.bar2Bytes fn + off
  | .vf v => (s.rd .vfWin v <<< 36) + off

/-- A BAR2 access reaches memory: a present address, for a VF inside one segment that grants the right (R843, R844). -/
def State.bar2Ok (s : State) (fn : Fn) (a len : Nat) (write : Bool) : Bool :=
  s.present a len &&
  (tierOf a ≠ 2 || s.rd .bayState ((a - 0x0C0000000000) / 2 ^ 30) = 1) &&
  (match fn with
    | .pf0 => true
    | .vf v => s.vfExists v && s.allowed v a len (if write then .write else .read))

/-- The hint of a BAR2 access (R846). -/
def State.bar2Hint (s : State) (fn : Fn) (a len : Nat) (write : Bool) : Nat :=
  match fn with
  | .pf0 => 0
  | .vf v => s.hintOf v a len 0 (if write then .write else .read)

/-- The flask of a BAR2 access to a bay: the bay's (R845). -/
def State.bar2Flask (s : State) (a : Nat) : Nat := s.rd .bayFlask ((a - 0x0C0000000000) / 2 ^ 30)

/-- The completions of a host read of `len` bytes from an address that met failed words, with POISON_CPL: one for each aligned 128-byte unit
of its range (R641; log entry 59), with EP set in each that holds a failed piece, and each failed word as 0 (R637). -/
def poisonedCompletions (a len : Nat) (r : RdRes) : List HostMsg :=
  let bad := (r.failedAt a).map (fun w => 8 * w / 128)
  (List.range ((a + len - 1) / 128 + 1 - a / 128)).map (fun i =>
    let unit := a / 128 + i
    let first := max a (128 * unit)
    .data ((r.bytes.drop (first - a)).take (128 * unit + 128 - first)) (bad.contains unit))

/-- Complete a host read of the bytes from a local address with what memory gave: data; on failed words one Completer Abort, or with
POISON_CPL every completion with the failed pieces marked (R637). -/
def State.completeRead (s : State) (fn : Fn) (off a len : Nat) (r : RdRes) : State :=
  if r.code = 0 then s.send (.data r.bytes false)
  else if s.bit .poisonCpl then (poisonedCompletions a len r).foldl (fun (s : State) m => s.send m) s
  else (s.send .completerAbort).report { fn := fn, completerAbort := true, write := false, offset := off, length := len }

/-- A host access to a bay is under way: requests of it wait, or words of it have come. -/
def State.hostAsked (s : State) (who : Who) (a len : Nat) : Bool :=
  let owner := ownerOf who none
  let w := wordsOf a len
  (List.range w.2).any (fun i => s.asked owner (w.1 + i) || (Sp.get? s.staged (stageKey owner (w.1 + i))).isSome)

/-- BAR2_READ (R842). A read of a bay is completed once its responses have come: the command is then given again, and is not checked a second
time (R844, R845). -/
def execBar2Read (fn : Fn) (off len : Nat) (s : State) : Host.Outcome State Fault Refusal :=
  let a := s.bar2Addr fn off
  let ca (s : State) : State :=
    (s.send .completerAbort).report { fn := fn, completerAbort := true, write := false, offset := off, length := len }
  let who : Who := { rq := rqHost, flask := s.bar2Flask a, host := some (fn, off) }
  let owner := ownerOf who none
  done (
    if !s.ready || decide (s.bar2Bytes fn < off + len) || !(s.bar2Ok fn a len false || s.hostAsked who a len) then s.send .unsupported
    else if tierOf a = 2 then
      match s.ask who none (requests (len / 8 + 2) (wordsOf a len).1 (wordsOf a len).2) with
      | .error _ => ca (s.unstage owner a len)
      | .ok s1 =>
        if (s1.lostCode owner a len).isSome then ca (s1.unstage owner a len)
        else if s1.isStaged owner a len then (s1.unstage owner a len).completeRead fn off a len (s1.peekFar owner a len)
        else s1
    else if s.drains a len then ca s
    else
      let r := s.readLocal { rq := rqHost } (s.bar2Hint fn a len false) a len
      r.2.completeRead fn off a len r.1)

/-- A host write to a bay of bytes that cover some words in part: these are read, merged and written whole (R634), those that failed left
out (log entry 14). The command is given again once the words have come. `lost` says what becomes of a write that ends without its data. -/
def State.mergeFar (s : State) (who : Who) (a : Nat) (data : List Byte) (lost : State → State) : State :=
  let owner := ownerOf who none
  let lead := a % 8
  let w := wordsOf a data.length
  let edges := (if lead = 0 then [] else [0]) ++ (if (a + data.length) % 8 = 0 || (w.2 = 1 && lead ≠ 0) then [] else [w.2 - 1])
  let clean (s : State) : State := edges.foldl (fun s i => s.unstage owner (8 * (w.1 + i)) 8) s
  match s.ask who none (edges.map (fun i => (w.1 + i, 1))) with
  | .error _ => lost (clean s)
  | .ok s1 =>
    if edges.any (fun i => (s1.lostCode owner (8 * (w.1 + i)) 8).isSome) then lost (clean s1)
    else if edges.all (fun i => s1.isStaged owner (8 * (w.1 + i)) 8) then
      let word (i : Nat) : RdRes := s1.peekFar owner (8 * (w.1 + i)) 8
      let tail := (8 - (a + data.length) % 8) % 8
      let whole := (word 0).bytes.take lead ++ data ++ (word (w.2 - 1)).bytes.drop (8 - tail)
      match (clean s1).put who none 0 (a - lead) whole (edges.filter (fun i => (word i).code ≠ 0)) with
      | .ok s2 => s2
      | .error _ => lost (clean s1)
    else s1

/-- BAR2_WRITE (R842): performed, or discarded and reported (R844, R1070). Posted writes are performed in the order of the
commands, so a later doorbell finds them done (R851); one to a bay is under way until its WR_ACK, and a later doorbell of the function waits for it,
unless it had Relaxed Ordering. -/
def execBar2Write (fn : Fn) (off : Nat) (data : List Byte) (relaxed : Bool) (s : State) : Host.Outcome State Fault Refusal :=
  let a := s.bar2Addr fn off
  let rep (ca : Bool) (s : State) := s.report { fn := fn, completerAbort := ca, write := true, offset := off, length := data.length }
  -- the words that a write of part of them reads are apart from those of a read
  let who : Who := { rq := rqHost + 16, flask := s.bar2Flask a, host := if relaxed then none else some (fn, off) }
  done (
    if !s.ready then s
    else if decide (s.bar2Bytes fn < off + data.length) || !(s.bar2Ok fn a data.length true || s.hostAsked who a data.length) then rep false s
    else if tierOf a = 2 then s.mergeFar who a data (rep true)
    else if s.drains a data.length then rep true s
    else s.mergeLocal { rq := rqHost } (s.bar2Hint fn a data.length true) a data)

/-! ### Doorbells (R493, R848 to R851) -/

/-- A write of a function to a bay has not been performed, or waits for words that it merges: a doorbell of the function waits for it
(R851). -/
def State.bellHeld (s : State) (fn : Fn) : Bool :=
  let owner := ownerOf { rq := rqHost + 16, host := some (fn, 0) } none
  s.tc2.any (fun q => q.host.any (fun h => h.1 = fn) && (q.op = 0x82 || q.dest[1]? = some owner))
    || s.staged.any (fun e => e.1 / 2 ^ 56 = owner)

/-- A doorbell write acts: it writes LADLE_TAIL of an enabled ladle (R493, R850). -/
def State.ringBell (s : State) (n value : Nat) : State := if s.ready && s.bit .ladleEnable n then s.tailWrite n value else s

/-- The doorbell writes of a function that no write holds any more act, in their order. -/
def State.ringHeld (s : State) (fn : Fn) : State :=
  if s.bellHeld fn then s else
  let mine := s.host.bells.filter (fun b => b.1 = fn)
  mine.foldl (fun (s : State) b => s.ringBell b.2.1 b.2.2)
    { s with host := { s.host with bells := s.host.bells.filter (fun b => b.1 ≠ fn) } }

/-- DOORBELL (R493, R848, R850, R851): a write to offset 0 of a doorbell page writes LADLE_TAIL of its ladle, once the function's earlier writes
have been performed. -/
def execDoorbell (fn : Fn) (page : Nat) (value : Word32) (s : State) : Host.Outcome State Fault Refusal :=
  done (match s.pageLadle fn page with
    | some n =>
      if s.bellHeld fn then { s with host := { s.host with bells := s.host.bells ++ [(fn, n, value.toNat)] } } else s.ringBell n value.toNat
    | none => s)

/-! ### The link and the functions -/

/-- PCIE_LINK_UP (R827, R828): GEN, WIDTH and FLIT of HOST_LINK; FLIT mode at 64.0 and 128.0 GT/s. -/
def execPcieLinkUp (gen width : Nat) (s : State) : Host.Outcome State Fault Refusal :=
  done (if s.bar0Up && decide (1 ≤ gen) && decide (gen ≤ 7) && (width = 1 || width = 2 || width = 4 || width = 8) then
    ((s.wr .linkGen 0 gen).wr .linkWidth 0 width).wr .linkFlit 0 (if 6 ≤ gen then 1 else 0) else s)

/-- VF_ENABLE_SET (R854): the VFs 1 to NumVFs exist, each bound to its flask (R833). -/
def execVfEnableSet (numVfs : Nat) (s : State) : Host.Outcome State Fault Refusal :=
  done (if s.bar0Up && decide (numVfs ≤ 63) then (s.wr .linkNumVf 0 numVfs).setBit .linkVfEnable else s)

/-- DYNAMIC_ADDRESS_ASSIGNMENT (R898): in I3C mode the management port takes a dynamic address. -/
def execDynamicAddressAssignment (addr : Nat) (s : State) : Host.Outcome State Fault Refusal :=
  done (if s.island && s.mbox.mgmtI3c then { s with mbox := { s.mbox with mgmtDynamic := some (addr % 128) } } else s)

end Sys2Proof.Machine
end

