-- ==== Sys2Proof/Machine/Fence.lean ====
section
/-!
DEFINITION. Fences of arrays and routers, with the fence table, the fence event and the event chain (R66 to R75, R926, R1016).
-/
namespace Sys2Proof.Machine

/-! ### Fences (R66 to R74, R926, R1016) -/

/-- One event of the event chain M_EVENTS (R926): SHA-384 of the chain followed by a record of event code, first argument and
almanac time (layout: log entry 20). -/
def State.chain (s : State) (code arg : Nat) : State :=
  { s with sec := { s.sec with events := Config.sha384 (s.sec.events ++ leBytes code 4 ++ leBytes arg 4 ++ leBytes s.now 8) } }

/-- The contrail ARG of a fence: array index, CAUSE, and 1 for a router fence, as 32-bit words (log entry 21). -/
def fenceArg (a cause router : Nat) : List Byte := leBytes a 4 ++ leBytes cause 4 ++ leBytes router 4

/-- Fence an array for a cause (R66, R67, R73, R74): the fence table first, then the registers and the event. -/
def State.fenceArray (s : State) (a cause : Nat) : State :=
  if s.fenced a || decide (512 ≤ a) then s else
  let s1 : State := { s with contrail := { s.contrail with fenced := Sp.put s.contrail.fenced a cause } }
  let s2 := (s1.wr .fenceMap (arrayY a) (s1.rd .fenceMap (arrayY a) ||| 1 <<< arrayX a)).wr .fenceCause a cause
  ((s2.contrailAdd 0x01 0 0 (fenceArg a cause 0)).raise .newFence 0 causeFence).chain 0x01 a

/-- Fence a router (R68, R73, R74). CAUSE of its array becomes 0x5 when the array itself is not fenced. -/
def State.fenceRouter (s : State) (a : Nat) : State :=
  if s.routeFenced a || decide (512 ≤ a) then s else
  let s1 : State := { s with contrail := { s.contrail with routeFenced := s.contrail.routeFenced ++ [a] } }
  let s2 := s1.wr .routeFenceMap (arrayY a) (s1.rd .routeFenceMap (arrayY a) ||| 1 <<< arrayX a)
  let s3 := if s2.fenced a then s2 else s2.wr .fenceCause a 5
  ((s3.contrailAdd 0x01 0 0 (fenceArg a 5 1)).raise .newRouteFence 0 causeFence).chain 0x01 a

/-- Load the fence maps and causes from the fence table (R976, R986). -/
def State.loadFences (s : State) : State :=
  let s1 := s.contrail.fenced.foldl (fun (s : State) e =>
    (s.wr .fenceMap (arrayY e.1) (s.rd .fenceMap (arrayY e.1) ||| 1 <<< arrayX e.1)).wr .fenceCause e.1 e.2) s
  s1.contrail.routeFenced.foldl (fun (s : State) a =>
    let t := s.wr .routeFenceMap (arrayY a) (s.rd .routeFenceMap (arrayY a) ||| 1 <<< arrayX a)
    if t.fenced a then t else t.wr .fenceCause a 5) s1

/-! ### Faults that are counted over a day of almanac time (R67, R68) -/

/-- An uncorrectable word in a checked store of an array is counted; the second within 24 hours fences the array (R67). -/
def State.arrayUe (s : State) (a : Nat) : State :=
  let times := recent s.now (s.array a).ueTimes ++ [s.now]
  let s1 := s.onArray a (fun r => { r with ueTimes := times })
  if 2 ≤ times.length then s1.fenceArray a 4 else s1

/-- A parity fault of an array's cells, banks or row unit, or of its router, is counted: the fourth datapath fault, or the second router fault,
within 24 hours fences (R67, R68). -/
def State.arrayParity (s : State) (a : Nat) (router : Bool) : State :=
  let r := s.array a
  if router then
    let times := recent s.now r.routerTimes ++ [s.now]
    let s1 := s.onArray a (fun r => { r with routerTimes := times })
    if 2 ≤ times.length then s1.fenceRouter a else s1
  else
    let times := recent s.now r.parityTimes ++ [s.now]
    let s1 := s.onArray a (fun r => { r with parityTimes := times })
    if 4 ≤ times.length then s1.fenceArray a 3 else s1

end Sys2Proof.Machine
end

