-- ==== Sys2Proof/Machine/Numbers.lean ====
section
/-!
DEFINITION. Numbers: exact values, the floating formats and their single rounding, stochastic rounding, block quantisation and
the special functions (R27 to R37, R76 to R118, R239 to R285).
-/
namespace Sys2Proof.Machine

/-! ### Exact values -/

/-- An exact number m · 2^e. -/
structure Dy where
  m : Int
  e : Int
deriving DecidableEq, Repr

/-- Two raised to a natural number. -/
def pow2 (n : Nat) : Nat := 1 <<< n

/-- The mantissa of a number at a smaller exponent. -/
def Dy.at (a : Dy) (e : Int) : Int := a.m * (pow2 (a.e - e).toNat : Nat)

def Dy.add (a b : Dy) : Dy :=
  let e := min a.e b.e
  ⟨a.at e + b.at e, e⟩

def Dy.mul (a b : Dy) : Dy := ⟨a.m * b.m, a.e + b.e⟩

/-- a < b. -/
def Dy.lt (a b : Dy) : Bool :=
  let e := min a.e b.e
  decide (a.at e < b.at e)

/-- A value of IEEE 754 without NaN payload. A finite value keeps its sign, so that zero has two. -/
inductive Val where
  | nan
  | inf (neg : Bool)
  | fin (neg : Bool) (m : Nat) (e : Int)
deriving DecidableEq, Repr

def Val.zero : Val := .fin false 0 0

/-- A natural number as a value. -/
def Val.ofNat (n : Nat) : Val := .fin false n 0

/-- Two raised to an integer. -/
def Val.two (e : Int) : Val := .fin false 1 e

/-- The exact number of a finite value. -/
def Val.dy : Val → Dy
  | .fin neg m e => ⟨if neg then -(m : Int) else m, e⟩
  | _ => ⟨0, 0⟩

/-- An exact number as a value; an exact zero is +0. -/
def Val.ofDy (d : Dy) : Val := .fin (decide (d.m < 0)) d.m.natAbs d.e

def Val.neg : Val → Val
  | .nan => .nan
  | .inf n => .inf (!n)
  | .fin n m e => .fin (!n) m e

def Val.abs : Val → Val
  | .nan => .nan
  | .inf _ => .inf false
  | .fin _ m e => .fin false m e

def Val.isNan (v : Val) : Bool := v = .nan

/-- NaN or an infinity. -/
def Val.special : Val → Bool
  | .fin _ _ _ => false
  | _ => true

def Val.isZero : Val → Bool
  | .fin _ m _ => m = 0
  | _ => false

def Val.sign : Val → Bool
  | .nan => false
  | .inf n => n
  | .fin n _ _ => n

/-- The exact product (R34). -/
def Val.mul : Val → Val → Val
  | .nan, _ => .nan
  | _, .nan => .nan
  | .inf a, .inf b => .inf (a != b)
  | .inf a, .fin b m _ => if m = 0 then .nan else .inf (a != b)
  | .fin a m _, .inf b => if m = 0 then .nan else .inf (a != b)
  | .fin a m e, .fin b n f => .fin (a != b) (m * n) (e + f)

/-- The exact sum (R34): an exact zero is −0 only when every term is −0. -/
def Val.sum (l : List Val) : Val :=
  if l.any Val.isNan then .nan else
  let pos := l.any (fun v => v = .inf false)
  let ng := l.any (fun v => v = .inf true)
  if pos && ng then .nan
  else if pos then .inf false
  else if ng then .inf true
  else
    let d := l.foldl (fun (a : Dy) v => if v.isZero then a else if a.m = 0 then v.dy else a.add v.dy) ⟨0, 0⟩
    if d.m = 0 then .fin (!l.isEmpty && l.all Val.sign && l.all Val.isZero) 0 0 else .ofDy d

def Val.add (a b : Val) : Val := Val.sum [a, b]

/-- a < b; false when either is NaN. -/
def Val.lt : Val → Val → Bool
  | .nan, _ => false
  | _, .nan => false
  | .inf a, .inf b => a && !b
  | .inf a, .fin _ _ _ => a
  | .fin _ _ _, .inf b => !b
  | .fin a m e, .fin b n f => (Val.dy (.fin a m e)).lt (Val.dy (.fin b n f))

/-- The larger of two values: NaN when either is, and +0 above −0 (R272). -/
def Val.max (a b : Val) : Val :=
  if a.isNan || b.isNan then .nan
  else if a.lt b then b
  else if b.lt a then a
  else if a.sign then b else a

/-- The smaller of two values: NaN when either is. -/
def Val.min (a b : Val) : Val :=
  if a.isNan || b.isNan then .nan
  else if a.lt b then a
  else if b.lt a then b
  else if a.sign then a else b

/-! ### Formats and rounding -/

/-- A binary floating format: mantissa bits, the exponent of its smallest subnormal, the first magnitude code that is not
finite, and whether that code is Inf (R86). -/
structure Fp where
  mb : Nat
  emin : Int
  top : Nat
  hasInf : Bool
  width : Nat
  nanCode : Nat
deriving DecidableEq, Repr

def fp32 : Fp := ⟨23, -149, 0x7F800000, true, 32, 0x7FC00000⟩
def bf16 : Fp := ⟨7, -133, 0x7F80, true, 16, 0x7FC0⟩
def e5m2 : Fp := ⟨2, -16, 0x7C, true, 8, 0x7E⟩
def e4m3 : Fp := ⟨3, -9, 0x7F, false, 8, 0x7F⟩

/-- How a magnitude between two representable ones goes: to nearest with ties to even, or by a 16-bit draw (R113, R116). -/
inductive Rnd where
  | nearest
  | draw (u : Nat)
deriving DecidableEq, Repr

/-- The integer that n / d rounds to. -/
def roundDiv (r : Rnd) (n d : Nat) : Nat :=
  let k := n / d
  let rest := n % d
  if rest = 0 then k else
  match r with
  | .nearest => if d < 2 * rest || (2 * rest = d && k % 2 = 1) then k + 1 else k
  | .draw u => if u < 65536 * rest / d then k + 1 else k

/-- ⌊log2 (n / d)⌋ for positive n and d. -/
def log2Quot (n d : Nat) : Int :=
  let g : Int := (Nat.log2 n : Int) - Nat.log2 d
  -- n / d lies in (2^(g − 1), 2^(g + 1))
  if 0 ≤ g then (if d * pow2 g.toNat ≤ n then g else g - 1)
  else (if d ≤ n * pow2 (-g).toNat then g else g - 1)

/-- The magnitude code that n · 2^e / d rounds to in a format of `mb` mantissa bits and smallest subnormal 2^emin, with no upper
limit: codes of consecutive magnitudes are consecutive. -/
def magCode (mb : Nat) (emin : Int) (r : Rnd) (n d : Nat) (e : Int) : Nat :=
  if n = 0 then 0 else
  let u := max (log2Quot n d + e - mb) emin
  let s := e - u
  let k := if 0 ≤ s then roundDiv r (n * pow2 s.toNat) d else roundDiv r n (d * pow2 (-s).toNat)
  (u - emin).toNat * pow2 mb + k

/-- The magnitude of a code: mantissa and exponent. -/
def codeMag (mb : Nat) (emin : Int) (c : Nat) : Nat × Int :=
  let ex := c / pow2 mb
  if ex = 0 then (c, emin) else (pow2 mb + c % pow2 mb, emin + (ex - 1 : Nat))

/-- A quotient n · 2^e / d with a sign, rounded once to a format (R106 to R110, R117). A draw leaves a magnitude above the
largest finite one to round-to-nearest. -/
def Fp.ofQuot (f : Fp) (r : Rnd) (neg : Bool) (n d : Nat) (e : Int) : Nat :=
  let c := magCode f.mb f.emin r n d e
  let largest := codeMag f.mb f.emin (f.top - 1)
  -- whether n · 2^e / d exceeds the largest finite magnitude
  let beyond : Bool := Dy.lt ⟨(largest.1 * d : Nat), largest.2⟩ ⟨(n : Int), e⟩
  let c1 := if beyond then magCode f.mb f.emin .nearest n d e else c
  (if f.top ≤ c1 then (if f.hasInf then f.top else f.top - 1) else c1) + (if neg then pow2 (f.width - 1) else 0)

/-- A value rounded once to a format; NaN is canonical (R88), and Inf to E4M3 gives NaN (R109). -/
def Fp.ofVal (f : Fp) (r : Rnd) : Val → Nat
  | .nan => f.nanCode
  | .inf neg => if f.hasInf then f.top + (if neg then pow2 (f.width - 1) else 0) else f.nanCode
  | .fin neg m e => f.ofQuot r neg m 1 e

/-- The value of a code (R86, R87). -/
def Fp.toVal (f : Fp) (code : Nat) : Val :=
  let neg := code.testBit (f.width - 1)
  let c := code % pow2 (f.width - 1)
  if f.hasInf && c = f.top then .inf neg
  else if f.top ≤ c then .nan
  else
    let m := codeMag f.mb f.emin c
    .fin neg m.1 m.2

/-- FP32 bits of a value. -/
def Val.bits (v : Val) : BitVec 32 := BitVec.ofNat 32 (fp32.ofVal .nearest v)

/-- The value of FP32 bits. -/
def ofBits (b : BitVec 32) : Val := fp32.toVal b.toNat

/-- One rounding to FP32, to nearest with ties to even. -/
def rnd (v : Val) : Val := ofBits v.bits

/-- A fused multiply-add with one rounding (R240). -/
def fma (a b c : Val) : Val := rnd ((a.mul b).add c)

/-- The quotient of two values, rounded once to FP32. -/
def divRnd (a b : Val) : Val :=
  match a, b with
  | .nan, _ => .nan
  | _, .nan => .nan
  | .inf _, .inf _ => .nan
  | .inf x, .fin y _ _ => .inf (x != y)
  | .fin x _ _, .inf y => .fin (x != y) 0 0
  | .fin x m e, .fin y n f =>
    if n = 0 then (if m = 0 then .nan else .inf (x != y))
    else ofBits (BitVec.ofNat 32 (fp32.ofQuot .nearest (x != y) m n (e - f)))

/-- The integer square root, by bits from 2^k down. -/
def isqrtFrom : Nat → Nat → Nat → Nat
  | 0, _, r => r
  | k + 1, n, r =>
    let t := r + pow2 k
    isqrtFrom k n (if t * t ≤ n then t else r)

/-- ⌊√n⌋. -/
def isqrt (n : Nat) : Nat := isqrtFrom (Nat.log2 n / 2 + 1) n 0

/-- The correctly rounded FP32 square root (R300): √(m · 2^e) is bracketed by an integer root with enough bits and a sticky
bit. -/
def sqrtRnd : Val → Val
  | .nan => .nan
  | .inf neg => if neg then .nan else .inf false
  | .fin neg m e =>
    if m = 0 then .fin neg 0 0
    else if neg then .nan
    else
      let sh := 64 + (if e % 2 = 0 then 0 else 1)
      let n := m * pow2 sh
      let r := isqrt n
      rnd (.fin false (2 * r + (if r * r = n then 0 else 1)) ((e - sh) / 2 - 1))

/-! ### Element formats -/

/-- The element formats by code (R131). -/
def fmtFp4 : Nat := 0
def fmtInt4 : Nat := 1
def fmtTernary : Nat := 2
def fmtE4m3 : Nat := 3
def fmtE5m2 : Nat := 4
def fmtBf16 : Nat := 5
def fmtFp32 : Nat := 6

/-- A format with shared block scales. -/
def isBlock (f : Nat) : Bool := decide (f ≤ 2)

/-- The floating format of a code that has no block scale. -/
def fpOf (f : Nat) : Fp := if f = 3 then e4m3 else if f = 4 then e5m2 else if f = 5 then bf16 else fp32

/-- The value of an FP4 element (R77 to R79). -/
def fp4Val (c : Nat) : Val :=
  let m := codeMag 1 (-1) (c % 8)
  .fin (c.testBit 3) m.1 m.2

/-- The value of an INT4 element (R81). -/
def int4Val (c : Nat) : Val := .ofDy ⟨toInt 4 c, 0⟩

/-- The value of a ternary element; the reserved code reads as zero (R83, R84). -/
def ternVal (c : Nat) : Val := if c % 4 = 1 then .fin false 1 0 else if c % 4 = 3 then .fin true 1 0 else .zero

/-- The value of an E4M3 block scale, whose sign bit is ignored (R30, R35), by the row unit too (R245; log entry 57). -/
def scaleVal (c : Nat) : Val := e4m3.toVal (c % 128)

/-! ### Block quantisation (R112 to R114) -/

/-- The counts of one converted block (R114, R120). -/
structure Quant where
  vanished : Nat := 0
  saturated : Nat := 0
  nans : Nat := 0
deriving DecidableEq, Repr

def Quant.add (a b : Quant) : Quant := ⟨a.vanished + b.vanished, a.saturated + b.saturated, a.nans + b.nans⟩

/-- The code of a quantised element of magnitude n · 2^e / d: rounded (R113), then clamped. -/
def elemCode (int4 : Bool) (r : Rnd) (neg : Bool) (n d : Nat) (e : Int) : Nat :=
  -- whether the magnitude exceeds the largest element
  let beyond : Bool := Dy.lt ⟨((if int4 then 7 else 6) * d : Nat), 0⟩ ⟨(n : Int), e⟩
  let r1 := if beyond then Rnd.nearest else r
  if int4 then
    let k := min 7 (if 0 ≤ e then roundDiv r1 (n * pow2 e.toNat) d else roundDiv r1 n (d * pow2 (-e).toNat))
    if neg then (16 - k) % 16 else k
  else
    let c := min 7 (magCode 1 (-1) r1 n d e)
    if neg && c ≠ 0 then c + 8 else c

/-- The smallest E4M3 code whose value is not below n · 2^e / d. -/
def scaleUp (n d : Nat) (e : Int) : Nat :=
  -- a draw that no fraction reaches rounds down
  let c := magCode 3 (-9) (.draw 65536) n d e
  let v := codeMag 3 (-9) c
  if Dy.lt ⟨(v.1 * d : Nat), v.2⟩ ⟨(n : Int), e⟩ then c + 1 else c

/-- Quantise one block: the scale code, the element codes and the counts (R112). The values are already divided by the outer
scale; `draws` gives the rounding of each element. -/
def quantBlock (int4 : Bool) (y : List Val) (draws : List Rnd) : Nat × List Nat × Quant :=
  let zeros := y.map (fun _ => 0)
  if y.any Val.special then (0x7F, zeros, { nans := 1 })
  else
    let q : Nat := if int4 then 7 else 6
    let amax := y.foldl (fun (a : Val) v => if a.lt v.abs then v.abs else a) .zero
    match amax with
    | .fin _ m e =>
      if m = 0 then (0, zeros, {})
      else
        let conv (scale : Nat) : List Nat :=
          let sv := codeMag 3 (-9) scale
          (y.zip draws).map (fun p => match p.1 with
            | .fin neg n f => elemCode int4 p.2 neg n sv.1 (f - sv.2)
            | _ => 0)
        -- t = amax / qmax against 448 and 2^-9
        if Dy.lt ⟨448 * (q : Int), 0⟩ ⟨(m : Int), e⟩ then (0x7E, conv 0x7E, { saturated := 1 })
        else if Dy.lt ⟨(m : Int), e⟩ ⟨(q : Int), -9⟩ then (0, zeros, { vanished := 1 })
        else
          let sc := scaleUp m q e
          (sc, conv sc, {})
    | _ => (0x7F, zeros, { nans := 1 })

/-- The stochastic draw (R118). -/
def srDraw (seed p i j : Nat) : Nat :=
  let w := 2 ^ 32
  let h0 := (seed ^^^ (p <<< 10) ^^^ (i <<< 5) ^^^ j) % w
  let h1 := (h0 ^^^ (h0 >>> 16)) * 0x7FEB352D % w
  let h2 := (h1 ^^^ (h1 >>> 15)) * 0x846CA68B % w
  (h2 ^^^ (h2 >>> 16)) % 65536

/-! ### Special functions (R275 to R278) -/

/-- Bits after the point of the fixed-point evaluations. -/
def fxBits : Nat := 192

/-- 2·atanh(n / d) in fixed point, by its series. -/
def atanh2 (n d : Nat) : Int :=
  let z := n * pow2 fxBits / d
  let step (acc : Nat × Nat) (k : Nat) : Nat × Nat :=
    let p := acc.2 * n * n / (d * d)
    (acc.1 + p / (2 * k + 3), p)
  let r := (List.range 60).foldl step (z, z)
  (2 * r.1 : Nat)

/-- ln 2 in fixed point. -/
def fxLn2 : Int := atanh2 1 3

/-- A finite value in fixed point, exact when its last bit is no smaller than the last bit of the fixed-point numbers. -/
def toFx (d : Dy) : Int :=
  let s := d.e + (fxBits : Int)
  if 0 ≤ s then d.m * (pow2 s.toNat : Nat) else d.m / (pow2 (-s).toNat : Nat)

/-- An approximation of exp, far closer than the bounds of R276. -/
def approxExp (d : Dy) : Dy :=
  let x := toFx d
  let k := x / fxLn2
  let r := (x % fxLn2).toNat
  let step (acc : Nat × Nat) (i : Nat) : Nat × Nat :=
    let t := acc.2 * r / pow2 fxBits / (i + 1)
    (acc.1 + t, t)
  let s := (List.range 50).foldl step (pow2 fxBits, pow2 fxBits)
  ⟨(s.1 : Int), k - (fxBits : Int)⟩

/-- An approximation of the logarithm of m · 2^e, far closer than the bounds of R276. -/
def approxLog (m : Nat) (e : Int) : Dy :=
  let g := Nat.log2 m
  let p := pow2 g
  ⟨(e + (g : Int)) * fxLn2 + atanh2 (m - p) (m + p), -(fxBits : Int)⟩

/-- The exponent of the FP32 spacing at a magnitude. -/
def ulp32 (m : Nat) (e : Int) : Int := if m = 0 then -149 else max ((Nat.log2 m : Int) + e - 23) (-149)

/-- The distance of two exact numbers is at most a bound. -/
def Dy.near (a b bound : Dy) : Bool :=
  let d := a.add ⟨-b.m, b.e⟩
  !bound.lt ⟨(d.m.natAbs : Int), d.e⟩

/-- A mantissa is a power of two. -/
def isPow2 (m : Nat) : Bool := m = pow2 (Nat.log2 m)

/-- The four functions of the function stage, by code. -/
def fnExp : Nat := 0
def fnLog : Nat := 1
def fnRecip : Nat := 2
def fnRsqrt : Nat := 3

/-- An approximation of a function of a finite argument where R276 governs it, far closer than the bounds. -/
def stageExact (fn : Nat) (x : Val) : Dy :=
  match x with
  | .fin neg m e =>
    if fn = fnExp then approxExp (Val.dy (.fin neg m e))
    else if fn = fnLog then approxLog m e
    else if fn = fnRecip then ⟨(if neg then -1 else 1) * ((pow2 256 / m : Nat) : Int), -256 - e⟩
    else
      let m2 := if e % 2 = 0 then m else 2 * m
      let e2 := if e % 2 = 0 then e else e - 1
      ⟨(isqrt (pow2 256 / m2) : Nat), -128 - e2 / 2⟩
  | _ => ⟨0, 0⟩

/-- The result that a function fixes apart from its polynomials: the special values of R278 and the exact results of R277; `none` where
R276 governs the argument. The decimal limits of R278 are compared exactly. -/
def stageFixed (fn : Nat) (x : Val) : Option Val :=
  match x with
  | .nan => some .nan
  | .inf neg =>
    some (if fn = fnExp then (if neg then .zero else .inf false)
      else if fn = fnLog then (if neg then .nan else .inf false)
      else if fn = fnRecip then .fin neg 0 0
      else (if neg then .nan else .zero))
  | .fin neg m e =>
    let d := Val.dy (.fin neg m e)
    if fn = fnExp then
      if m = 0 then some (.ofNat 1)
      else if Dy.lt ⟨887228, 0⟩ (Dy.mul ⟨10000, 0⟩ d) then some (.inf false)
      else if Dy.lt (Dy.mul ⟨10000, 0⟩ d) ⟨-1039721, 0⟩ then some .zero
      else if (Nat.log2 m : Int) + e < -126 then some (.ofNat 1)
      else none
    else if fn = fnLog then
      if m = 0 then some (.inf true)
      else if neg then some .nan
      else if !d.lt ⟨1, 0⟩ && !Dy.lt ⟨1, 0⟩ d then some .zero
      else none
    else if fn = fnRecip then
      if m = 0 then some (.inf neg)
      -- 1 / |x| exceeds the largest finite value: 1 > |x| · (2^24 − 1) · 2^104
      else if Dy.lt ⟨(m * (pow2 24 - 1) : Nat), e + 104⟩ ⟨1, 0⟩ then some (.inf neg)
      else if isPow2 m && decide (-126 ≤ -(e + (Nat.log2 m : Int))) then some (.fin neg 1 (-(e + (Nat.log2 m : Int))))
      else none
    else
      if m = 0 then some (.inf neg)
      else if neg then some .nan
      else if isPow2 m && (e + (Nat.log2 m : Int)) % 2 = 0 then some (.two (-((e + (Nat.log2 m : Int)) / 2)))
      else none

/-- The range reduction of R275: the reduction step (k of exp, e of log and recip, q of rsqrt) and the segment among the polynomials
of the function. On which side of a seam of exp an argument lies follows from the cut of a 48-bit product, a free value (log entry 11). -/
def stageSeam (fn : Nat) (x : Val) : Int × Nat :=
  match x with
  | .fin _ m e =>
    let g := (Nat.log2 m : Int) + e
    let top := m * pow2 5 / pow2 (Nat.log2 m) - 32
    if fn = fnExp then
      let t := Config.expProduct x.bits
      (t / (pow2 40 : Nat), (t % (pow2 40 : Nat)).toNat / pow2 35)
    else if fn = fnRsqrt then (g / 2, 32 * (g % 2).toNat + top)
    else (g, top)
  | _ => (0, 0)

/-- The reduced argument of R275: f of exp, and m of the others as FP32 bits. -/
def stageReduced (fn : Nat) (x : Val) : Nat :=
  match x with
  | .fin _ m e =>
    let g := (Nat.log2 m : Int) + e
    if fn = fnExp then (Config.expProduct x.bits % (pow2 40 : Nat)).toNat
    else if fn = fnRsqrt then (Val.fin false m (e - 2 * (g / 2))).bits.toNat
    else (Val.fin false m (e - g)).bits.toNat
  | _ => 0

/-- What the polynomial of a segment gives after its reduction step is undone (R275): 2^f · 2^k, e · ln 2 + log m, 2^-e / m and 2^-q / √m, each
rounded once; the polynomial is the free value Config.polynomial (log entry 11). -/
def stagePoly (fn : Nat) (x : Val) : Val :=
  let c := stageSeam fn x
  let v := ofBits (Config.polynomial fn c.2 (stageReduced fn x))
  if fn = fnExp then rnd (v.mul (.two c.1))
  else if fn = fnLog then rnd ((Val.ofDy ⟨c.1 * fxLn2, -(fxBits : Int)⟩).add v)
  else
    let y := rnd (v.mul (.two (-c.1)))
    if x.sign then y.neg else y

/-- The product of exp is x · log2(e) to the precision of an FP32 value and of its last bit. -/
def productNear (x : Val) : Bool :=
  let exact := toFx x.dy * (pow2 fxBits : Nat) / fxLn2
  let t := Config.expProduct x.bits * (pow2 (fxBits - 40) : Nat)
  decide ((t - exact).natAbs ≤ exact.natAbs / pow2 23 + pow2 (fxBits - 40))

/-- A result meets the bound of R276. -/
def stageNear (fn : Nat) (x v : Val) : Bool :=
  match v with
  | .fin neg m e =>
    let d := Val.dy (.fin neg m e)
    let near (halves : Int) : Bool := Dy.near d (stageExact fn x) ⟨halves, ulp32 m e - 1⟩
    if fn = fnExp then near 4
    else if fn = fnLog then
      (if !x.lt (.two (-1)) && !(Val.two 1).lt x then Dy.near d (stageExact fn x) ⟨1, -22⟩ else near 4)
    else if fn = fnRecip then near 2
    else near 3
  | _ => false

/-- Two results of arguments x1 < x2 stand in the order of R279. -/
def stageOrdered (fn : Nat) (x1 x2 y1 y2 : Val) : Bool :=
  if fn = fnExp || fn = fnLog then !y2.lt y1
  else if fn = fnRecip then x1.sign != x2.sign || !y1.lt y2
  else !(Val.zero.lt x1) || !y1.lt y2

/-- Equal results on two sides of a seam come from exact results within 2 ulp (R280). -/
def stageFlat (fn : Nat) (x1 x2 y1 y2 : Val) : Bool :=
  y1 ≠ y2 || stageSeam fn x1 = stageSeam fn x2 ||
    (match y1 with
      | .fin _ m e => Dy.near (stageExact fn x1) (stageExact fn x2) ⟨2, ulp32 m e⟩
      | _ => true)

/-- A test of the words that the first n numbers give: over 2^32 numbers every word once, because the factor is odd, and in an order that
reaches every exponent early. -/
def allWords (f : BitVec 32 → Bool) : Nat → Bool
  | 0 => true
  | n + 1 => f (BitVec.ofNat 32 n * 0x9E3779B1) && allWords f n

/-- What the function stage gives for an argument with its polynomials. -/
def stageValue (fn : Nat) (x : Val) : Val := (stageFixed fn x).getD (stagePoly fn x)

/-- The polynomials of a function give a function stage that keeps R276 everywhere, and R279, R280 and R282 over every pair of arguments,
whatever seams lie between them; the products of exp keep the order of the arguments. -/
def stageOk (fn : Nat) : Bool :=
  let free (x : Val) : Bool := (stageFixed fn x).isNone
  allWords (fun b => !free (ofBits b) || (stageNear fn (ofBits b) (stageValue fn (ofBits b)) && (fn ≠ fnExp || productNear (ofBits b)))) (2 ^ 32)
    && allWords (fun b1 => allWords (fun b2 =>
      let x1 := ofBits b1
      let x2 := ofBits b2
      let y1 := stageValue fn x1
      let y2 := stageValue fn x2
      x1.special || x2.special || !x1.lt x2
        || (stageOrdered fn x1 x2 y1 y2 && (fn ≠ fnExp || !free x1 || !free x2 || decide (Config.expProduct b1 ≤ Config.expProduct b2)) && (!free x1 || !free x2 || stageFlat fn x1 x2 y1 y2))) (2 ^ 32)) (2 ^ 32)

/-- A function of the function stage (R275 to R282): its fixed results; else what its polynomials give, where they keep the rules, and the
correctly rounded result where they do not (log entry 11). -/
def stageFn (fn : Nat) (x : Val) : Val :=
  match stageFixed fn x with
  | some y => y
  | none => if stageOk fn then stagePoly fn x else rnd (.ofDy (stageExact fn x))

def fexp (x : Val) : Val := stageFn fnExp x
def flog (x : Val) : Val := stageFn fnLog x
def frecip (x : Val) : Val := stageFn fnRecip x
def frsqrt (x : Val) : Val := stageFn fnRsqrt x

/-! ### Composed functions (R284) -/

/-- SILU and the last three lines of GELU_TANH: x · recip(1 + e), in their order of rounding. -/
def xRecip1p (x e : Val) : Val := rnd (x.mul (frecip (rnd ((Val.ofNat 1).add e))))

def silu (x : Val) : Val :=
  match x with
  | .inf neg => if neg then .fin true 0 0 else .inf false
  | _ => xRecip1p x (fexp x.neg)

def geluTanh (x : Val) : Val :=
  match x with
  | .inf neg => if neg then .fin true 0 0 else .inf false
  | _ =>
    let x2 := rnd (x.mul x)
    let p := fma (ofBits 0x3D122279) x2 (ofBits 0x3F4C422A)
    let u := rnd (x.mul p)
    xRecip1p x (fexp (rnd (u.mul (.fin true 2 0))))

def softplus (x : Val) : Val :=
  rnd ((x.max .zero).add (flog (rnd ((Val.ofNat 1).add (fexp x.abs.neg)))))

end Sys2Proof.Machine
end

