-- ==== Sys2Proof/Machine/Operands.lean ====
section
/-!
DEFINITION. The operand forms of pours: descriptors, T32 tiles and their bytes, haze tiles, tile shapes and passes, the checked
stores of an array, and the places of tiles in memory and in buffers (R42 to R54, R76 to R150, R594, R606 to R611).
-/
namespace Sys2Proof.Machine

/-! ### Descriptors (R130 to R138) -/

/-- A descriptor of a pour record. -/
structure Desc where
  addr : Nat
  device : Nat
  remote : Bool
  src : Nat
  hint : Nat
  outer : Nat
  stride : Nat
  fmt : Nat
  block16 : Bool
  colBlocks : Bool
  stoch : Bool
  haze : Nat
  bufSel : Nat
  bufOff : Nat
  seed : Nat
deriving DecidableEq, Repr

/-- Source and destination kinds (R132). -/
def srcMemory : Nat := 0
def srcBuffer : Nat := 1
def srcBank : Nat := 2
def srcMesh : Nat := 3

/-- The bits of the record at which the descriptors begin (R124). -/
def bitA : Nat := 192
def bitB : Nat := 384
def bitOut : Nat := 576

/-- The descriptor at a bit of the record. -/
def Pour.desc (p : Pour) (b : Nat) : Desc :=
  { addr := p.f b 44, device := p.f (b + 44) 12, remote := p.f (b + 56) 1 = 1, src := p.f (b + 57) 2, hint := p.f (b + 59) 2,
    outer := p.f (b + 64) 32, stride := p.f (b + 96) 32, fmt := p.f (b + 128) 4, block16 := p.f (b + 132) 1 = 1,
    colBlocks := p.f (b + 133) 1 = 1, stoch := p.f (b + 134) 1 = 1, haze := p.f (b + 136) 2, bufSel := p.f (b + 138) 2,
    bufOff := p.f (b + 140) 18, seed := p.f (b + 160) 32 }

def Pour.dA (p : Pour) : Desc := p.desc bitA
def Pour.dB (p : Pour) : Desc := p.desc bitB
def Pour.dOut (p : Pour) : Desc := p.desc bitOut

/-- Mesh coordinates in an address field (R134): first and last column and row. -/
def meshX0 (a : Nat) : Nat := bits a 0 5
def meshY0 (a : Nat) : Nat := bits a 5 4
def meshX1 (a : Nat) : Nat := bits a 9 5
def meshY1 (a : Nat) : Nat := bits a 14 4

/-- The array that mesh coordinates name first. -/
def meshFirst (a : Nat) : Nat := arrayIndex (meshX0 a) (meshY0 a)

/-- The two ends of a segment share a grid row or column (R64, R136). -/
def meshLegal (a : Nat) : Bool := meshY0 a = meshY1 a || meshX0 a = meshX1 a

/-- The arrays of a segment of a grid row or column, from its first end to its last. -/
def meshSegment (a : Nat) : List Nat :=
  let xs := (List.range (max (meshX0 a) (meshX1 a) + 1 - min (meshX0 a) (meshX1 a))).map (· + min (meshX0 a) (meshX1 a))
  let ys := (List.range (max (meshY0 a) (meshY1 a) + 1 - min (meshY0 a) (meshY1 a))).map (· + min (meshY0 a) (meshY1 a))
  (ys.map (fun y => xs.map (fun x => arrayIndex x y))).flatten

/-- The routers of a route: x first, then y, both ends included (R62, R72). -/
def meshRoute (a b : Nat) : List Nat :=
  let xs := (List.range (max (arrayX a) (arrayX b) + 1 - min (arrayX a) (arrayX b))).map (· + min (arrayX a) (arrayX b))
  let ys := (List.range (max (arrayY a) (arrayY b) + 1 - min (arrayY a) (arrayY b))).map (· + min (arrayY a) (arrayY b))
  (xs.map (fun x => arrayIndex x (arrayY a)) ++ ys.map (fun y => arrayIndex (arrayX b) y)).eraseDups

/-- The INIT word (R139). -/
def Pour.biasAddr (p : Pour) : Nat := p.f 768 44
def Pour.initKind (p : Pour) : Nat := p.f 812 2
def Pour.biasSrc (p : Pour) : Nat := p.f 814 2
def Pour.biasOff (p : Pour) : Nat := 64 * p.f 816 12

/-! ### Shapes and passes (R51, R52, R127) -/

/-- M and N of a tile shape. -/
def shapeOf (c : Nat) : Option (Nat × Nat) :=
  match c with
  | 0 => some (32, 32)
  | 1 => some (32, 64)
  | 2 => some (32, 128)
  | 3 => some (64, 32)
  | 4 => some (128, 32)
  | 5 => some (64, 64)
  | _ => none

/-- A pass: its number, its first row and column, and whether it uses the other bank. -/
structure Pass where
  p : Nat
  row0 : Nat
  col0 : Nat
  other : Bool
deriving DecidableEq, Repr

/-- The passes of a tile shape, in order (R52). -/
def passesOf (c : Nat) : List Pass :=
  match c with
  | 0 => [⟨0, 0, 0, false⟩]
  | 1 => [⟨0, 0, 0, false⟩, ⟨1, 0, 32, true⟩]
  | 2 => [⟨0, 0, 0, false⟩, ⟨1, 0, 32, true⟩, ⟨2, 0, 64, false⟩, ⟨3, 0, 96, true⟩]
  | 3 => [⟨0, 0, 0, false⟩, ⟨1, 32, 0, true⟩]
  | 4 => [⟨0, 0, 0, false⟩, ⟨1, 32, 0, true⟩, ⟨2, 64, 0, false⟩, ⟨3, 96, 0, true⟩]
  | 5 => [⟨0, 0, 0, false⟩, ⟨1, 0, 32, true⟩, ⟨2, 32, 0, false⟩, ⟨3, 32, 32, true⟩]
  | _ => []

/-- The passes of a pour that run: those with a row below M and a column below N (R158). -/
def Pour.passes (p : Pour) : List Pass :=
  (passesOf p.tileShape).filter (fun q => decide (q.row0 < p.m) && decide (q.col0 < p.n))

/-- The bank of a pass (R52). -/
def Pour.passBank (p : Pour) (q : Pass) : Nat := if q.other then 1 - p.bank else p.bank

/-! ### T32 tiles (R101) -/

/-- Bytes of a T32 tile. -/
def tileBytes (fmt : Nat) (block16 : Bool) : Nat :=
  match fmt with
  | 0 => if block16 then 576 else 544
  | 1 => if block16 then 576 else 544
  | 2 => if block16 then 320 else 288
  | 3 => 1024
  | 4 => 1024
  | 5 => 2048
  | _ => 4096

/-- Tile size of a descriptor in a buffer. -/
def Desc.tb (d : Desc) : Nat := tileBytes d.fmt d.block16

/-- Tile size of a descriptor in memory, haze included (R150). -/
def Desc.mb (d : Desc) : Nat := if d.haze = 1 then 1024 else if d.haze = 2 then 512 else d.tb

/-- Bits of an element. -/
def elemBits (fmt : Nat) : Nat :=
  match fmt with
  | 0 => 4
  | 1 => 4
  | 2 => 2
  | 3 => 8
  | 4 => 8
  | 5 => 16
  | _ => 32

/-- The element code of line r, position k in a tile given as one number. -/
def tileElem (fmt x r k : Nat) : Nat := bits x ((32 * r + k) * elemBits fmt) (elemBits fmt)

/-- The scale code of the block that holds position k of line r. -/
def tileScale (fmt : Nat) (block16 : Bool) (x r k : Nat) : Nat :=
  bits x (1024 * elemBits fmt + 8 * (if block16 then 2 * r + k / 16 else r)) 8

/-- The value of an element code, block and outer scale apart. -/
def elemVal (fmt c : Nat) : Val :=
  if fmt = 0 then fp4Val c else if fmt = 1 then int4Val c else if fmt = 2 then ternVal c else (fpOf fmt).toVal c

/-- An element as the row unit reads it (R245): exactly, or a block element as one rounding of element × block scale × outer
scale. -/
def tileVal (d : Desc) (x r k : Nat) : Val :=
  let v := elemVal d.fmt (tileElem d.fmt x r k)
  if isBlock d.fmt then
    rnd ((v.mul (scaleVal (tileScale d.fmt d.block16 x r k))).mul (ofBits (BitVec.ofNat 32 d.outer)))
  else v

/-- The codes of elements joined to a number, the first lowest. -/
def packCodes (w : Nat) (l : List Nat) : Nat := l.foldr (fun c acc => c % 2 ^ w + acc * 2 ^ w) 0

/-- The bytes of a tile from its lines of element codes and of scale codes. -/
def packTile (fmt : Nat) (block16 : Bool) (lines : List (List Nat)) (scales : List (List Nat)) : List Byte :=
  let body := leBytes (packCodes (elemBits fmt) lines.flatten) (128 * elemBits fmt)
  if isBlock fmt then body ++ leBytes (packCodes 8 scales.flatten) (if block16 then 64 else 32) else body

/-! ### Haze tiles (R606 to R611) -/

/-- The exponent ⌊log2 |x|⌋ of a nonzero finite value. -/
def Val.ex : Val → Int
  | .fin _ m e => (Nat.log2 m : Int) + e
  | _ => 0

/-- Encode 64 values as one haze tile with m magnitude bits: the tile as a number (R607, R609). -/
def hazeEncode (m : Nat) (xs : List Val) : Nat :=
  if xs.any Val.special then 0xFF
  else
    let nz := xs.filter (fun v => !v.isZero)
    match nz with
    | [] => 0
    | v0 :: _ =>
      let emax := nz.foldl (fun (a : Int) v => max a v.ex) v0.ex
      let E : Int := min 254 (max 1 (emax + 127))
      let sub (s : Nat) : List Val := (xs.drop (8 * s)).take 8
      let shiftOf (s : Nat) : Nat :=
        match (sub s).filter (fun v => !v.isZero) with
        | [] => 7
        | w :: r => min 7 ((E - 127) - r.foldl (fun (a : Int) v => max a v.ex) w.ex).toNat
      let mag (s : Nat) (v : Val) : Nat :=
        match v with
        | .fin _ n e =>
          let q : Int := E - 127 - Int.ofNat (shiftOf s) + 1 - Int.ofNat m
          min (if 0 ≤ e - q then roundDiv .nearest (n * pow2 (e - q).toNat) 1 else roundDiv .nearest n (pow2 (q - e).toNat))
            (pow2 m - 1)
        | _ => 0
      let code (s : Nat) (v : Val) : Nat := mag s v + (if mag s v ≠ 0 && v.sign then pow2 m else 0)
      let subs := List.range 8
      E.toNat + (packCodes 3 (subs.map shiftOf) <<< 8)
        + (packCodes (m + 1) ((subs.map (fun s => (sub s).map (code s))).flatten) <<< 32)

/-- Decode a haze tile given as a number: 64 values (R610). -/
def hazeDecode (m x : Nat) : List Val :=
  let E := bits x 0 8
  (List.range 64).map (fun v =>
    if E = 0 then .zero
    else if E = 0xFF then .nan
    else
      let mag := bits x (32 + (m + 1) * v) m
      .fin (x.testBit (32 + (m + 1) * v + m)) mag ((E : Int) - 127 - bits x (8 + 3 * (v / 8)) 3 + 1 - m))

/-- Magnitude bits of a haze ratio: 6 at 2:1, 2 at 4:1. -/
def hazeMag (haze : Nat) : Nat := if haze = 1 then 6 else 2

/-- Bytes of one haze tile. -/
def hazeTile (haze : Nat) : Nat := if haze = 1 then 64 else 32

/-- The stored bytes of a plain tile: as it is, or encoded (R611). -/
def toStored (d : Desc) (plain : List Byte) : List Byte :=
  if d.haze = 0 then plain else
  let x := leNat plain
  ((List.range 16).map (fun h =>
    leBytes (hazeEncode (hazeMag d.haze)
      ((List.range 64).map (fun v => elemVal d.fmt (tileElem d.fmt x (2 * h + v / 32) (v % 32))))) (hazeTile d.haze))).flatten

/-- The plain bytes of a stored tile: decoded, then converted to the format (R611). -/
def toPlain (d : Desc) (stored : List Byte) : List Byte :=
  if d.haze = 0 then stored else
  packTile d.fmt d.block16
    ((List.range 16).map (fun h =>
      let v := hazeDecode (hazeMag d.haze) (leNat ((stored.drop (hazeTile d.haze * h)).take (hazeTile d.haze)))
      v.map ((fpOf d.fmt).ofVal .nearest))) []

/-- The words of a plain tile that a failed word of its stored form spoils: the word itself, or the lines of its haze tile. -/
def spoiledWords (d : Desc) (w : Nat) : List Nat :=
  if d.haze = 0 then [w] else
  let h := 8 * w / hazeTile d.haze
  let n := d.tb / 128
  (List.range n).map (· + h * n)

/-! ### The checked stores of an array (R42 to R48) -/

/-- A checked store of an array: 0 A buffer, 1 B buffer, 2 scratch, 3 line buffer. -/
def ArrayRt.store (r : ArrayRt) : Nat → Store
  | 0 => r.bufA
  | 1 => r.bufB
  | 2 => r.scratch
  | _ => r.line

/-- An array with a checked store replaced. -/
def ArrayRt.setStore (r : ArrayRt) (i : Nat) (st : Store) : ArrayRt :=
  match i with
  | 0 => { r with bufA := st }
  | 1 => { r with bufB := st }
  | 2 => { r with scratch := st }
  | _ => { r with line := st }

/-- Bytes of a store (R42, R239, R372). -/
def storeSize : Nat → Nat
  | 2 => 65536
  | 3 => 131072
  | _ => 262144

/-- The state with a store of an array changed. -/
def State.onStore (s : State) (a sel : Nat) (f : Store → Store) : State :=
  s.onArray a (fun r => r.setStore sel (f (r.store sel)))

/-- The effect of one word's outcome in an array store: write-back, a failed word that stays failed, counters, error log, fence (R629, R635, R67,
R659, R660). -/
def State.noteArrayWord (s : State) (a sel : Nat) (who : Who) (mask w : Nat) (r : Rd1) : State :=
  let addr := (a <<< 18) + 8 * w
  match r with
  | .ok _ false => s
  | .ok _ true => (s.onStore a sel (fun st => st.scrubWord w)).countCe .eccCeArray 0
  | .ue => (((s.onStore a sel (fun st => st.stuckWord w)).count .eccUeArray 0).logError addr (stBufA + sel) 0 who mask).arrayUe a
  | .poison => (s.count .poisonReads 0).logError addr (stBufA + sel) 1 who mask

/-- Read whole words of an array store, in requests with piece masks, by their place in the store (R641, R645; log entry 30). -/
def State.readStoreWords (s : State) (a sel : Nat) (who : Who) (first n : Nat) : RdRes × State :=
  (requests (n + 1) first n).foldl
    (fun (acc : RdRes × State) q =>
      let rs := (List.range q.2).map (fun i => ((acc.2.array a).store sel).readWord (q.1 + i) acc.2.fresh)
      let failed := rdFailed 0 rs
      let mask := pieceMask q.1 failed
      let s1 := (List.range q.2).foldl
        (fun s i => s.noteArrayWord a sel who mask (q.1 + i) ((rs[i]?).getD .ue)) acc.2
      (acc.1.append { bytes := rdBytes rs, failed := failed, code := failCode failed, detail := mask }, s1))
    ({ bytes := [] }, s)

/-- Read bytes of an array store. -/
def State.readStore (s : State) (a sel : Nat) (who : Who) (off len : Nat) : RdRes × State :=
  if len = 0 then ({ bytes := [] }, s) else
  let w0 := off / 8
  let r := s.readStoreWords a sel who w0 ((off + len - 1) / 8 + 1 - w0)
  ({ r.1 with bytes := (r.1.bytes.drop (off - 8 * w0)).take len }, r.2)

/-- Write whole words of an array store; the words listed (by offset) are written poisoned. -/
def Store.writeWords (st : Store) (off : Nat) (data : List Byte) (bad : List Nat) : Store :=
  let n := data.length / 8
  let ws := chunks 8 n data
  (List.range n).foldl
    (fun (m : Store) i =>
      if i ∈ bad then m.poisonWord (off / 8 + i)
      else m.writeWord (off / 8 + i) (BitVec.ofNat 64 (leNat ((ws[i]?).getD [])))) st

def State.writeStore (s : State) (a sel off : Nat) (data : List Byte) (bad : List Nat) : State :=
  s.onStore a sel (fun st => st.writeWords off data bad)

/-- Merge bytes into an array store that need not cover whole words, as R634 has it of memory: the last statistic of an odd M shares its word with its
neighbour, and a word that does not read clean is written poisoned (R256; log entry 57). -/
def State.mergeStore (s : State) (f a sel off : Nat) (data : List Byte) : State :=
  if data.isEmpty then s else
  let w0 := off / 8
  let n := (off + data.length - 1) / 8 + 1 - w0
  (List.range n).foldl
    (fun (s : State) i =>
      let w := w0 + i
      let byteAt : Nat → Option Byte := fun x => if off ≤ x then data[x - off]? else none
      let whole := (List.range 8).all (fun j => (byteAt (8 * w + j)).isSome)
      let r := if whole then Rd1.ok 0 false else ((s.array a).store sel).readWord w s.fresh
      let join (old : Nat) : BitVec 64 :=
        BitVec.ofNat 64 (leNat ((List.range 8).map (fun j => (byteAt (8 * w + j)).getD (BitVec.ofNat 8 (old >>> (8 * j))))))
      match r with
      | .ok v c => (s.noteArrayWord a sel { rq := rqPour, flask := f } 0 w (.ok v c)).onStore a sel (fun st => st.writeWord w (join v.toNat))
      | .ue =>
        let s1 := ((s.count .eccUeArray 0).logError ((a <<< 18) + 8 * w) (stBufA + sel) 3 { rq := rqPour, flask := f } 0).arrayUe a
        s1.onStore a sel (fun st => st.poisonWord w)
      | .poison =>
        let s1 := (s.count .poisonReads 0).logError ((a <<< 18) + 8 * w) (stBufA + sel) 3 { rq := rqPour, flask := f } 0
        s1.onStore a sel (fun st => st.poisonWord w)) s

/-! ### Places of tiles -/

/-- The address of tile c of tile row r in memory, with the packed stride of a number of tiles (R147, R149). -/
def Desc.tileAddr (d : Desc) (packed r c : Nat) : Nat :=
  d.addr + r * (if d.stride = 0 then packed * d.mb else d.stride) + c * d.mb

/-- The offset of tile c of tile row r in a buffer region whose rows hold a number of tiles (R53, R594). -/
def Desc.tileOff (d : Desc) (packed r c : Nat) : Nat := d.bufOff + (r * packed + c) * d.tb

/-- The memory range of tiles below (rows, cols): first address and length, empty when there is none (R171). -/
def Desc.span (d : Desc) (packed rows cols : Nat) : Nat × Nat :=
  if rows = 0 || cols = 0 then (d.addr, 0)
  else (d.addr, (rows - 1) * (if d.stride = 0 then packed * d.mb else d.stride) + cols * d.mb)

/-- One part of a load: what to read in memory, as one tile row, and where each of its tiles goes in a store. `haze` tiles are
decoded on the way. -/
structure Load where
  span : Span
  sel : Nat
  desc : Option Desc
  off : Nat
  tiles : Nat
deriving DecidableEq, Repr

/-- The loads of the tiles below (rows, cols) of a MEMORY descriptor into a store. -/
def State.tileLoads (s : State) (f : Nat) (d : Desc) (sel packed rows cols : Nat) : List Load :=
  if d.src ≠ srcMemory || cols = 0 then [] else
  (List.range rows).map (fun r =>
    let a := d.tileAddr packed r 0
    { span := { hint := s.hintOf f a (cols * d.mb) d.hint .read, key := a, len := cols * d.mb },
      sel := sel, desc := some d, off := d.tileOff packed r 0, tiles := cols })

/-- The words of the data read from a key that a failed word of memory spoils. -/
def spoiltData (key len : Nat) (e : Nat × Bool) : List Nat :=
  let first := 8 * e.1 - key % 8
  let last := min (8 * (e.1 + 1) - key % 8) len
  if last = 0 then [] else (List.range ((last - 1) / 8 + 1 - first / 8)).map (· + first / 8)

/-- Write bytes into an array store; a last word that they cover in part keeps its other bytes. -/
def State.landBytes (s : State) (f a sel off : Nat) (data : List Byte) (bad : List Nat) : State :=
  let whole := data.length / 8
  let s1 := s.writeStore a sel off (data.take (8 * whole)) bad
  if data.length % 8 = 0 then s1 else
  let s2 := s1.mergeStore f a sel (off + 8 * whole) (data.drop (8 * whole))
  if whole ∈ bad then s2.onStore a sel (fun st => st.poisonWord (off / 8 + whole)) else s2

/-- Store what one load read; a failed word poisons the words it would have filled. -/
def State.land (s : State) (f a : Nat) (l : Load) (r : RdRes) : State :=
  let bad := ((r.failed.map (spoiltData l.span.key l.span.len)).flatten).eraseDups
  match l.desc with
  | none => s.landBytes f a l.sel l.off r.bytes bad
  | some d =>
    (List.range l.tiles).foldl
      (fun (s : State) i =>
        let here := (bad.filter (fun w => w * 8 / d.mb = i)).map (· - i * d.mb / 8)
        s.writeStore a l.sel (l.off + i * d.tb) (toPlain d ((r.bytes.drop (i * d.mb)).take d.mb))
          ((here.map (spoiledWords d)).flatten)) s

/-- Perform loads into an array: the state after them, with the code and piece mask of the first failed one; `none` while words of another part are
still to come. -/
def State.load (s : State) (p : Pour) (a : Nat) (ls : List Load) : Fetch :=
  match s.fetch { rq := rqPour, flask := p.flask } (some p.id) (ls.map (·.span)) with
  | .wait s1 => .wait s1
  | .fail c s1 => .fail c s1
  | .got rs s1 => .got rs ((ls.zip rs).foldl (fun (s : State) e => s.land p.flask a e.1 e.2) s1)

/-! ### Conversion of outputs (R102, R105 to R122) -/

/-- One output tile of 32 × 32 FP32 values converted to a descriptor's format: its plain bytes and its block counts. `pass` and the
element's row and column give its draw (R118). COL_BLOCKS 1 has its effect in FP4 and INT4 alone, and is not looked at in another format (R102, R111; log
entry 57). -/
def convertTile (d : Desc) (pass : Nat) (z : List (List Val)) : List Byte × Quant :=
  let inv := match ofBits (BitVec.ofNat 32 d.outer) with
    | .fin _ m e => Val.two (-(e + (Nat.log2 m : Int)))
    | _ => Val.two 0
  let y : List (List Val) := z.map (fun l => l.map (fun v => v.mul inv))
  let mode (i j : Nat) : Rnd := if d.stoch then .draw (srDraw d.seed pass i j) else .nearest
  let at_ (i j : Nat) : Val := ((y[i]?).getD [])[j]? |>.getD .zero
  if isBlock d.fmt then
    let b := if d.block16 then 16 else 32
    let r := (List.range 32).map (fun line =>
      (List.range (32 / b)).map (fun blk =>
        let ks := (List.range b).map (· + blk * b)
        let cells := ks.map (fun k => if d.colBlocks then (k, line) else (line, k))
        quantBlock (d.fmt = 1) (cells.map (fun c => at_ c.1 c.2)) (cells.map (fun c => mode c.1 c.2))))
    (packTile d.fmt d.block16 (r.map (fun l => (l.map (fun x => x.2.1)).flatten)) (r.map (fun l => l.map (fun x => x.1))),
     (r.flatten.map (fun x => x.2.2)).foldl Quant.add {})
  else
    (packTile d.fmt d.block16
      ((List.range 32).map (fun i => (List.range 32).map (fun j => (fpOf d.fmt).ofVal (mode i j) (at_ i j)))) [], {})

end Sys2Proof.Machine
end

