-- ==== Sys2Proof/Machine/Layout.lean ====
section
/-!
DEFINITION. The layout of a collective: its descriptor, the chunks of a contribution and of the destination, and what of them has landed (R725
to R727, R734, R736, R754, R762).
-/
namespace Sys2Proof.Machine

/-- A field of a descriptor. -/
def descField (d : List Byte) (byte lo w : Nat) : Nat := bits (leNat ((d.drop byte).take 8)) lo w

/-- The planes of PLANE_MASK in a descriptor (R734). -/
def descPlanes (d : List Byte) : List Nat := bitList (bits (leNat (d.take 8)) 8 8) 8

/-- Chunks of one contribution (R736). -/
def descChunks (d : List Byte) : Nat := ceilDiv (descField d 0 32 32) 4096

/-- The fields of a COLL pour that name its collective (R737, R738). -/
def Pour.collId (p : Pour) : Nat := p.param 16 16
def Pour.groupId (p : Pour) : Nat := p.param 32 16
def Pour.unreserved (p : Pour) : Bool := p.subop.testBit 0

/-! ### Chunks -/

def CollCtx.op (c : CollCtx) : Nat := descField c.desc 0 0 3
def CollCtx.bytes (c : CollCtx) : Nat := descField c.desc 0 32 32
/-- Chunks of one contribution. -/
def CollCtx.chunks (c : CollCtx) : Nat := descChunks c.desc
/-- S of an ALL_GATHER. -/
def CollCtx.stride (c : CollCtx) : Nat := descField c.desc 8 12 12 + 1
def CollCtx.root (c : CollCtx) : Nat := descField c.desc 8 0 12
/-- The operation reduces (R725). -/
def CollCtx.reduces (c : CollCtx) : Bool := c.op = 0 || c.op = 1
/-- The formats of contributions and of the reduction's result. -/
def CollCtx.wireFmt (c : CollCtx) : Nat := if descField c.desc 0 5 1 = 1 then fmtBf16 else fmtFp32
def CollCtx.resultFmt (c : CollCtx) : Nat := if descField c.desc 0 6 1 = 1 then fmtBf16 else fmtFp32
/-- Result bytes of wire bytes (R726). -/
def CollCtx.scale (c : CollCtx) (x : Nat) : Nat := if c.reduces then x * elemBits c.resultFmt / elemBits c.wireFmt else x
/-- The member contributes (R725). -/
def CollCtx.contributes (c : CollCtx) : Bool :=
  if c.op = 2 then c.rank % c.stride = 0 else if c.op = 3 then c.rank = c.root else true
/-- The chunk number of the first chunk of the own contribution. -/
def CollCtx.ownBase (c : CollCtx) : Nat :=
  if c.op = 2 then c.rank / c.stride * c.chunks else if c.op = 4 then c.rank * c.chunks else 0
/-- Chunks of one rank's share of a contribution in REDUCE_SCATTER and ALL_TO_ALL. -/
def CollCtx.share (c : CollCtx) : Nat := c.chunks / c.members

/-- Wire bytes of chunk i of a contribution: the first and their number. -/
def CollCtx.wire (c : CollCtx) (i : Nat) : Nat × Nat := (4096 * i, min 4096 (c.bytes - 4096 * i))

/-- How many chunks the destination holds, and the chunk at a place of it in ascending order. -/
def CollCtx.total (c : CollCtx) : Nat :=
  if c.op = 0 then c.chunks else if c.op = 1 then c.share else if c.op = 2 then ceilDiv c.members c.stride * c.chunks
  else if c.op = 3 then (if c.rank = c.root then 0 else c.chunks) else c.members * c.share
def CollCtx.chunkAt (c : CollCtx) (k : Nat) : Nat :=
  if c.op = 1 then c.rank * c.share + k else if c.op = 4 then k / c.share * c.chunks + c.rank * c.share + k % c.share else k

/-- The place of a chunk in the destination: offset and length, or `none` for a chunk that this member does not hold. -/
def CollCtx.landAt (c : CollCtx) (n : Nat) : Option (Nat × Nat) :=
  let i := n % c.chunks
  let w := c.wire i
  if c.chunks = 0 || c.share = 0 && (c.op = 1 || c.op = 4) then none
  else if c.op = 0 then (if n < c.chunks then some (c.scale w.1, c.scale w.2) else none)
  else if c.op = 1 then
    (if n / c.share = c.rank then some (c.scale (4096 * (n % c.share)), c.scale 4096) else none)
  else if c.op = 2 then (if n < c.total then some (n / c.chunks * c.bytes + w.1, w.2) else none)
  else if c.op = 3 then (if n < c.total then some w else none)
  else if n < c.members * c.chunks && i / c.share = c.rank then
    some (n / c.chunks * (c.bytes / c.members) + 4096 * (i % c.share), 4096)
  else none

/-- A chunk of the own contribution that stays on the part (R727). -/
def CollCtx.isOwn (c : CollCtx) (n : Nat) : Bool :=
  (c.op = 2 && c.contributes || c.op = 4) && decide (c.ownBase ≤ n) && decide (n < c.ownBase + c.chunks)

/-- The switch delivers the chunk to this member (R736). -/
def CollCtx.delivered (c : CollCtx) (n : Nat) : Bool := (c.landAt n).isSome && !c.isOwn n

/-- The plane of a chunk (R754). -/
def CollCtx.planeOf (c : CollCtx) (n : Nat) : Nat :=
  let ps := descPlanes c.desc
  (ps[n % ps.length]?).getD 8

/-- A chunk has landed: it came, or it is an own chunk that has been copied. -/
def CollCtx.landed (c : CollCtx) (n : Nat) : Bool :=
  (Sp.get? c.got n).isSome || (c.isOwn n && decide (n < c.ownBase + c.next))

/-- The leading chunks landed, from a place on (R762). -/
def CollCtx.leading (c : CollCtx) : Nat → Nat → Nat
  | 0, k => k
  | fuel + 1, k => if c.landed (c.chunkAt k) then c.leading fuel (k + 1) else k

/-- The parts of a run of bytes in consecutive pieces of memory: address and length. -/
def cutPieces : List (Nat × Nat) → Nat → Nat → List (Nat × Nat)
  | [], _, _ => []
  | (a, n) :: r, off, len =>
    if len = 0 then []
    else if n ≤ off then cutPieces r (off - n) len
    else (a + off, min (n - off) len) :: cutPieces r 0 (len - min (n - off) len)

/-- The destination pieces of the chunks that have not landed. -/
def CollCtx.unlanded (c : CollCtx) : List (Nat × Nat) :=
  ((((List.range c.total).map c.chunkAt).filter (fun k => !c.landed k)).filterMap c.landAt).flatMap (fun w => cutPieces c.dst w.1 w.2)

/-! ### What a context notes -/

/-- The planes of a context that passed through. -/
def CollCtx.passedPlanes (c : CollCtx) : List Nat := (c.planes.filter (fun e => e.2.passed)).map (·.1)

/-- A plane of the context has passed through. -/
def CollCtx.pass (c : CollCtx) (plane : Nat) : CollCtx := { c with planes := Sp.modify c.planes plane {} (fun q => { q with passed := true }) }

/-- The chunk in DETAIL of a COLL pour (R771): the first that failed or was written poisoned. -/
def CollCtx.detail (c : CollCtx) : Nat := c.firstBad.getD 0

/-- The context with a failed or poisoned chunk noted (R771). -/
def CollCtx.bad (c : CollCtx) (num : Nat) : CollCtx := { c with firstBad := some (c.firstBad.getD num) }

/-- The context with its first failure noted: code, chunk and failed words (R771 to R773). -/
def CollCtx.fail (c : CollCtx) (code num : Nat) (words : List Nat) : CollCtx :=
  { c.bad num with failure := some (c.failure.getD (code, num, words)) }

end Sys2Proof.Machine
end

