-- ==== Sys2Proof/Machine/Almanac.lean ====
section
/-!
DEFINITION. Almanac time: the clock, the lock states, the time messages, the almanac entries with their firing, deferral and
reservation (R442 to R486, R541, R621, R745 to R747, R1079 to R1081).
-/
namespace Sys2Proof.Machine

/-! ### Entries -/

/-- KIND codes of R464. -/
def kCollPhase : Nat := 1
def kSlice : Nat := 2
def kScrub : Nat := 3
def kTelemetry : Nat := 4
def kBayDeadline : Nat := 5
def kHeatGate : Nat := 6

/-- STATE codes of an entry. -/
def eFree : Nat := 0
def eArmed : Nat := 1
def eOpen : Nat := 2
def eDone : Nat := 3

/-- What an entry holds beside its words. -/
def State.entry (s : State) (e : Nat) : EntryRt := Sp.getD s.entries e {}

/-- The state with an entry's own data changed. -/
def State.onEntry (s : State) (e : Nat) (f : EntryRt → EntryRt) : State :=
  { s with entries := Sp.put s.entries e (f (s.entry e)) }

/-- The entries that are not FREE, ascending: those whose STATE has been stored nonzero. -/
def State.usedEntries (s : State) : List Nat :=
  ((csrRow s.csr .entState).filter (fun e => e.2.toNat ≠ 0)).map (·.1)

/-- The lowest-numbered UP port of a plane. -/
def State.planePort (s : State) (plane : Nat) : Option Nat := (s.upPorts (some plane)).head?

/-- Send a TC0 control packet of an entry, DEFER or ABANDON, on the lowest-numbered UP port of each plane given, and count it
once (R455, R1081). -/
def State.sendControl (s : State) (op : Nat) (cnt : FKind) (slot collId groupId cause : Nat) (planes : List Nat) : State :=
  let body := leBytes slot 8 ++ leBytes (collId + (groupId <<< 16) + (cause <<< 32)) 8
  (planes.foldl (fun s p =>
    match s.planePort p with
    | some port => s.sendOn port { op := op, tc := 0, plane := p, dst := 0xFFF, src := 0, len := 0 } body
    | none => s) s).count cnt 0

/-- ABANDON for an entry, on the planes of its descriptor (R1081) or on those given. -/
def State.abandonEntry (s : State) (e cause : Nat) (planes : List Nat) : State :=
  let arg := s.rd .entArg e
  s.sendControl 0x05 .abandonsSent (s.rd .entTime e) (bits arg 0 16) (bits arg 16 16) cause planes

/-- An entry becomes FREE: its window closes and what it holds is dropped. -/
def State.clearEntry (s : State) (e : Nat) : State :=
  let s1 := ((s.wr .entState e eFree).wr .entLate e 0).wr .entDefers e 0
  { s1 with entries := Sp.del s1.entries e, scrubOpen := Sp.del s1.scrubOpen e }

/-- Free an entry by a write or a flask reset: an ARMED or OPEN COLL_PHASE entry sends ABANDON with CAUSE 0b11 (R474). -/
def State.freeEntry (s : State) (e : Nat) : State :=
  let live := s.rd .entState e = eArmed || s.rd .entState e = eOpen
  let s1 := if s.rd .entKind e = kCollPhase && live then s.abandonEntry e 3 (descPlanes (s.entry e).desc) else s
  s1.clearEntry e

/-- The COLL_PHASE entries of a group and collective in one of some states. -/
def State.phaseEntries (s : State) (collId groupId : Nat) (states : List Nat) : List Nat :=
  s.usedEntries.filter (fun e => s.rd .entKind e = kCollPhase && bits (s.rd .entArg e) 0 16 = collId
    && bits (s.rd .entArg e) 16 16 = groupId && decide (s.rd .entState e ∈ states))

/-- The COLL_PHASE entry that a reserved pour uses (R743): one of its flask with its ids, ARMED or OPEN. -/
def State.collEntry (s : State) (p : Pour) : Option Nat :=
  (s.phaseEntries p.collId p.groupId [eArmed, eOpen]).find? (fun e => s.rd .entFlask e = p.flask)

/-- The slot time of a context (R753): that of its entry while it waits; 0 when it is unreserved. -/
def State.collSlot (s : State) (c : CollCtx) : Nat :=
  match c.entry with
  | some e => if c.state = 1 then s.rd .entTime e else c.slot
  | none => 0

/-- The reduce arrays of a COLL pour (R738, R778). -/
def Pour.reduceArrays (p : Pour) : List Nat :=
  if p.opcode = 0xB && p.param 61 1 = 1 then
    ((List.range (p.param 57 4 + 1)).map (· + p.param 48 5)).filter (fun x => decide (x < 32)) |>.map (fun x => arrayIndex x (p.param 53 4))
  else []

/-- Free a collective context. One that passed through is counted and writes its WARNING (R782), the A buffers of the pour's reduce
arrays are undefined (R780), and the pour keeps the destination pieces that have not landed. -/
def State.freeColl (s : State) (n : Nat) (c : CollCtx) : State :=
  let s1 : State := ({ s with colls := Sp.del s.colls n }).onPour c.pour (fun p => { p with empties := c.unlanded })
  match s1.pour? c.pour with
  | none => s1
  | some p =>
    let s2 := p.reduceArrays.foldl (fun (s : State) a => s.onArray a (fun r => { r with bufA := {} })) s1
    if c.passedPlanes.isEmpty then s2 else
    (s2.count .collPassed 0).event
      { event := 0x05, ladle := p.ladle, tag := p.tag, pass := p.heat.map (·.pass), arg0 := c.collId + (c.groupId <<< 16),
        arg1 := bitMask c.passedPlanes, arg2 := c.reduced, code := cPassThrough }

/-- ABANDON with CAUSE 0b11 for a context (R474, R787), on the planes of the descriptor that its entry was armed with, or of its own where it has
no entry (R1081). -/
def State.abandonColl (s : State) (c : CollCtx) : State :=
  s.sendControl 0x05 .abandonsSent (s.collSlot c) c.collId c.groupId 3 (descPlanes (if c.entry.isSome then c.armDesc else c.desc))

/-- A collective ends before its verdict with a code (R787): its pour faults and its context is freed; with `abandon`, ABANDON is sent. -/
def State.endColl (s : State) (n code : Nat) (abandon : Bool) : State :=
  match Sp.get? s.colls n with
  | none => s
  | some c =>
    let s1 := (if abandon then s.abandonColl c else s).freeColl n c
    s1.onPour c.pour (fun p => { p with stage := .faulted, code := code, detail := c.detail })

/-- End the collectives that satisfy a test with a code, and the COLL pours in the fabric unit's queue that do. -/
def State.faultColls (s : State) (code : Nat) (ctx : CollCtx → Bool) (queued : Pour → Bool) : State :=
  let s1 := (s.colls.filter (fun c => ctx c.2)).foldl (fun s c => s.endColl c.1 code false) s
  { s1 with pours := s1.pours.map (fun p =>
      if p.unit = .fabric && (p.stage = .queued || p.stage = .released) && queued p then { p with stage := .faulted, code := code } else p) }

/-- End every COLL pour of a collective with a code, those accepted and those that wait in the fabric unit's queue (R483). -/
def State.faultColl (s : State) (flask collId groupId code : Nat) : State :=
  s.faultColls code (fun c => c.flask = flask && c.collId = collId && c.groupId = groupId)
    (fun p => p.flask = flask && p.collId = collId && p.groupId = groupId)

/-- The reservation of an entry is refused: the entry returns to FREE, the planes that granted get ABANDON, the COLL pours that wait for the
entry end COLL_REFUSED, and REFUSED counts (R746, R747). -/
def State.refuseEntry (s : State) (e : Nat) : State :=
  let granted := ((s.entry e).planes.filter (fun p => p.2 = 1)).map (·.1)
  let s1 := if granted.isEmpty then s else s.abandonEntry e 3 granted
  let s2 := s1.faultColls cCollRefused (fun c => c.entry = some e && c.state = 1)
    (fun p => !p.unreserved && p.opcode = 0xB && s.collEntry p = some e)
  (s2.clearEntry e).count .collRefusals 0

/-! ### Reservation (R733 to R735, R745, R746) -/

/-- A descriptor is legal for a group of N members (R735). OP: 0 ALL_REDUCE, 1 REDUCE_SCATTER, 2 ALL_GATHER, 3 BROADCAST,
4 ALL_TO_ALL (R725). -/
def State.descLegal (s : State) (d : List Byte) (n : Nat) : Bool :=
  let op := descField d 0 0 3
  let mask := descField d 0 8 8
  let bytes := descField d 0 32 32
  let reduction := op = 0 || op = 1
  let c := descChunks d
  let lastChunk := if op = 2 then ((n - 1) / (descField d 8 12 12 + 1)) * c + c
    else if op = 4 then (n - 1) * c + c else c
  descField d 0 7 1 = 0 && descField d 0 24 8 = 0 && descField d 8 24 8 = 0 && (d.drop 16).all (· = 0)
    && decide (op ≤ 4) && mask ≠ 0 && decide (mask < 2 ^ s.rd .fabPlanes)
    && descField d 0 3 2 ≠ 3 && !(reduction && descField d 0 16 8 = 0)
    && !(descField d 0 5 1 = 1 && descField d 0 6 1 = 0)
    && bytes ≠ 0 && bytes % 8 = 0
    && !((op = 1 || op = 4) && bytes % (4096 * n) ≠ 0)
    && !(op = 3 && decide (n ≤ descField d 8 0 12))
    && decide (lastChunk ≤ 2 ^ 24)

/-- The valid group entry of a flask with a GROUP_ID in which this part is a member (R732, R746). -/
def State.groupOf (s : State) (f gid : Nat) : Option Nat :=
  (List.range 256).find? (fun g => s.bit .groupValid g && s.rd .groupFlask g = f && s.rd .groupId g = gid && s.bit .groupMember g)

/-- The address of a collective descriptor (R733). -/
def State.descAddr (s : State) (f i : Nat) : Nat := s.base .collTableLo .collTableHi 12 f + 32 * i

/-- Read a descriptor through the flask's segments (R733). -/
def State.readDesc (s : State) (f i : Nat) : Fetch :=
  let a := s.descAddr f i
  if s.allowed f a 32 .read then s.fetch { rq := rqFabric, flask := f } none [{ hint := s.hintOf f a 32 0 .read, key := a, len := 32 }]
  else .fail cSegmentFault s

/-- The descriptor that a read brought, unless it failed, and the state after the read. -/
def Fetch.desc : Fetch → Option (List Byte)
  | .got (r :: _) _ => if r.code = 0 then some r.bytes else none
  | _ => none
def Fetch.after : Fetch → State
  | .got _ s => s
  | .wait s => s
  | .fail _ s => s

/-- The collective header of a TC1 packet (R753). -/
structure CollHdr where
  collId : Nat
  groupId : Nat
  chunk : Nat := 0
  attempt : Nat := 0
  slot : Nat := 0
  srcRank : Nat := 0
  dstRank : Nat := 0
  passed : Nat := 0
  origin : Nat := 0
  crc : Nat := 0
  opword : Nat := 0
  desc : List Byte := List.replicate 32 0
deriving DecidableEq, Repr

/-- The 64 bytes of a collective header. -/
def CollHdr.bytes (h : CollHdr) : List Byte :=
  leBytes (h.collId + (h.groupId <<< 16) + (h.chunk <<< 32) + (h.attempt <<< 56)) 8 ++ leBytes h.slot 8
  ++ leBytes (h.srcRank + (h.dstRank <<< 12) + (h.passed <<< 24) + (h.origin <<< 25) + (h.crc <<< 32)) 8
  ++ leBytes h.opword 8 ++ padTo h.desc 32 0

/-- The collective header of a received payload. -/
def collHdr (pay : List Byte) : CollHdr :=
  let f (byte lo w : Nat) : Nat := bits (leNat ((pay.drop byte).take 8)) lo w
  { collId := f 0 0 16, groupId := f 0 16 16, chunk := f 0 32 24, attempt := f 0 56 2, slot := f 8 0 64,
    srcRank := f 16 0 12, dstRank := f 16 12 12, passed := f 16 24 1, origin := f 16 25 1, crc := f 16 32 32,
    opword := f 24 0 64, desc := (pay.drop 32).take 32 }

/-- Send a TC1 packet on a port. -/
def State.sendColl (s : State) (port op flask : Nat) (h : CollHdr) (data : List Byte) : State :=
  s.sendOn port { op := op, tc := 1, plane := 0, dst := 0xFFF, src := 0, flask := flask, len := 0 } (h.bytes ++ data)

/-- The descriptor of an armed entry has been read: one RESERVE leaves on each plane; when the descriptor or the group does not serve, the entry
returns to FREE (R745, R746). -/
def State.reserveWith (s : State) (e : Nat) (desc : Option (List Byte)) : State :=
  let arg := s.rd .entArg e
  let f := s.rd .entFlask e
  let coll := bits arg 0 16
  let gid := bits arg 16 16
  match desc, s.groupOf f gid with
  | some d, some g =>
    let n := s.rd .groupMembers g + 1
    if s.descLegal d n then
      let h : CollHdr := { collId := coll, groupId := gid, slot := s.rd .entTime e, srcRank := s.rd .groupRank g
                           opword := descField d 0 16 8 + ((n - 1) <<< 8) + (s.rd .entDuration e <<< 32)
                           desc := d }
      let planes := descPlanes d
      let s1 := s.onEntry e (fun x => { x with desc := d, planes := planes.map (fun p => (p, 0)), reading := false })
      planes.foldl (fun s p =>
        match s.planePort p with
        | some port => s.sendColl port 0x40 f h []
        | none => s) s1
    else (s.clearEntry e).count .collRefusals 0
  | _, _ => (s.clearEntry e).count .collRefusals 0

/-- Arming a COLL_PHASE entry reserves its slot: the descriptor is read, and the reservation follows once it is there (R745, R746). -/
def State.reserve (s : State) (e : Nat) : State :=
  match s.readDesc (s.rd .entFlask e) (bits (s.rd .entArg e) 0 16) with
  | .wait s1 => s1.onEntry e (fun x => { x with reading := true })
  | r => r.after.reserveWith e r.desc

/-- Words of another part have come: the entries whose descriptor they may complete reserve (R745). -/
def State.reserveWaiting (s : State) : State :=
  (s.usedEntries.filter (fun e => (s.entry e).reading)).foldl (fun (s : State) e => s.reserve e) s

/-- Whether R466 forbids arming an entry with these fields. -/
def armForbidden (kind flaskEn period : Nat) : Bool :=
  decide (kind = 0) || decide (7 ≤ kind) || ((kind = kHeatGate || kind = kCollPhase) && flaskEn = 0)
    || ((kind = kCollPhase || kind = kBayDeadline) && period ≠ 0)

/-- Arm a FREE entry whose words are in place (R465). -/
def State.armEntry (s : State) (e : Nat) : State :=
  let s1 := ((s.wr .entState e eArmed).wr .entLate e 0).wr .entDefers e 0
  let s2 := { s1 with entries := Sp.put s1.entries e {} }
  if s2.rd .entKind e = kCollPhase then s2.reserve e else s2

/-- Store the RW fields of word 0x10 that a write covers, STATE apart (R1080). -/
def State.entryFields (s : State) (e : Nat) (high : Bool) (v : Nat) : State :=
  let s1 := (((s.wr .entKind e (bits v 0 4)).wr .entFlask e (bits v 6 6)).wr .entFlaskEn e (bits v 12 1)).wr
    .entReadySem e (bits v 20 6)
  if high then s1.wr .entDuration e (bits v 32 32) else s1

/-- ALMANAC_ENTRY_ARM (R465, R466, R1080): `high` says that the write covers DURATION as well. -/
def execAlmanacEntryArm (e : Nat) (high : Bool) (value : Word64) (s : State) : Host.Outcome State Fault Refusal :=
  let v := value.toNat
  done (
    if !s.bar0Up || decide (4096 ≤ e) || s.rd .entState e ≠ eFree || bits v 4 2 ≠ eArmed then s
    else
      let s1 := s.entryFields e high v
      if armForbidden (bits v 0 4) (bits v 12 1) (s.rd .entPeriod e) then s1 else s1.armEntry e)

/-- The lock state lets an entry of a kind fire (R447). -/
def State.kindFires (s : State) (kind : Nat) : Bool :=
  let l := s.rd .lockState
  if l = lockUnlocked then kind = kSlice || kind = kScrub || kind = kTelemetry || kind = kBayDeadline
  else l ≠ lockAcquiring

/-- An entry fires now: ARMED, of the kind, its TIME reached, and allowed by the lock state (R447, R469). -/
def State.firesNow (s : State) (e kind : Nat) : Bool :=
  decide (e < 4096) && s.rd .entState e = eArmed && s.rd .entKind e = kind && decide (s.rd .entTime e ≤ s.now) && s.kindFires kind

/-- After its firing or its window an entry is DONE, or ARMED again for its period (R472). -/
def State.finishEntry (s : State) (e : Nat) : State :=
  let period := s.rd .entPeriod e
  let rep := s.rd .entRepeat e
  if period ≠ 0 && rep ≠ 1 then
    let s1 := (s.wr .entState e eArmed).wr .entTime e (s.rd .entTime e + period)
    let s2 := if rep = 0 then s1 else s1.wr .entRepeat e (rep - 1)
    s2.onEntry e (fun x => { x with leadChecked := false })
  else s.wr .entState e eDone

/-! ### What a firing does (R464) -/

/-- A SLICE entry fires (R541): ARG is the eligible set of the new slot. -/
def State.fireSlice (s : State) (e : Nat) : State :=
  let arg := s.rd .entArg e
  (((s.wr .sliceEligible 0 (bits arg 0 32)).wr .sliceEligible 1 (bits arg 32 32)).finishEntry e).pulse 0 1

/-- A SCRUB entry fires (R649): the window opens on the stacks of ARG, and the scrub-rate mode takes effect (R966). -/
def State.fireScrub (s : State) (e : Nat) : State :=
  let s1 := s.wr .entState e eOpen
  let bw := if s.rd .scrubRate = 0 then 20 else if s.rd .scrubRate = 1 then 40 else 160
  ({ s1 with scrubOpen := Sp.put s1.scrubOpen e (bits (s.rd .entArg e) 0 16) }).wr .scrubBw 0 bw

/-- The sections of a frame, by bit of ARG. -/
def State.frameSection (s : State) : Nat → List Byte
  | 0 =>
    let cls := ((List.range 16).map (fun i => s.rd .stackClass i <<< (2 * i))).sum
      + ((List.range 4).map (fun i => s.rd .dieClass i <<< (32 + 2 * i))).sum
      + ((List.range 8).map (fun i => s.rd .engineClass i <<< (40 + 2 * i))).sum
    leBytes (s.regWord 0xB00010) 4 ++ leBytes (s.regWord 0xB00014) 4 ++ leBytes (s.regWord 0xB00018) 4 ++ leBytes 0 4
      ++ leBytes cls 8
  | 1 =>
    ((List.range 16).map (fun i => leBytes (s.rd .stackTemp i) 2)).flatten
      ++ ((List.range 4).map (fun i => leBytes (s.rd .dieTemp i) 2)).flatten
      ++ ((List.range 8).map (fun i => leBytes (s.rd .engineTemp i) 2)).flatten ++ leBytes 0 8
  | 2 =>
    ((List.range 128).map (fun i => leBytes (s.rd .rxPower i) 2)).flatten
      ++ ((List.range 32).map (fun i => leBytes (s.regWord (0x700600 + 4 * i)) 4)).flatten
  | 3 =>
    ((List.range 67).map (fun i => leBytes (min (Sp.getD s.power.since i 0) 0xFFFFFFFF) 4)).flatten ++ leBytes 0 4
  | 4 => ((List.range 64).map (fun f => leBytes (min (Sp.getD s.power.squallSince f 0) 0xFFFF) 2)).flatten
  | _ => []

/-- A telemetry frame of the sample sets ARG (R970). -/
def State.frame (s : State) (arg : Nat) : List Byte :=
  leBytes s.now 8 ++ leBytes s.power.frameSeq 4 ++ leBytes arg 1 ++ leBytes 0 3
    ++ ((bitList arg 5).map s.frameSection).flatten

/-- A TELEMETRY entry fires (R968, R969): one frame to MGR_DEVICE on TC3, or one more frame not sent. -/
def State.fireTelemetry (s : State) (e : Nat) : State :=
  let unsent := s.count .telemDropped 0
  let s1 :=
    if !s.bit .wmbWordEn then unsent
    else
      match s.sendTc3 (s.rd .wmbMgrDevice) 0xC2 0 (s.frame (bits (s.rd .entArg e) 0 8)) with
      | (true, t) => { t with power := { t.power with frameSeq := t.power.frameSeq + 1, since := [], squallSince := [] } }
      | (false, _) => unsent
  s1.finishEntry e

/-- A bay becomes REVOKED, and BAY is set in HOST_INT_CAUSE (R621). -/
def State.revokeBay (s : State) (b : Nat) : State :=
  if s.rd .bayState b = 1 then (s.wr .bayState b 2).cause causeBay else s

/-- A BAY_DEADLINE entry fires (R621). -/
def State.fireBayDeadline (s : State) (e : Nat) : State := (s.revokeBay (bits (s.rd .entArg e) 0 12)).finishEntry e

/-- A HEAT_GATE entry fires (R464): an ADD to a semaphore of the entry's flask. -/
def State.fireHeatGate (s : State) (e : Nat) : State :=
  let arg := s.rd .entArg e
  (s.semAdd (s.rd .entFlask e) (bits arg 0 6) (bits arg 32 32)).finishEntry e

/-- A COLL_PHASE entry fires (R743): the slot opens, and the contexts that wait for it run. -/
def State.fireCollPhase (s : State) (e : Nat) : State :=
  let s1 := s.wr .entState e eOpen
  { s1 with colls := s1.colls.map (fun c =>
      if c.2.entry = some e && c.2.state = 1 then
        (c.1, { c.2 with state := 2, slot := s1.rd .entTime e, bound := s1.rd .entTime e + s1.rd .entDuration e }) else c) }

/-- An entry fires; `late` when the lock state kept it from firing at its TIME (R452). -/
def State.fireEntry (late : Bool) (s : State) (e : Nat) : State :=
  let s1 := if late then (s.setBit .entLate e).raise .lateFire 0 causeTime else s
  let kind := s.rd .entKind e
  if kind = kCollPhase then s1.fireCollPhase e
  else if kind = kSlice then s1.fireSlice e
  else if kind = kScrub then s1.fireScrub e
  else if kind = kTelemetry then s1.fireTelemetry e
  else if kind = kBayDeadline then s1.fireBayDeadline e
  else if kind = kHeatGate then s1.fireHeatGate e
  else s1

/-- The lower-numbered entries that fire in the same a-cycle as an entry: those of the same TIME (R470). -/
def State.dueBefore (s : State) (e : Nat) : List Nat :=
  s.usedEntries.filter (fun x =>
    decide (x < e) && s.rd .entTime x = s.rd .entTime e && s.firesNow x (s.rd .entKind x))

/-- The entries that take effect before an entry that fires now (R470): they fire first. -/
def State.fireBefore (s : State) (e : Nat) : State := (s.dueBefore e).foldl (State.fireEntry false) s

/-- An entry that is due takes effect before a write that frees it (R471). -/
def State.fireDue (s : State) (e : Nat) : State :=
  if s.firesNow e (s.rd .entKind e) then State.fireEntry false (s.fireBefore e) e else s

/-- ALMANAC_ENTRY_FREE (R468, R471, R474, R1080). -/
def execAlmanacEntryFree (e : Nat) (high : Bool) (value : Word64) (s : State) : Host.Outcome State Fault Refusal :=
  let v := value.toNat
  done (if !s.bar0Up || decide (4096 ≤ e) || bits v 4 2 ≠ eFree then s else ((s.fireDue e).freeEntry e).entryFields e high v)

/-- SLICE (R470, R541). -/
def execSlice (e : Nat) (s : State) : Host.Outcome State Fault Refusal :=
  done (if s.firesNow e kSlice then (s.fireBefore e).fireSlice e else s)

/-- SCRUB (R470, R649). -/
def execScrub (e : Nat) (s : State) : Host.Outcome State Fault Refusal :=
  done (if s.firesNow e kScrub then (s.fireBefore e).fireScrub e else s)

/-- BAY_DEADLINE (R470, R621). -/
def execBayDeadline (e : Nat) (s : State) : Host.Outcome State Fault Refusal :=
  done (if s.firesNow e kBayDeadline then (s.fireBefore e).fireBayDeadline e else s)

/-- HEAT_GATE (R464, R470). -/
def execHeatGate (e : Nat) (s : State) : Host.Outcome State Fault Refusal :=
  done (if s.firesNow e kHeatGate then (s.fireBefore e).fireHeatGate e else s)

/-- COLL_PHASE (R470, R743). -/
def execCollPhase (e : Nat) (s : State) : Host.Outcome State Fault Refusal :=
  done (if s.firesNow e kCollPhase then (s.fireBefore e).fireCollPhase e else s)

/-- ENTRY_WINDOW_CLOSE (R472). -/
def execEntryWindowClose (e : Nat) (s : State) : Host.Outcome State Fault Refusal :=
  done (if decide (e < 4096) && s.rd .entState e = eOpen && decide (s.rd .entTime e + s.rd .entDuration e ≤ s.now) then
    ({ s with scrubOpen := Sp.del s.scrubOpen e }).finishEntry e else s)

/-- DEFER_LEAD in ns: values below 8 µs act as 8. -/
def State.leadNs (s : State) : Nat := 1000 * max 8 (s.rd .deferLead)

/-- Some stack is in its throttle class. -/
def State.throttled (s : State) : Bool := (List.range 16).any (fun d => s.rd .stackClass d = 1)

/-- The READY check of a COLL_PHASE entry holds (R475). -/
def State.memberReady (s : State) (e : Nat) : Bool :=
  semGe (s.rd .sem (64 * s.rd .entFlask e + s.rd .entReadySem e)) (bits (s.rd .entArg e) 32 32)

/-- DEFER_LEAD_CHECK (R475, R476): a member that is not ready sends one DEFER. -/
def execDeferLeadCheck (e : Nat) (s : State) : Host.Outcome State Fault Refusal :=
  let arg := s.rd .entArg e
  let due := decide (e < 4096) && s.rd .entState e = eArmed && s.rd .entKind e = kCollPhase && !(s.entry e).leadChecked
    && decide (s.rd .entTime e ≤ s.now + s.leadNs)
  done (if due then
    let s1 := s.onEntry e (fun x => { x with leadChecked := true })
    let cause := if s.throttled then 1 else 0
    if s.memberReady e || (s.rd .deferPolicy = 1 && cause = 0) then s1
    else s1.sendControl 0x04 .defersSent (s.rd .entTime e) (bits arg 0 16) (bits arg 16 16) cause (descPlanes (s.entry e).desc)
  else s)

/-- SHIFT (R479, R480). -/
def execShift (port : Nat) (s : State) : Host.Outcome State Fault Refusal :=
  done (match s.takePacket port 0 [0x06] with
    | none => s
    | some (p, s1) =>
      let w := pktWord p 16
      match (s1.phaseEntries (bits w 0 16) (bits w 16 16) [eArmed]).find? (fun e => s1.rd .entTime e = pktWord p 0) with
      | some e =>
        ((s1.wr .entTime e (pktWord p 8)).wr .entDefers e (bits w 32 4)).onEntry e (fun x => { x with leadChecked := false })
      | none => s1)

/-- GROUP_ABORT (R483): the matching entry is freed and every COLL pour of the collective, accepted or waiting, ends with CODE. -/
def execGroupAbort (port : Nat) (s : State) : Host.Outcome State Fault Refusal :=
  done (match s.takePacket port 0 [0x07] with
    | none => s
    | some (p, s1) =>
      let w := pktWord p 0
      let coll := bits w 0 16
      let gid := bits w 16 16
      let es := s1.phaseEntries coll gid [eArmed, eOpen, eDone]
      let waiting := s1.pours.filter (fun p => p.unit = .fabric && p.param 16 16 = coll && p.param 32 16 = gid)
      let flasks := ((s1.colls.filter (fun c => c.2.collId = coll && c.2.groupId = gid)).map (fun c => c.2.flask)
        ++ waiting.map (·.flask)).eraseDups
      let s2 := es.foldl (fun s e => s.clearEntry e) s1
      flasks.foldl (fun s f => s.faultColl f coll gid (bits w 32 16)) s2)

/-- TIME_CFG_WRITE (R1079). -/
def execTimeCfgWrite (value : Word32) (s : State) : Host.Outcome State Fault Refusal :=
  let v := value.toNat
  let s1 := if bits v 0 2 = 3 then s else s.wr .sourceSel 0 (bits v 0 2)
  let s2 := if 2 ≤ bits v 24 2 then s1 else s1.wr .deferPolicy 0 (bits v 24 2)
  done (if s.bar0Up then
    ((s2.wr .timePlane 0 (bits v 2 3)).wr .holdoverLimit 0 (bits v 8 8)).wr .deferLead 0 (bits v 16 8) else s)

/-- TICK_LOAD_ARM (R461): a write of TICK_CFG that sets TICK_LOAD_ARM, with the TICK_DELAY it covers. -/
def execTickLoadArm (delay : Option (BitVec 16)) (s : State) : Host.Outcome State Fault Refusal :=
  done (if s.bar0Up then
    (match delay with
      | some d => s.wr .tickDelay 0 d.toNat
      | none => s).setBit .tickLoadArm
  else s)

/-! ### The clock and the lock states -/

/-- Entry 4,095 is freed and armed again as the scrub entry, at the next whole second (R656, R657). -/
def State.armScrub (s : State) : State :=
  let s1 := s.freeEntry 4095
  let t := (s.now / 1000000000 + 1) * 1000000000
  (((((((s1.wr .entTime 4095 t).wr .entPeriod 4095 1000000000).wr .entRepeat 4095 0).wr .entKind 4095 kScrub).wr
    .entFlaskEn 4095 0).wr .entDuration 4095 100000000).wr .entArg 4095 0xFFFF).armEntry 4095

/-- The ARMED entries whose TIME has passed while the lock state keeps them from firing (R452). -/
def State.keptEntries (s : State) : List Nat :=
  s.usedEntries.filter (fun e =>
    s.rd .entState e = eArmed && decide (s.rd .entTime e < s.now) && !s.kindFires (s.rd .entKind e))

/-- Enter a lock state (R447 to R454): LOCK_LOST on leaving LOCKED; the entries that the old state kept and the new one lets fire do so
late, in ascending index (R452, R470); the scrub entry is armed again on entering LOCKED where R657 asks for it. In UNLOCKED the clock
free-runs on REF_IN, so a correction in progress and the learned frequency end. -/
def State.setLock (s : State) (l : Nat) : State :=
  let old := s.rd .lockState
  let s1 := if old = lockLocked && l ≠ lockLocked then s.raise .lockLost 0 causeTime else s
  let s2 := (s1.wr .lockState 0 l).wr .timeSource 0 (if l = lockUnlocked then 0 else s1.rd .timeSource)
  let locked := l = lockLocked || l = lockHoldover
  let s3 := { s2 with time := { s2.time with good := 0, acquired := s2.time.acquired || (old = lockAcquiring && l ≠ lockAcquiring)
                                             slew := if locked then s2.time.slew else 0
                                             rate := if locked then s2.time.rate else 0
                                             stopUntil := if l = lockUnlocked then none else s2.time.stopUntil } }
  let s4 := (s.keptEntries.filter (fun e => s3.kindFires (s3.rd .entKind e))).foldl (State.fireEntry true) s3
  if l = lockLocked && s4.time.rearmScrub then
    ({ s4 with time := { s4.time with rearmScrub := false } }).armScrub else s4

/-- The source of a LOCKED part is lost: HOLDOVER, or UNLOCKED when HOLDOVER_LIMIT is 0. -/
def State.loseSource (s : State) : State :=
  if s.rd .lockState = lockLocked then s.setLock (if s.rd .holdoverLimit = 0 then lockUnlocked else lockHoldover)
  else if s.rd .lockState = lockAcquiring then s.setLock lockUnlocked
  else s

/-- The clock takes an offset in ACQUIRING (R450): the first acquisition steps it either way; a later one steps it forward, or
holds it until the source's time reaches it, which is no step (R657). With no offset the source's time has reached the clock. -/
def State.stepClock (s : State) (offset : Int) : State :=
  if offset = 0 then { s with time := { s.time with stopUntil := none } }
  else if s.time.acquired && decide (offset < 0) then
    { s with time := { s.time with stopUntil := some offset.natAbs } }
  else
    { s with time := { s.time with now := ((s.time.now : Int) + offset).toNat, stopUntil := none, rearmScrub := true } }

/-- A signed offset in 32 bits, saturating (TIME_OFFSET). -/
def sat32 (x : Int) : Nat := ofInt 32 (max (-(2 ^ 31 : Int)) (min x (2 ^ 31 - 1 : Int)))

/-- An offset within ±1 µs is removed by slewing (R444): 200 ppm, so one nanosecond in 9,000 a-cycles. The frequency learned from it is a
free value of at most 200 ppm, for the spec does not say how it is learned (R447; log entry 60). -/
def State.slewClock (s : State) (offset : Int) : State :=
  { s with time := { s.time with slew := 9000 * offset, rate := max (-1000) (min 1000 (Config.learnedRate s.fresh)) } }

/-- An offset of the source reaches the lock machine (R444, R449, R450): `need` consecutive offsets within ±4 ns lock it. A port
that is not calibrated gives no offset (R457, R458). -/
def State.takeOffset (s : State) (offset : Int) (calibrated : Bool) (need : Nat) : State :=
  let s0 := s.wr .timeOffset 0 (sat32 offset)
  let near := decide (offset.natAbs ≤ 1000)
  if !calibrated then s
  else if s.rd .lockState = lockAcquiring then
    let g := if offset.natAbs ≤ 4 then s0.time.good + 1 else 0
    let s1 := s0.stepClock offset
    let s2 := { s1 with time := { s1.time with good := g } }
    if need ≤ g then s2.setLock lockLocked else s2
  else if s.rd .lockState = lockLocked then
    if near then s0.slewClock offset else s0.setLock lockUnlocked
  else if s.rd .lockState = lockHoldover then
    if near then (s0.slewClock offset).setLock lockLocked else s0.setLock lockUnlocked
  else s0

/-- Send DELAY_REQ on the time port (R457): it takes its T1 when it leaves. -/
def State.sendDelayReq (s : State) : State :=
  let n := s.rd .timePort
  let s1 := s.onPort n (fun r => { r with timeOut := r.timeOut + 1 })
  { s1 with time := { s1.time with delayReq := some (n, none), beacons := 0 } }

/-- The DELAY_REQ that leaves a port now, with the almanac time of its transmission as T1 (R455, R456), and the state that waits for its
answer. -/
def State.leaveDelayReq (s : State) (port : Nat) : List Byte × State :=
  (packet { op := 0x02, tc := 0, plane := s.rd .portPlane port, dst := 0xFFF, src := s.rd .fabDevice, len := 8 } (leBytes s.now 8),
   if s.time.delayReq = some (port, none) then { s with time := { s.time with delayReq := some (port, some s.now) } } else s)

/-- R453: on a change of EPOCH_ID every entry but the BAY_DEADLINE entries is freed, with ABANDON for each COLL_PHASE entry; the
BAY_DEADLINE entries are taken as reached, and EPOCH_CHANGED is set. -/
def State.changeEpoch (s : State) (epoch : Nat) : State :=
  let s1 := s.usedEntries.foldl (fun s e =>
    if s.rd .entKind e = kBayDeadline then
      (if s.rd .entState e = eArmed then s.fireBayDeadline e else s)
    else
      (if s.rd .entKind e = kCollPhase then s.abandonEntry e 3 (descPlanes (s.entry e).desc) else s).clearEntry e) s
  let s2 := (List.range 32).foldl (fun s n => s.wr .portDelayValid n 0) s1
  let s3 := (s2.raise .epochChanged 0 causeTime).wr .epochId 0 epoch
  { s3 with time := { s3.time with rearmScrub := true, lastOffset := [] } }

/-- The first time message of an opcode that a port has received, with its arrival time, taken. -/
def State.takeTime (s : State) (port op : Nat) : Option (List Byte × Nat × State) :=
  match (s.port port).timeIn with
  | (p, t) :: r => if (pktHdr p).op = op then some (p, t, s.onPort port (fun q => { q with timeIn := r })) else none
  | [] => none

/-- The port whose beacons are used: the lowest-numbered UP port of TIME_PLANE (R458). -/
def State.lowestTimePort (s : State) : Option Nat := s.planePort (s.rd .timePlane)

/-- BEACON (R449, R457, R458): the offset of the port is computed; on the time port it steers the lock state. -/
def execBeacon (port : Nat) (s : State) : Host.Outcome State Fault Refusal :=
  done (match s.takeTime port 0x01 with
    | none => s
    | some (p, rx, s0) =>
      let tx := pktWord p 0
      let w := pktWord p 8
      let valid := s0.rd .portPlane port = s0.rd .timePlane && s0.rd .sourceSel ≠ 2 && s0.rd .timeSource ≠ 2
        && bits w 32 3 = s0.rd .portPlane port
      if !valid then s0 else
      let s1 := s0.wr .quantumUs 0 (bits w 16 16)
      let offset : Int := (tx : Int) + (s1.rd .portDelay port : Int) - (rx : Int)
      let s2 := { s1 with time := { s1.time with lastOffset := Sp.put s1.time.lastOffset port offset } }
      let toAcquiring (s : State) : State :=
        ((s.setLock lockAcquiring).wr .timeSource 0 1 |>.wr .timePort 0 (s.lowestTimePort.getD port)).sendDelayReq
      if bits w 0 16 ≠ s2.rd .epochId then toAcquiring (s2.changeEpoch (bits w 0 16))
      else if s2.rd .lockState = lockUnlocked then toAcquiring s2
      else
        -- the time port is the lowest-numbered active one (R458)
        let s3 := s2.wr .timePort 0 (s2.lowestTimePort.getD port)
        if port ≠ s3.rd .timePort then s3 else
        let n := s3.time.beacons + 1
        let s4 := { s3 with time := { s3.time with beacons := n } }
        let asked := s4.time.delayReq.any (fun q => q.1 = port)
        let s5 := if 64 ≤ n || (!s4.bit .portDelayValid port && !asked) then s4.sendDelayReq else s4
        let s6 := s5.takeOffset offset (s5.bit .portDelayValid port) 8
        -- a beacon that ends LOCKED moves the part to ACQUIRING at once
        if s5.rd .lockState = lockLocked && s6.rd .lockState = lockUnlocked then toAcquiring s6 else s6)

/-- DELAY_RESP (R457): the round trip gives the port's switch-to-part delay. -/
def execDelayResp (port : Nat) (s : State) : Host.Outcome State Fault Refusal :=
  done (match s.takeTime port 0x03 with
    | none => s
    | some (p, t4, s0) =>
      if s0.time.delayReq ≠ some (port, some (pktWord p 0)) then s0 else
      let rtt : Int := ((t4 : Int) - pktWord p 0) - ((pktWord p 16 : Int) - pktWord p 8)
      let d := Int.tdiv (rtt + toInt 16 (s0.rd .portAsym port)) 2
      let s1 := (s0.wr .portDelay port (ofInt 16 d)).wr .portDelayValid port 1
      { s1 with time := { s1.time with delayReq := none } })

/-- TICK_IN_MARKER (R449, R461): the first marker after TICK_LOAD_ARM takes TICK_LOAD + TICK_DELAY, each later one a second
more. -/
def execTickInMarker (s : State) : Host.Outcome State Fault Refusal :=
  let load : Int := ((s.rd .tickLoadLo + (s.rd .tickLoadHi <<< 32) : Nat) : Int) + toInt 16 (s.rd .tickDelay)
  let armed := s.bit .tickLoadArm
  let allowed := s.rd .sourceSel ≠ 1 && s.rd .timeSource ≠ 1 && s.bar0Up
  let mark : Option Int := if armed then some load else s.time.lastMarker.map (fun t => (t : Int) + 1000000000)
  let s0 := s.pulse 0 5
  done (match mark with
    | none => s0
    | some t =>
      if !allowed || (s.rd .lockState = lockUnlocked && !armed) then s0 else
      let s1 := s0.wr .tickLoadArm 0 0
      let s2 := { s1 with time := { s1.time with lastMarker := some t.toNat } }
      let offset := t - s2.time.now
      if s2.rd .lockState = lockUnlocked then
        let s3 := (s2.setLock lockAcquiring).wr .timeSource 0 2
        (s3.wr .timeOffset 0 (sat32 offset)).stepClock offset
      else s2.takeOffset offset true 3)

/-- ACQUIRING_TIMEOUT (R449). -/
def execAcquiringTimeout (s : State) : Host.Outcome State Fault Refusal :=
  done (if s.rd .lockState = lockAcquiring then s.setLock lockUnlocked else s)

/-- BEACON_SILENCE (R449). -/
def execBeaconSilence (s : State) : Host.Outcome State Fault Refusal :=
  done (if s.rd .timeSource = 1 then s.loseSource else s)

/-- TICK_IN_SILENCE (R449). -/
def execTickInSilence (s : State) : Host.Outcome State Fault Refusal :=
  done (if s.rd .timeSource = 2 then s.loseSource else s)

/-- HOLDOVER_LIMIT (R449). -/
def execHoldoverLimit (s : State) : Host.Outcome State Fault Refusal :=
  done (if s.rd .lockState = lockHoldover then s.setLock lockUnlocked else s)

/-- A port went down that may have been the time port (R449, R458): the next active port of TIME_PLANE, which is the same source, takes over.
A LOCKED part stays so when that port is calibrated and its last offset lies within ±8 ns; else it enters HOLDOVER. A port that is not
calibrated is. -/
def State.timePortLost (s : State) (port : Nat) : State :=
  if s.rd .timeSource ≠ 1 || s.rd .timePort ≠ port then s else
  match s.lowestTimePort with
  | none => s.loseSource
  | some n =>
    let s1 := s.wr .timePort 0 n
    if s1.rd .lockState = lockLocked then
      if s1.bit .portDelayValid n && decide ((Sp.getD s1.time.lastOffset n 9).natAbs ≤ 8) then s1
      else
        let s2 := s1.loseSource
        if s2.rd .lockState = lockHoldover then s2.sendDelayReq else s2
    else if s1.bit .portDelayValid n then s1
    else s1.sendDelayReq

/-- One a-cycle of the almanac clock (R8, R442, R444, R447): 5/9 ns of REF_IN, changed by the learned frequency and by 200 ppm while an offset
is slewed, so that no nanosecond is skipped; no advance while R450 holds it. -/
def TimeRt.tick (t : TimeRt) : TimeRt :=
  let sign : Int := if 0 < t.slew then 1 else if t.slew < 0 then -1 else 0
  let f := ((t.frac : Int) + 5000000 + t.rate + 1000 * sign).toNat
  if f < 9000000 then { t with frac := f, slew := t.slew - sign, evals := [] }
  else
    let u := { t with frac := f - 9000000, slew := t.slew - sign, evals := [] }
    match t.stopUntil with
    | some n => { u with stopUntil := if n ≤ 1 then none else some (n - 1) }
    | none => { u with now := t.now + 1 }

end Sys2Proof.Machine
end

