-- ==== Sys2Proof/Machine/Journal.lean ====
section
/-!
DEFINITION. The riser journal and the decision to replay (R805 to R810).
-/
namespace Sys2Proof.Machine

/-- The journal slot of a ladle (R805). -/
def State.journalSlot (s : State) (n slot : Nat) : Nat :=
  s.base .journalBaseLo .journalBaseHi 13 (ladleFlask n) + 8192 * (n % 4) + 4096 * slot

/-- Bytes of an entry with all 256 watch slots (R807). -/
def journalMax : Nat := 0x280 + 8 * 256

/-- The current entry of a ladle as it reads, and the state after the read; a word that does not read is a free value. -/
def State.readJournal (s : State) (n : Nat) : List Byte × State :=
  let a := s.journalSlot n (s.rd .riserSlot n)
  let r := s.readLocal { rq := rqPour, flask := ladleFlask n } 0 a journalMax
  let bad := r.1.failed.map (·.1)
  ((r.1.bytes.zipIdx).map (fun e => if e.2 / 8 ∈ bad then (s.free (0x500000 + e.2)).setWidth 8 else e.1), r.2)

/-- A field of an entry: `n` bytes at an offset. -/
def jField (l : List Byte) (off n : Nat) : Nat := leNat ((l.drop off).take n)

/-- The declared ranges of a segment: first byte and length (R795, R807). -/
def jRanges (l : List Byte) : List (Nat × Nat) :=
  (List.range (bits (jField l 0x24 4) 21 5)).map (fun i => (bits (jField l (0x180 + 16 * i) 8) 0 44, bits (jField l (0x188 + 16 * i) 8) 0 40))

/-- Every failed word lies within a declared range of the segment (R809). -/
def State.inRanges (s : State) (n : Nat) (words : List Nat) : Bool :=
  let rs := jRanges (s.readJournal n).1
  !words.isEmpty && words.all (fun w => rs.any (fun r => decide (r.1 ≤ 8 * w) && decide (8 * w + 8 ≤ r.1 + r.2)))

/-- A fault is one that the part replays (R809): a transient code, REPLAY_EN, a riser point, no abort in progress, and no squall stop recorded
before it (R817). `rerun` says that a SEAL_MISMATCH came with VERDICT RERUN. -/
def State.replayable (s : State) (n code : Nat) (words : List Nat) (rerun : Bool) : Bool :=
  s.bit .replayEn (ladleFlask n) && s.bit .hasRiser n && s.rd .ladleState n ≠ ladleAborting
    && ((Sp.get? s.heats n).bind (·.stopCode)) ≠ some cSquallStop
    && (code = cDatapathParity || code = cLinkLost || (code = cSealMismatch && rerun) || code = cCollDeferLimit || code = cCollAbandoned
      || (code = cThermalStop && !s.power.emergency) || ((code = cUeRead || code = cPoisonRead) && s.inRanges n words))

/-- A heat stops for its read fault, which is replayed (R809). -/
def State.heatReplays (s : State) (n : Nat) : Bool :=
  match Sp.get? s.heats n with
  | some h =>
    (match h.readFault with
      | some (code, words, _) => h.stopCode = some code && s.replayable n code words false
      | none => false)
  | none => false

/-- The part replays for a faulted pour (R809, R814): the ladle's attempt is under way already, or the fault is replayable. -/
def State.replays (s : State) (p : Pour) : Bool :=
  s.bit .replaying p.ladle || s.replayable p.ladle p.code p.failed (p.aux ≠ [])

/-- A read of the heat's own fails: it is recorded as the heat's cause, with its failed words and the piece mask (R537, R645, R809). -/
def State.heatReadFault (s : State) (n code : Nat) (words : List Nat) (detail : Nat := 0) : State :=
  match Sp.get? s.heats n with
  | none => s
  | some h =>
    (if h.stopCode.isNone then { s with heats := Sp.put s.heats n { h with readFault := some (code, words, detail) } } else s).stopHeat n code

/-- A write of a pass start is not accepted elsewhere: the heat stops with the code, which is its own fault, and its PASS_SEM stays (R520, R537,
R809). -/
def State.heatWriteLost (s : State) (n code : Nat) : State :=
  let s1 : State := match Sp.get? s.heats n with
    | some h => if h.stage = HeatStage.writing then { s with heats := Sp.put s.heats n { h with stage := .failed } } else s
    | none => s
  s1.heatReadFault n code []

end Sys2Proof.Machine
end

