-- ==== Sys2Proof/Machine/Checks.lean ====
section
/-!
DEFINITION. The checks of R170 made at dispatch, steps 1 to 4: the opcode, the reserved fields, the memory ranges from the planned
maxima, and the words read at SHAPE_ADDR (R123 to R172).
-/
namespace Sys2Proof.Machine

/-! ### Families (R144, R586) -/

/-- The unit that a pour goes to when it is dispatched (R144, R586): a FLIP is held in the dispatcher as a FENCE is, and enters the pattern
engine's queue after (R413). -/
def Pour.home (p : Pour) : PUnit :=
  let op := p.opcode
  if 1 ≤ op && op ≤ 5 then .array p.array
  else if op = 6 || op = 7 then .runner (p.subop % 32)
  else if op = 8 then .pattern
  else if op = 0x0A then .region (p.arrayX / 8)
  else if op = 0x0B then .fabric
  else .dispatcher

/-- OPCODE names a family (R144). -/
def knownOpcode (op : Nat) : Bool := decide (op ≤ 0x0F)

def Pour.isArray (p : Pour) : Bool := decide (1 ≤ p.opcode) && decide (p.opcode ≤ 5)
def Pour.isDispatcher (p : Pour) : Bool := p.opcode = 0 || decide (0x0C ≤ p.opcode)

/-- A ROW pour without output (R260). -/
def Pour.noOut (p : Pour) : Bool := p.opcode = 5 && p.subop.testBit 1

/-- A score pour that reads a mask word (R342). -/
def Pour.visitMask (p : Pour) : Bool := p.opcode = 1 && p.subop.testBit 0

/-- The mode of a MOVE: 0 TILES, 1 VISIT, 2 REGROUP (R588). -/
def Pour.moveMode (p : Pour) : Nat := p.subop / 32

/-- Pours that the queue of a unit holds: 8 of an array (R174), 16 of every other unit (QUEUED of RUNNER_STATUS_r holds 0 to 16; log
entry 18). -/
def queueSize : PUnit → Nat
  | .array _ => 8
  | _ => 16

/-- A unit's queue has room (R176); parked pours stand outside it (R542, R547). -/
def State.queueRoom (s : State) (u : PUnit) : Bool :=
  u = .dispatcher || decide (((s.unitPours u).filter (fun p => p.stage = .queued || p.stage = .released)).length < queueSize u)

/-! ### Row functions that the record's form depends on (R248, R263) -/

def fnPass : Nat := 0x00
def fnScaleBias : Nat := 0x10
def fnRowScale : Nat := 0x11
def fnSiluGate : Nat := 0x12
def fnRmsAcc : Nat := 0x20
def fnRmsApply : Nat := 0x21
def fnSumAcc : Nat := 0x22
def fnMaxAcc : Nat := 0x23
def fnSoftmax : Nat := 0x28
def fnAdd : Nat := 0x30
def fnMul : Nat := 0x31
def fnAddRmsAcc : Nat := 0x32
def fnGuidance : Nat := 0x38

/-- Row functions of two tiles (R263). -/
def twoTile (fn : Nat) : Bool := fn = fnAdd || fn = fnMul || fn = fnAddRmsAcc || fn = fnGuidance

/-- Row functions that use a frame (R248). -/
def usesFrame (fn : Nat) : Bool :=
  fn ∈ [fnScaleBias, fnRowScale, fnSiluGate, fnRmsAcc, fnRmsApply, fnSumAcc, fnMaxAcc, fnSoftmax, fnAddRmsAcc, fnGuidance]

/-! ### Step 2: reserved fields (R125, R126, R128 to R146) -/

/-- A number with the listed bit ranges cleared. -/
def clearBits (x : Nat) (l : List (Nat × Nat)) : Nat := l.foldl (fun x e => x - (bits x e.1 e.2 <<< e.1)) x

/-- The fields that every family has: CONTROL, SHAPE_REF, SYNC, TIME and TAG, as lowest bit and width. -/
def commonFields : List (Nat × Nat) := [(0, 39), (40, 12), (56, 8), (128, 44), (832, 64), (896, 64), (960, 16)]

/-- The PLAN word. -/
def planField : List (Nat × Nat) := [(64, 64)]

/-- A descriptor of an array pour (R130, R134). -/
def Pour.arrayDesc (p : Pour) (b : Nat) (out : Bool) : List (Nat × Nat) :=
  (if p.f (b + 57) 2 = srcMesh then [(b, 18), (b + 44, 17)] else [(b, 61)])
  ++ [(b + 64, 64), (b + 128, 5), (b + 136, 2), (b + 140, 18)]
  ++ (if out then [(b + 133, 2), (b + 138, 2), (b + 160, 32)] else [])

/-- A descriptor of a MOVE or FILL (R589, R590): a buffer operand's ADDR holds mesh coordinates. -/
def Pour.moveDesc (p : Pour) (b : Nat) (out : Bool) : List (Nat × Nat) :=
  (if p.f (b + 57) 2 = srcBuffer then [(b, 18), (b + 44, 17)] else [(b, 61)])
  ++ [(b + 96, 32), (b + 128, 5), (b + 136, 2), (b + 140, 18)] ++ (if out then [(b + 138, 2)] else [])

/-- ADDR, SRC and HINT of a descriptor. -/
def plainDesc (b : Nat) : List (Nat × Nat) := [(b, 44), (b + 57, 4)]

/-- The INIT word of an array pour (R139). -/
def Pour.initFields (p : Pour) : List (Nat × Nat) :=
  if p.biasSrc = 2 then [(768, 18), (812, 16)] else [(768, 60)]

/-- FAMILY_PARAM of a pour with row-function fields (R252). -/
def Pour.rowParam (p : Pour) : List (Nat × Nat) := (960 + 58, 1) :: (if usesFrame p.rowFn then [(960 + 48, 10)] else [])

/-- The fields of a pour record by family; every other bit is reserved. -/
def Pour.fields (p : Pour) : List (Nat × Nat) :=
  let abInit := p.arrayDesc bitA false ++ p.arrayDesc bitB false ++ p.initFields
  match p.opcode with
  | 0x1 => planField ++ abInit ++ p.arrayDesc bitOut true ++ p.rowParam
  | 0x2 => planField ++ abInit ++ p.arrayDesc bitOut true ++ [(960 + 16, 5)]
  | 0x3 => planField ++ abInit ++ p.arrayDesc bitOut true ++ p.rowParam ++ [(960 + 16, 32)]
  | 0x4 => planField ++ abInit ++ p.arrayDesc bitOut true ++ p.rowParam ++ [(960 + 16, 32)]
  | 0x5 => planField ++ p.arrayDesc bitA false ++ p.initFields ++ p.rowParam
      ++ (if twoTile p.rowFn || p.rowFn = fnRmsApply then p.arrayDesc bitB false else [])
      ++ (if p.noOut then [] else p.arrayDesc bitOut true)
  | 0x6 => planField ++ p.moveDesc bitA false ++ p.moveDesc bitOut true
      ++ (match p.moveMode with
        | 0 => [(960 + 16, 2)]
        | 1 => [(960 + 16, 23)]
        | 2 => [(960 + 16, 44)]
        | _ => [(960 + 16, 48)])
  | 0x7 => planField ++ [(bitB, 64)] ++ p.moveDesc bitOut true
  | 0x8 => planField ++ plainDesc bitA ++ (if p.param 24 3 = 0 then [] else plainDesc bitB)
      ++ plainDesc bitOut ++ [(bitOut + 64, 64), (bitOut + 128, 4), (768, 44), (960 + 16, 28)]
  | 0x9 => [(960 + 16, 8)]
  | 0xA => planField ++ plainDesc bitA ++ [(bitA + 128, 4)]
      ++ (if p.subop = 2 then [] else plainDesc bitB ++ [(bitB + 128, 4)])
      ++ plainDesc bitOut ++ [(bitOut + 128, 4), (768, 44)]
  | 0xB => planField ++ plainDesc bitA ++ plainDesc bitOut
      ++ (if p.subop.testBit 1 then (bitA + 96, 32) :: plainDesc bitB else []) ++ [(768, 7), (776, 24), (960 + 16, 46)]
  | 0xF => planField ++ [(bitA, 64), (bitOut, 44), (960 + 16, 26)]
  | _ => planField

/-- The SUBOP bits that are checked at step 2 (R191 to R195, R342, R603, R738, R794). -/
def Pour.subopOk (p : Pour) : Bool :=
  match p.opcode with
  | 0x1 => decide (p.subop ≤ 1)
  | 0x7 => decide (p.subop < 32)
  | 0xB => decide (p.subop < 4)
  | 0xC => p.subop = 0
  | 0xD => decide (p.subop ≤ 1)
  | 0xE => decide (p.subop ≤ 1)
  | 0xF => p.subop = 0
  | _ => true

/-- Step 2 of R170: reserved fields are zero, WAIT_COND and SIGNAL_OP included (R143), and SUBOP is legal. -/
def Pour.reservedOk (p : Pour) : Bool :=
  clearBits p.word.toNat (commonFields ++ p.fields) = 0 && decide (p.waitCond ≤ 1) && decide (p.signalOp ≤ 1) && p.subopOk

/-! ### Step 3: memory ranges (R162, R171) -/

/-- A memory range that a pour needs, with the right. -/
structure Range where
  addr : Nat
  len : Nat
  right : Right
deriving DecidableEq, Repr

/-- The range of the tiles below (rows, cols) of a MEMORY descriptor; a REMOTE range is the target's to check (R596), and a
descriptor of a reserved FORMAT has no tile size. -/
def Desc.range (d : Desc) (packed rows cols : Nat) (r : Right) : List Range :=
  if d.src ≠ srcMemory || d.remote || decide (6 < d.fmt) || d.haze = 3 || rows = 0 || cols = 0 then [] else
  [{ addr := (d.span packed rows cols).1, len := (d.span packed rows cols).2, right := r }]

/-- Bytes of the bias region (R140, R141). -/
def Pour.biasBytes (p : Pour) : Nat :=
  if p.initKind = 1 then 128 * ceilDiv p.nMax 32
  else if p.initKind = 2 then 4096 * (passesOf p.tileShape).length else 0

/-- The range of a MEMORY bias. -/
def Pour.biasRange (p : Pour) : List Range :=
  if p.biasSrc = 0 && p.biasBytes ≠ 0 then [{ addr := p.biasAddr, len := p.biasBytes, right := .read }] else []

/-- The words read at step 4, from SHAPE_ADDR: first byte and length (R153, R343, R362, R597). -/
def Pour.shapeSpan (p : Pour) : Nat × Nat :=
  let op := p.opcode
  if op = 3 || op = 4 then (if p.shapeSrc = 1 then (0, 32) else (8, 24))
  else if p.shapeSrc ≠ 1 then (0, 0)
  else if p.visitMask then (0, 16)
  else if op = 6 && p.moveMode = 1 then (0, 32)
  else (0, 8)

/-- The range that the words at SHAPE_ADDR need (R171, R343, R363). -/
def Pour.shapeRange (p : Pour) : List Range :=
  let n := p.shapeSpan.1 + p.shapeSpan.2
  if n = 0 then [] else [{ addr := p.shapeAddr, len := n, right := .read }]

/-- Tile rows and channel tiles of a REGROUP side: frames, width, height, channels in units of 32 (R366, R601). -/
def regroupRange (d : Desc) (frames w h c32 : Nat) (r : Right) : List Range :=
  d.range c32 (frames * h * ceilDiv w 32) c32 r

/-- The ranges of a collective for a member (R725, R742): its source when it contributes, and the destination that its rank
receives. -/
def collRanges (d : List Byte) (n rank src dst : Nat) : List Range :=
  let op := descField d 0 0 3
  let bytes := descField d 0 32 32
  let root := descField d 8 0 12
  let stride := descField d 8 12 12 + 1
  let sends := if op = 2 then rank % stride = 0 else if op = 3 then rank = root else true
  let shrink (x : Nat) : Nat := if descField d 0 5 1 = 0 && descField d 0 6 1 = 1 then x / 2 else x
  let out :=
    if op = 0 then shrink bytes else if op = 1 then shrink (bytes / n) else if op = 2 then ceilDiv n stride * bytes
    else if op = 3 then (if rank = root then 0 else bytes) else bytes
  (if sends then [{ addr := src, len := bytes, right := .read }] else [])
  ++ (if out = 0 then [] else [{ addr := dst, len := out, right := .write }])

/-- The read of a COLL pour's descriptor at dispatch, on which the ranges of its member depend (R742); none for gather lists, or for another pour. -/
def State.lookDesc (s : State) (p : Pour) : Fetch :=
  if p.opcode = 0xB && !p.subop.testBit 1 then s.readDesc p.flask p.collId else .fail 0 s

/-- The ranges of a COLL pour's member from a descriptor (R742). The descriptor is read again at acceptance, where the pour faults for a
descriptor or group that does not serve (R741, R786). -/
def State.memberRanges (s : State) (p : Pour) (desc : Option (List Byte)) : List Range :=
  match desc, s.groupOf p.flask p.groupId with
  | some d, some g =>
    let n := s.rd .groupMembers g + 1
    if s.descLegal d n then collRanges d n (s.rd .groupRank g) p.dA.addr p.dOut.addr else []
  | _, _ => []

/-- Every range of a pour from its planned maxima (R162, R171); those of a COLL without gather lists are its member's. The INIT word of a ROW pour
has no use that a chapter gives, and so no range (log entry 57). -/
def Pour.ranges (p : Pour) : List Range :=
  let mr := ceilDiv p.mMax 32
  let nr := ceilDiv p.nMax 32
  let kt := ceilDiv p.kMax 32
  let out (cols : Nat) : List Range := p.dOut.range nr mr cols .write
  p.shapeRange ++
  match p.opcode with
  | 0x1 => p.dA.range kt mr kt .read ++ p.dB.range kt nr kt .read ++ p.biasRange ++ out (if p.rowFn = fnSiluGate then 1 else nr)
  | 0x2 => p.dA.range kt mr kt .read ++ p.dB.range kt nr kt .read ++ p.biasRange ++ out nr
  | 0x3 => p.dB.range kt nr kt .read ++ p.biasRange ++ out nr
  | 0x4 => (if p.dB.src = srcMemory && p.kMax * p.nMax ≠ 0 then
        [{ addr := p.dB.addr, len := 4 * p.kMax * p.nMax, right := .read }] else []) ++ p.biasRange ++ out nr
  | 0x5 => p.dA.range nr mr nr .read
      ++ (if twoTile p.rowFn then p.dB.range nr mr nr .read
          else if p.rowFn = fnRmsApply && p.dB.src = srcMemory && p.nMax ≠ 0 then
            [{ addr := p.dB.addr, len := 4 * p.nMax, right := .read }] else [])
      ++ (if p.noOut then [] else out nr)
  | 0x6 =>
    (match p.moveMode with
      | 0 => p.dA.range nr mr nr .read ++ out nr
      | 2 =>
        let w := p.param 16 16
        let h := p.param 32 16
        let c := p.param 48 8
        let fw := 2 ^ p.param 56 2
        let fh := 2 ^ p.param 58 2
        regroupRange p.dA p.mMax w h (c * fw * fh) .read ++ regroupRange p.dOut p.mMax (fw * w) (fh * h) c .write
      | _ => [])
  | 0x7 => if p.dOut.src = srcMemory && !p.dOut.remote && p.kMax ≠ 0 then
      [{ addr := p.dOut.addr, len := 64 * p.kMax, right := .write }] else []
  | 0x8 =>
    (if p.kMax = 0 then [] else [{ addr := p.dA.addr, len := 4 * p.kMax, right := .read }])
    ++ (if p.param 24 3 = 0 || p.mMax = 0 then [] else [{ addr := p.dB.addr, len := 4 * p.mMax, right := .read }])
    ++ (if p.param 24 3 = 3 && p.kMax ≠ 0 then [{ addr := p.biasAddr, len := 4 * p.kMax, right := .read }] else [])
    ++ p.dOut.range nr mr nr .write
  | 0xA =>
    let rec_ (d : Desc) (size : Nat) (r : Right) : List Range := if p.nMax = 0 then [] else [{ addr := d.addr, len := size * p.nMax, right := r }]
    [{ addr := p.biasAddr, len := 64, right := .read }]
    ++ (match p.subop with
      | 1 => rec_ p.dA 32 .read ++ rec_ p.dOut 32 .write
      | 2 => rec_ p.dA 32 .read
      | 3 => rec_ p.dB 32 .read
      | 4 => rec_ p.dB 32 .read
      | _ => [])
  | 0xB => if p.subop.testBit 1 then
      let n := p.f (bitA + 96) 32
      [{ addr := p.dA.addr, len := 16 * n, right := .read }, { addr := p.dB.addr, len := 16 * n, right := .read }] else []
  | _ => []

/-! ### Region operations: the parameter block (R384 to R390, R397) -/

/-- The 32-bit word of a parameter block at a byte. -/
def blockWord (blk : List Byte) (off : Nat) : Nat := leNat ((blk.drop off).take 4)

/-- The geometry of crops and images (R388, R390): crop width and height, image width and height, channels, pitch, images, stride. -/
structure Images where
  cw : Nat
  ch : Nat
  w : Nat
  h : Nat
  c : Nat
  pitch : Nat
  count : Nat
  stride : Nat
deriving DecidableEq, Repr

def imagesOf (blk : List Byte) : Images :=
  { cw := bits (blockWord blk 0) 0 16, ch := bits (blockWord blk 0) 16 16, w := bits (blockWord blk 8) 0 16,
    h := bits (blockWord blk 8) 16 16, c := blockWord blk 0x0C, pitch := blockWord blk 0x10, count := blockWord blk 0x14,
    stride := leNat ((blk.drop 0x18).take 8) }

/-- Bytes of an element of a descriptor. -/
def Desc.elem (d : Desc) : Nat := elemBits d.fmt / 8

/-- Bytes of one crop (R390). -/
def Images.cropBytes (g : Images) (e : Nat) : Nat := g.ch * g.cw * g.c * e

/-- The range of the images (R390). -/
def Images.range (g : Images) (d : Desc) (r : Right) : List Range :=
  if g.count = 0 then [] else
  [{ addr := d.addr, len := (g.count - 1) * g.stride + (g.h - 1) * g.pitch + g.w * g.c * d.elem, right := r }]

/-- Bytes of the counts of an NMS, padded (R397). -/
def nmsCounts (m : Nat) : Nat := ceilDiv (4 * m) 32 * 32

/-- The ranges of a REGION pour that depend on its parameter block, for M and N (R388). -/
def Pour.regionRangesAt (p : Pour) (blk : List Byte) (m n : Nat) : List Range :=
  let g := imagesOf blk
  let crops (d : Desc) (r : Right) : List Range :=
    if n = 0 then [] else [{ addr := d.addr, len := n * g.cropBytes d.elem, right := r }]
  match p.subop with
  | 1 => if (blockWord blk 0x1C).testBit 0 || n = 0 then [] else [{ addr := p.dB.addr, len := 16 * n, right := .read }]
  | 2 => [{ addr := p.dOut.addr, len := nmsCounts m + 32 * m * blockWord blk 8, right := .write }]
  | 3 => g.range p.dA .read ++ crops p.dOut .write
  | 4 => crops p.dA .read ++ g.range p.dOut .read ++ g.range p.dOut .write
  | _ => []

/-- Those ranges from the planned maxima (R162, R388). -/
def Pour.regionRanges (p : Pour) (blk : List Byte) : List Range := p.regionRangesAt blk p.mMax p.nMax

/-! ### Step 4 and the outcome -/

/-- The outcome of steps 1 to 4 of R170: the pour with its run-time shape; a fault with its code, DETAIL and failed words; or a wait
for words of another part. -/
inductive Admit where
  | ok (p : Pour) (s : State)
  | fault (code detail : Nat) (failed : List Nat) (s : State)
  | wait (s : State)

/-- A 64-bit word of bytes. -/
def wordAt (l : List Byte) (i : Nat) : Nat := leNat ((l.drop (8 * i)).take 8)

/-- The input tensor of a CONV or DW pour as one range (R366, R367), from its first place word. -/
def Pour.tensorRange (p : Pour) (w8 : Nat) : List Range :=
  let cin := bits w8 48 16
  p.dA.range (cin / 32) (bits w8 32 16 * bits w8 16 16 * ceilDiv (bits w8 0 16) 32) (cin / 32) .read

/-- The pour with the shape and the further words that step 4 read (R152, R153, R343, R362, R597). -/
def Pour.withShape (p : Pour) (l : List Byte) : Pour :=
  let q := if p.shapeSpan.1 = 0 && p.shapeSpan.2 ≠ 0 then
      { p with m := bits (wordAt l 0) 0 16, n := bits (wordAt l 0) 16 16, k := bits (wordAt l 0) 32 32 } else p
  { q with words := (List.range (p.shapeSpan.2 / 8)).drop (if p.shapeSpan.1 = 0 then 1 else 0) |>.map (wordAt l) }

/-- The checks of a MARK (R236, R796), in order. -/
def State.admitMark (s : State) (p : Pour) : Admit :=
  let first := p.param 16 12
  let count := p.param 28 9
  let ranges := p.param 37 5
  let l := p.ladle % 4
  if decide (256 < count) || decide (16 < ranges) || !p.reservedOk then .fault cFormatInvalid 0 [] s
  else if s.pours.any (fun q => q.flask = p.flask && q.opcode = 2) then .fault cFormatInvalid 0 [] s
  else if s.rd .watchCount p.flask < first + count then .fault cQuotaExceeded 0 [] s
  else if s.rd .allotJournal p.flask < 8 * (l + 1) then .fault cQuotaExceeded 0 [] s
  else if ranges = 0 then .ok p s
  else if !s.allowed p.flask (p.f bitOut 44) (16 * ranges) .read then .fault cSegmentFault 0 [] s
  else
    let a := p.f bitOut 44
    match s.fetch { rq := rqPour, flask := p.flask } none
        [{ hint := s.hintOf p.flask a (16 * ranges) 0 .read, key := a, len := 16 * ranges }] with
    | .wait s1 => .wait s1
    | .fail c s1 => .fault c 0 [] s1
    | .got rs s1 =>
      let r := (rs[0]?).getD { bytes := [] }
      let ws := (List.range (2 * ranges)).map (wordAt r.bytes)
      if r.code ≠ 0 then .fault r.code r.detail (r.failedAt a) s1
      else if (List.range ranges).any (fun i => decide (2 ^ 44 ≤ ws.getD (2 * i) 0) || decide (2 ^ 40 ≤ ws.getD (2 * i + 1) 0)) then
        .fault cFormatInvalid 0 [] s1
      else .ok { p with words := ws } s1

/-- Step 9 of R170 (R154). -/
def Pour.overflows (p : Pour) : Bool := decide (p.mMax < p.m) || decide (p.nMax < p.n) || decide (p.kMax < p.k)

/-- Steps 6 and 9 of R170 for a pour that the dispatcher runs itself, which it accepts as it dispatches it (R51, R154, R172, R296): the code of
the first that fails, or 0. -/
def Pour.checkDispatcher (p : Pour) : Nat :=
  if !p.isDispatcher then cOK
  else if p.watchEn || (shapeOf p.tileShape).isNone then cFormatInvalid
  else if p.overflows then cShapeOverflow
  else cOK

/-- Step 4 of R170 and what follows it: the words at SHAPE_ADDR are read once (R153), from the address as it stands where it is no multiple
of 8 (log entry 57), the tensor that a place word describes lies in a segment (R363), and a dispatcher pour is accepted. -/
def State.readShape (s : State) (p : Pour) : Admit :=
  let accept (p : Pour) (s : State) : Admit := if p.checkDispatcher ≠ cOK then .fault p.checkDispatcher 0 [] s else .ok p s
  if p.shapeSpan.2 = 0 then accept p s
  else
    let a := p.shapeAddr + p.shapeSpan.1
    let n := p.shapeSpan.2
    match s.fetch { rq := rqPour, flask := p.flask } none [{ hint := s.hintOf p.flask a n 0 .read, key := a, len := n }] with
    | .wait s1 => .wait s1
    | .fail c s1 => .fault c 0 [] s1
    | .got rs s1 =>
      let r := (rs[0]?).getD { bytes := [] }
      let q := p.withShape r.bytes
      if r.code ≠ 0 then .fault r.code r.detail (r.failedAt a) s1
      else if (p.opcode = 3 || p.opcode = 4)
          && (q.tensorRange (q.words.getD 0 0)).any (fun x => !s1.allowed p.flask x.addr x.len x.right) then
        .fault cSegmentFault 0 [] s1
      else accept q s1

/-- Steps 2 to 4 of R170 at dispatch; those of a MARK come in the order of R796, before its shape word. -/
def State.passCheck (s : State) (p : Pour) : Admit :=
  if p.opcode = 0xF then
    (match s.admitMark p with
      | .ok q s1 =>
        if p.shapeRange.any (fun r => !s1.allowed p.flask r.addr r.len r.right) then .fault cSegmentFault 0 [] s1
        else
          (match s1.readShape { q with words := [] } with
            | .ok q2 s2 => .ok { q2 with words := q.words } s2
            | r => r)
      | r => r)
  else if !p.reservedOk then .fault cFormatInvalid 0 [] s
  else
    match s.lookDesc p with
    | .wait s1 => .wait s1
    | x =>
      if (p.ranges ++ s.memberRanges p x.desc).any (fun r => !s.allowed p.flask r.addr r.len r.right) then .fault cSegmentFault 0 [] x.after
      else x.after.readShape p

end Sys2Proof.Machine
end

