-- ==== Sys2Proof/Machine/Mesh.lean ====
section
/-!
DEFINITION. The mesh between arrays: what a receiver expects, credits, sending, discarding, and what a cancelled pour leaves behind
(R60 to R65, R207 to R234).
-/
namespace Sys2Proof.Machine

/-! ### What a pour expects from the mesh (R135, R164, R207, R215, R233) -/

/-- A pour without work: run-time M or N is zero (R156). -/
def Pour.zeroSize (p : Pour) : Bool := p.m = 0 || p.n = 0

/-- Bytes of the DESC_B region of a pour as it runs: tiles, or the packed vector of RMS_APPLY, of which a pour with N below N_MAX reads the gains of
its tiles (log entry 57), and of DW (R262, R263, R290). -/
def Pour.vectorB (p : Pour) : Option Nat :=
  if p.opcode = 4 then some (4 * p.k * p.nMax)
  else if p.opcode = 5 && p.rowFn = fnRmsApply then some (4 * min p.nMax (32 * ceilDiv p.n 32))
  else none

/-- Tile rows and tiles in a row of an operand as the pour runs (R160, R262). -/
def Pour.tilesA (p : Pour) : Nat × Nat :=
  if p.opcode = 5 then (ceilDiv p.m 32, ceilDiv p.n 32) else (ceilDiv p.m 32, ceilDiv p.k 32)

def Pour.tilesB (p : Pour) : Nat × Nat :=
  if p.opcode = 5 then (if twoTile p.rowFn then (ceilDiv p.m 32, ceilDiv p.n 32) else (0, 0))
  else (ceilDiv p.n 32, ceilDiv p.k 32)

/-- Tiles in a row of a buffer region, from the planned maxima (R53, R594). -/
def Pour.packed (p : Pour) : Nat := if p.opcode = 5 then ceilDiv p.nMax 32 else ceilDiv p.kMax 32

/-- An operand of a pour that comes over the mesh: its number (0 A, 1 B, 2 bias), the sending array, the items that the pour takes (for an MMC
the tiles along its run-time K, else the whole region of R48, R164, R209), the credits that it grants at c1 (R215), and the items that it discards
when the pour faults or runs nothing. -/
structure MeshNeed where
  operand : Nat
  src : Nat
  items : Nat
  credits : Nat
  discards : Nat
deriving DecidableEq, Repr

/-- Ring slots of an MMC (R210), and the size of one (R214). -/
def Pour.ringSlots (p : Pour) : Nat := p.param 16 4
def Pour.trailerOn (p : Pour) : Bool := p.opcode = 2 && p.param 20 1 = 1
def Pour.slotBytes (p : Pour) : Nat := ceilDiv (p.dA.tb + (if p.trailerOn then 256 else 0)) 64 * 64

/-- Tiles of the A and B regions of a pour, from its planned maxima (R48, R53, R262, R263, R290). -/
def Pour.regionTiles (p : Pour) : Nat × Nat :=
  let sh := (shapeOf p.tileShape).getD (0, 0)
  let tiles := ceilDiv p.mMax 32 * ceilDiv p.nMax 32
  (if p.opcode = 5 then tiles else sh.1 / 32 * ceilDiv p.kMax 32,
   if p.opcode = 4 then ceilDiv (4 * p.kMax * p.nMax) p.dB.tb
   else if p.opcode = 5 then (if p.rowFn = fnRmsApply then ceilDiv (4 * p.nMax) p.dB.tb else tiles)
   else sh.2 / 32 * ceilDiv p.kMax 32)

/-- The operands of a pour that come over the mesh (R135, R164, R207, R233). R233 counts the items to discard along K; for a bias, which has
no tiles along K, they are those of its region (log entry 31). -/
def Pour.meshNeeds (p : Pour) : List MeshNeed :=
  let kt := ceilDiv p.k 32
  let n := ceilDiv p.biasBytes 4096
  let a : List MeshNeed := if p.dA.src ≠ srcMesh then [] else
    [if p.opcode = 2 then { operand := 0, src := meshFirst p.dA.addr, items := kt, credits := p.ringSlots, discards := kt }
     else { operand := 0, src := meshFirst p.dA.addr, items := p.regionTiles.1, credits := p.regionTiles.1, discards := kt }]
  let b : List MeshNeed := if p.dB.src ≠ srcMesh then [] else
    [{ operand := 1, src := meshFirst p.dB.addr, items := p.regionTiles.2, credits := p.regionTiles.2, discards := kt }]
  let c : List MeshNeed := if p.opcode = 5 || p.initKind = 0 || p.biasSrc ≠ 2 then [] else
    [{ operand := 2, src := meshFirst p.biasAddr, items := n, credits := n, discards := n }]
  if p.isArray then a ++ b ++ c else []

/-- How many items of each operand have arrived. -/
def Pour.arrived (p : Pour) (i : Nat) : Nat := (p.aux[i]?).getD 0

/-- The region of every operand that comes over the mesh, apart from the A operand of an MMC, has arrived whole (R164, R209). -/
def Pour.meshComplete (p : Pour) : Bool :=
  p.meshNeeds.all (fun e => (p.opcode = 2 && e.operand = 0) || decide (e.items ≤ p.arrived e.operand))

/-- Whether an MMC pour has taken every tile along its run-time K. -/
def Pour.mmcDone (p : Pour) : Bool := decide (ceilDiv p.k 32 ≤ p.arrived 0)

/-- An item of an operand was an empty marker (R230). -/
def Pour.isEmpty (p : Pour) (operand i : Nat) : Bool := (operand, i) ∈ p.empties

/-! ### Credits and sending (R215 to R219) -/

/-- Array `recv` grants `n` credits to a sender; they travel back on the mesh (R217). -/
def State.grant (s : State) (recv src n : Nat) : State :=
  s.onArray src (fun r => { r with inbox := r.inbox ++ List.replicate n (recv, 0, .credit) })

/-- The credits that a pour grants at c1: one for each ring slot of an MMC, else one for each tile of the region (R215). -/
def State.grantAll (s : State) (p : Pour) : State :=
  p.meshNeeds.foldl (fun (s : State) e => s.grant p.array e.src e.credits) s

/-- Credits that an array granted to a sender are void: the pour that granted them takes no further item (R234; log entry 31). -/
def State.voidCredits (s : State) (recv src : Nat) : State :=
  s.onArray src (fun r => { r with credits := Sp.put r.credits recv 0, inbox := r.inbox.filter (fun e => !(e.1 = recv && e.2.2 = .credit)) })

/-- The items of a sender that are on their way to an array. -/
def State.onTheWay (s : State) (recv src : Nat) : Nat :=
  ((s.array recv).inbox.filter (fun e => e.1 = src && e.2.2 ≠ .credit)).length

/-- A receiver's pour has faulted or runs nothing: its array discards every item still to come, and the sender holds a credit for each
that it has not sent (R233). -/
def State.startDiscard (s : State) (p : Pour) : State :=
  p.meshNeeds.foldl (fun (s : State) e =>
    let s1 := s.onArray p.array (fun r => { r with discard := Sp.modify r.discard e.src 0 (· + (e.discards - p.arrived e.operand)) })
    (s1.voidCredits p.array e.src).grant p.array e.src (Sp.getD (s1.array p.array).discard e.src 0 - s1.onTheWay p.array e.src)) s

/-- Send what an array's router holds, in order, as far as every receiver of the next item has granted a credit; a multicast takes
one from each (R218). -/
def State.flushFrom : Nat → Nat → State → State
  | 0, _, s => s
  | fuel + 1, a, s =>
    let r := s.array a
    match r.outbox with
    | [] => s
    | (pid, dests, item) :: rest =>
      if dests.all (fun d => 1 ≤ Sp.getD r.credits d 0) then
        let s1 := s.setArray a { r with outbox := rest, credits := dests.foldl (fun c d => Sp.modify c d 0 (· - 1)) r.credits }
        State.flushFrom fuel a (dests.foldl (fun (s : State) d => s.onArray d (fun x => { x with inbox := x.inbox ++ [(a, pid, item)] })) s1)
      else s

def State.flush (s : State) (a : Nat) : State := State.flushFrom (s.array a).outbox.length a s

/-- The arrays of a MESH destination. -/
def Pour.dests (p : Pour) : List Nat := if p.isArray && !p.noOut && p.dOut.src = srcMesh then meshSegment p.dOut.addr else []

/-- An array hands an item of a pour to its router, for the arrays listed (R220). -/
def State.sendTo (s : State) (p : Pour) (dests : List Nat) (item : MeshItem) : State :=
  if dests.isEmpty then s else
  (s.onArray p.array (fun r => { r with outbox := r.outbox ++ [(p.id, dests, item)] })).flush p.array

/-- A pour hands an item to its array's router. -/
def State.sendItem (s : State) (p : Pour) (item : MeshItem) : State := s.sendTo p p.dests item

/-- A pour of an array has issued its last read of its buffer regions (R47): all its passes, or every tile along K of an MMC. -/
def Pour.readsDone (p : Pour) : Bool :=
  p.zeroSize || (if p.opcode = 2 then p.mmcDone && p.stage = .running else decide ((passesOf p.tileShape).length ≤ p.progress))

/-- Some item of a pour is still on its way to a receiver (R1071). -/
def State.sending (s : State) (p : Pour) : Bool :=
  (s.array p.array).outbox.any (fun e => e.1 = p.id)
    || s.arrays.any (fun e => e.2.inbox.any (fun i => i.2.1 = p.id && i.2.2 ≠ .credit))

/-- What a receiver takes next from a sender: the first item of a kind before which the sender has sent it no other that waits (R65).
The state comes without it. -/
def State.takeItem (s : State) (a : Nat) (kind : MeshItem → Bool) : Option (Nat × MeshItem × State) :=
  let ib := (s.array a).inbox
  let first (i : Nat) (e : Nat × Nat × MeshItem) : Bool :=
    kind e.2.2 && !(ib.take i).any (fun x => x.1 = e.1 && ((x.2.2 = .credit) == (e.2.2 = .credit)))
  match ib.zipIdx.find? (fun e => first e.2 e.1) with
  | none => none
  | some (e, i) => some (e.1, e.2.2, s.onArray a (fun r => { r with inbox := ib.eraseIdx i }))

/-- The pour on an array that takes an item from a sender, with the number of its operand: the oldest that runs or loads and still
expects one (A before B before the bias). The A operand of an MMC waits until the pour runs (R213). -/
def State.receiver (s : State) (a src : Nat) : Option (Pour × Nat) :=
  let ready := s.pours.filter (fun p => p.unit = .array a && (p.stage = .loading || p.stage = .running))
  ready.findSome? (fun p =>
    (p.meshNeeds.find? (fun e => !p.zeroSize && e.src = src && decide (p.arrived e.operand < e.items)
      && !(p.opcode = 2 && p.stage = .loading && e.operand = 0))).map (fun e => (p, e.operand)))

/-- The banks that a pour of an array uses (R52, R158); a DW or ROW pour runs on the row unit and uses none. -/
def Pour.banksUsed (p : Pour) : List Nat := if p.opcode = 4 || p.opcode = 5 then [] else (p.passes.map p.passBank).eraseDups

/-- A sender that faults, at dispatch, at c1 or while it runs, sends a break after its last item to every receiver of a legal destination
segment (R208, R231); it waits behind what the router holds (R219) and leaves at the pour's end, ahead of what later pours send (log entry 57). A
pour that has not passed c1 sends none over a fenced router (R72), and one in progress does (R69; log entry 57). -/
def State.sendBreak (s : State) (p : Pour) : State :=
  let open_ (d : Nat) : Bool := p.begun || !(meshRoute p.array d).any s.routeFenced
  if p.isArray && meshLegal p.dOut.addr then s.sendTo p (p.dests.filter (fun d => d ≠ p.array && open_ d)) (.brk p.code) else s

/-- The bank that a pour holds or was to read is free again: its own, held since it ran, or the one that a ROW pour in progress reads. -/
def Pour.freesHeld (p : Pour) (r : ArrayRt) : Bool :=
  (p.opcode = 5 && p.dA.src = srcBank && (p.stage = .loading || p.stage = .running))
    || (p.opcode ≠ 5 && p.dOut.src = srcBank && p.stage = .ran && r.heldBy = p.ladle)

/-- What an array pour that is cancelled after c0 gives back (R203, R552): a pour that has faulted, or that runs, has no bank of its own any more,
and one that has run gives back its drained banks; a faulted sender sends its break (R231), and of any other what it has not sent and what is on its
way from it is gone without a break; the credits it granted are void, and what its array is still to discard stays (R233; log entry 57). -/
def State.releaseArray (s : State) (p : Pour) : State :=
  if !p.isArray || p.stage = .queued || p.stage = .released then s else
  let s1 := if p.stage = .faulted then s.sendBreak p else
    let t := s.onArray p.array (fun r =>
      { r with claimed := if p.stage = .ran then r.claimed.filter (fun b => b ∉ p.banksUsed) else r.claimed,
               held := if p.freesHeld r then none else r.held,
               outbox := r.outbox.filter (fun e => e.1 ≠ p.id) })
    { t with arrays := t.arrays.map (fun e =>
      (e.1, { e.2 with inbox := e.2.inbox.filter (fun i => i.2.1 ≠ p.id || i.2.2 = .credit) })) }
  if p.stage = .faulted then s1 else p.meshNeeds.foldl (fun (s : State) e => s.voidCredits p.array e.src) s1

/-! ### Outputs that a cancelled pour leaves undefined (R553) -/

/-- The tiles of an output below the run-time shape, as first byte of each tile row in memory and offset of each in a buffer, with their
number: a pour of an array, TILES and REGROUP. -/
def Pour.outRows (p : Pour) : List (Nat × Nat × Nat) :=
  let d := p.dOut
  let nr := ceilDiv p.nMax 32
  if p.opcode = 6 && p.moveMode = 2 then
    let c := p.param 48 8
    let groups := ceilDiv (2 ^ p.param 56 2 * p.param 16 16) 32
    (List.range (p.m * (2 ^ p.param 58 2 * p.param 32 16) * groups)).map (fun r => (d.tileAddr c r 0, 0, c))
  else
    let cols := if p.rowFn = fnSiluGate then min 1 (ceilDiv p.n 32) else ceilDiv p.n 32
    (List.range (ceilDiv p.m 32)).map (fun r => (d.tileAddr nr r 0, d.tileOff nr r 0, cols))

/-- The buffer regions that a pour writes as it runs: array, store, first byte and length. -/
def Pour.bufferOut (p : Pour) : List (Nat × Nat × Nat × Nat) :=
  let d := p.dOut
  if d.src ≠ srcBuffer || p.noOut then []
  else if p.isArray then p.outRows.map (fun r => (p.array, d.bufSel, r.2.1, r.2.2 * d.tb))
  else if p.opcode = 6 then
    (meshSegment d.addr).flatMap (fun a =>
      if p.moveMode = 1 then
        let n := if p.param 22 1 = 1 then 1024 * (p.param 30 1 + 1) else p.param 26 4 * (1024 * (p.param 30 1 + 1))
        [(a, d.bufSel, d.bufOff + p.shapeAddr / 32 % p.param 31 8 * n, n)]
      else p.outRows.map (fun r => (a, d.bufSel, r.2.1, r.2.2 * d.tb)))
  else if p.opcode = 7 then (meshSegment d.addr).map (fun a => (a, d.bufSel, d.bufOff, 64 * p.k))
  else []

/-- The ranges of local memory that a pour writes as it runs, first byte and length. The tile rows that a GATHER has accepted stand, and the
others are not written (R434). A COLL pour keeps its destination pieces in its words. -/
def Pour.memoryOut (p : Pour) : List (Nat × Nat) :=
  let d := p.dOut
  if p.opcode = 0xA then
    ((p.regionRanges ((p.parts[0]?).getD [])).filter (fun r => r.right = .write)).map (fun r => (r.addr, r.len))
    ++ (if p.subop = 1 then [(d.addr, 32 * p.n)] else [])
  else if p.opcode = 0xB then
    (p.words.zip p.words.tail).zipIdx.filterMap (fun e => if e.2 % 2 = 0 then some (e.1.1, e.1.2) else none)
  else if d.src ≠ srcMemory || p.noOut || d.remote || p.opcode = 8 then []
  else if p.opcode = 7 then [(d.addr, 64 * p.k)]
  else p.outRows.map (fun r => (r.1, r.2.2 * d.mb))

/-- Bytes of local memory or of an array store become undefined, word by word. -/
def State.forgetMem (s : State) (a len : Nat) : State :=
  if farKey a || len = 0 then s else
  (List.range ((a + len - 1) / 8 + 1 - a / 8)).foldl (fun (s : State) i => { s with mem := s.mem.forget (a / 8 + i) }) s
def State.forgetStore (s : State) (arr sel off len : Nat) : State :=
  s.onStore arr sel (fun st => (List.range (ceilDiv (off % 8 + len) 8)).foldl (fun (st : Store) i => st.forget (off / 8 + i)) st)

/-- A pour that had begun and that writes an output. -/
def Pour.writes (p : Pour) : Bool :=
  (p.isArray || (decide (6 ≤ p.opcode) && p.opcode ≠ 9 && decide (p.opcode ≤ 0xB))) && p.begun && (p.opcode = 0xB || !p.zeroSize)

/-- The outputs of a cancelled pour that had begun become undefined (R553): their words are as if never written. -/
def State.undefineOutput (s : State) (p : Pour) : State :=
  if !p.writes then s else
  let s1 := p.memoryOut.foldl (fun (s : State) r => s.forgetMem r.1 r.2) s
  p.bufferOut.foldl (fun (s : State) r => s.forgetStore r.1 r.2.1 r.2.2.1 r.2.2.2) s1

end Sys2Proof.Machine
end

