-- ==== Sys2Proof/Machine/Slots.lean ====
section
/-!
DEFINITION. The version slots of pattern tables: their fields, binding and retirement (R410 to R417).
-/
namespace Sys2Proof.Machine

/-- The fields of slot A (0) or B (1) of a table. -/
def slotState (slot : Nat) : FKind := if slot = 0 then .tableStateA else .tableStateB
def slotInflight (slot : Nat) : FKind := if slot = 0 then .tableInflightA else .tableInflightB
def slotGen (slot : Nat) : FKind := if slot = 0 then .tableGenA else .tableGenB
def slotBase (slot : Nat) : FKind := if slot = 0 then .tableBaseA else .tableBaseB

/-- States of a slot (R411). -/
def slRetired : Nat := 0
def slCurrent : Nat := 1
def slRetiring : Nat := 2

/-- A retiring slot without a GATHER in flight retires, and may signal RETIRE_SEM of the owner (R414, R415). -/
def State.retireSlot (s : State) (n slot : Nat) : State :=
  if s.rd (slotState slot) n = slRetiring && s.rd (slotInflight slot) n = 0 then
    let s1 := s.wr (slotState slot) n slRetired
    if s.bit .tableRetireSigEn n then s1.semAdd (s.rd .tableOwner n) (s.rd .tableRetireSem n) 1 else s1
  else s

/-- A GATHER leaves its slot (R412). -/
def State.unbindSlot (s : State) (n slot : Nat) : State :=
  (s.wr (slotInflight slot) n (s.rd (slotInflight slot) n - 1)).retireSlot n slot

end Sys2Proof.Machine
end

