-- ==== Sys2Proof/Machine/Ladle.lean ====
section
/-!
DEFINITION. Ladles, heats, time-slicing of arrays, abort and flask reset (R487 to R560, R1074 to R1078).
-/
namespace Sys2Proof.Machine

/-! ### Dispatch -/

/-- The address of record `i` of ladle `n` (R491). -/
def State.recordAddr (s : State) (n i : Nat) : Nat :=
  s.base .ladleBaseLo .ladleBaseHi 12 n + (i % 2 ^ s.rd .ladleSizeLog2 n) * 128

/-- The arrays whose ownership a pour needs: its own array, the arrays that a MOVE or FILL names as buffer source or
destination, or the reduce arrays of a COLL (R539, R591, R780). -/
def Pour.needsArrays (p : Pour) : List Nat :=
  let op := p.opcode
  if 1 ≤ op && op ≤ 5 then [p.array]
  else if op = 6 || op = 7 then
    let src := if op = 6 && p.f (192 + 57) 2 = 1 then [arrayIndex (p.f 192 5) (p.f 197 4)] else []
    let dst := if p.f (576 + 57) 2 = 1 then meshSegment (p.f 576 44) else []
    src ++ dst
  else p.reduceArrays

/-- An array is owned by a flask that is eligible (R538, R539). -/
def State.ownedBy (s : State) (a f : Nat) : Bool :=
  s.bit .arrayOwned a && s.rd .arrayOwnerFlask a = f && s.derived .flaskEligible f = 1

/-- The pours of a source that hold it: dispatcher pours of the ladle (source 3) or of the section of its heat; a MARK of
a heat holds every section (R797). -/
def State.sourceHeld (s : State) (n source : Nat) : Bool :=
  s.pours.any (fun p => p.ladle = n && p.unit = .dispatcher &&
    (match p.heat with
      | none => source = 3
      | some h => h.sec = source || p.opcode = 0xF))

/-- The pour that a source of a ladle would dispatch from record bits. -/
def State.newPour (s : State) (n index : Nat) (heat : Option HeatPos) (w : BitVec 1024) : Pour :=
  let p : Pour := { id := s.nextPour, flask := ladleFlask n, ladle := n, index := index, heat := heat, word := w,
                    unit := .dispatcher }
  { p with unit := p.home, m := p.mMax, n := p.nMax, k := p.kMax }

/-- Note that a source of a ladle waits for arrays, since when. -/
def State.noteWaits (s : State) (n source : Nat) (arrays : List Nat) : State :=
  s.onLadle n (fun r =>
    let old := r.waits
    let new := arrays.filter (fun a => !old.any (fun w => w.1 = source && w.2.1 = a))
    { r with waits := old ++ new.map (fun a => (source, a, s.now)) })

/-- The outcome of a dispatch: dispatched, or held with a note of why. -/
inductive Dispatch where
  | sent (s : State)
  | held (s : State)

/-- Dispatch one pour: held while its flask is not eligible, while an array it needs is not its flask's, or while its queue is full (R176,
R539); else steps 1 to 4 of R170, and the pour enters its queue, or a faulted pour is left for POUR_FAULT. -/
def State.dispatch (s : State) (p : Pour) (source : Nat) : Dispatch :=
  let enter (s : State) (p : Pour) : State :=
    let s1 := s.onLadle p.ladle (fun r =>
      { r with waits := r.waits.filter (fun w => w.1 ≠ source), ended := if p.heat.isNone then r.ended.filter (· ≠ p.index) else r.ended })
    let s2 : State := { s1 with pours := s1.pours ++ [{ p with since := s.now }], nextPour := s1.nextPour + 1 }
    if p.flask = s2.rd .probeActFlask then s2.pulse 3 12 else s2
  let faulted (s : State) (code detail : Nat) (failed : List Nat) : Dispatch :=
    .sent (enter s { p with unit := .dispatcher, stage := .faulted, code := code, detail := detail, failed := failed })
  let missing := p.needsArrays.filter (fun a => !s.ownedBy a p.flask)
  if s.derived .flaskEligible p.flask ≠ 1 then .held (s.noteWaits p.ladle source missing)
  else if !knownOpcode p.opcode then faulted s cOpcodeInvalid 0 []
  else
    if !missing.isEmpty then .held (s.noteWaits p.ladle source missing)
    else if !s.queueRoom p.unit then .held s
    else
      match s.passCheck p with
      | .ok q s1 => .sent (enter s1 q)
      | .fault c d l s1 => faulted s1 c d l
      | .wait s1 => .held s1

/-- A ladle may dispatch its next record: READY, the flask runs, the ladle ACTIVE with a record below TAIL, no heat, no card,
no dispatcher pour and no replay that hold it (R489, R500, R508, R556). -/
def State.ladleMay (s : State) (n : Nat) : Bool :=
  s.ready && decide (n < 256) && s.flaskRuns (ladleFlask n) && s.rd .ladleState n = ladleActive
    && s.rd .ladleHead n ≠ s.rd .ladleTail n && (Sp.get? s.heats n).isNone && (s.ladle n).card.isNone
    && !s.sourceHeld n 3 && !s.bit .replaying n

/-- Dispatcher reads that may not happen now: the stack drains (R1070), or no memory answers there. -/
def State.readHeld (s : State) (a len : Nat) : Bool := !s.present a len || (!farKey a && s.drains a len)

/-- The record of a ladle at an index, once it has been read (R496). -/
def State.recordRead (s : State) (n i : Nat) : Option (BitVec 1024) :=
  match (s.ladle n).record with
  | some (j, w) => if j = i then some w else none
  | none => none

/-- Dispatch the pour record of a ladle at HEAD; a record that is held is not read again (R496). -/
def State.dispatchRecord (s : State) (n head : Nat) (w : BitVec 1024) : State :=
  match s.dispatch (s.newPour n head none w) 3 with
  | .sent s1 => (s1.wr .ladleHead n (head + 1)).onLadle n (fun r => { r with record := none })
  | .held s1 => s1.onLadle n (fun r => { r with record := some (head, w) })

/-- LADLE_RECORD_DISPATCH (R496, R498, R499, R1076, R1077): the record at HEAD is dispatched as a pour, or with its
successor as a heat card that HEAT_CARD then checks. -/
def execLadleRecordDispatch (n : Nat) (s : State) : Host.Outcome State Fault Refusal :=
  let f := ladleFlask n
  let head := s.rd .ladleHead n
  let who : Who := { rq := rqPour, flask := f }
  -- a record whose read failed, the first or the second from HEAD, ends with OPCODE 0 and TAG 0 (R645, R1076)
  let readFault (s : State) (count : Nat) (r : RdRes) : State :=
    let s1 := s.wr .ladleHead n (head + count)
    let index := (head + count - 1) % 2 ^ 32
    ((s1.noteEnded n index).complete
      { status := r.code, tag := 0, index := index, kind := 0, ladle := n, opcode := 0, detail := r.detail }).stopLadle n r.code 0
  done (
    if !s.ladleMay n then s else
    match s.recordRead n head with
    | some w => s.dispatchRecord n head w
    | none =>
    if s.readHeld (s.recordAddr n head) 128 then s else
    match s.fetch who none [{ key := s.recordAddr n head, len := 128 }] with
    | .wait s1 => s1
    | .fail _ s1 => s1
    | .got rs s1 =>
      let r := (rs[0]?).getD { bytes := [] }
      let second := s.recordAddr n (head + 1)
      if r.code ≠ 0 then readFault s1 1 r
      else if (r.bytes.take 1) = [0xC0] then
        if sub32 (s.rd .ladleTail n) head < 2 || s.readHeld second 128 then s else
        match s1.fetch who none [{ key := second, len := 128 }] with
        | .wait s2 => { s with tc2 := s2.tc2, tc2Next := s2.tc2Next, ports := s2.ports }
        | .fail _ _ => s
        | .got rs2 s2 =>
          let r2 := (rs2[0]?).getD { bytes := [] }
          if r2.code ≠ 0 then readFault s2 2 r2
          else
            (s2.wr .ladleHead n (head + 2)).onLadle n (fun x =>
              { x with card := some (head, BitVec.ofNat 2048 (leNat (r.bytes ++ r2.bytes))), ended := x.ended.filter (· ≠ head) })
      else
        s1.dispatchRecord n head (BitVec.ofNat 1024 (leNat r.bytes)))

/-! ### Heats -/

/-- A field of a heat card (R515). -/
def cardF (c : BitVec 2048) (byte lo w : Nat) : Nat := bits c.toNat (8 * byte + lo) w

def cardBranches (c : BitVec 2048) : Nat := cardF c 0 16 1
def cardFirst (c : BitVec 2048) : Nat := cardF c 0 32 12
def cardCount (c : BitVec 2048) : Nat := cardF c 0 44 13
def cardTable (c : BitVec 2048) : Nat := cardF c 8 0 44
def cardBlock (c : BitVec 2048) : Nat := cardF c 0x10 0 44
def cardProg (c : BitVec 2048) (sec : Nat) : Nat := cardF c (0x20 + 16 * sec) 0 44
def cardProgCount (c : BitVec 2048) (sec : Nat) : Nat := cardF c (0x28 + 16 * sec) 0 32
def cardDest (c : BitVec 2048) (i : Nat) : Nat := cardF c (0x50 + 16 * i) 0 44
def cardBytes (c : BitVec 2048) (i : Nat) : Nat := cardF c (0x58 + 16 * i) 0 24
def cardTag (c : BitVec 2048) : Nat := cardF c 0x90 0 16

/-- The bits of a heat card that hold a field of R515: every other bit is reserved. -/
def cardFieldBits : List (Nat × Nat) :=
  [(0, 8), (16, 5), (32, 12), (44, 13), (64, 44), (128, 44), (192, 18), (224, 32),
   (256, 44), (320, 32), (384, 44), (448, 32), (512, 44), (576, 32),
   (640, 44), (704, 24), (768, 44), (832, 24), (896, 44), (960, 24), (1024, 44), (1088, 24), (1152, 16), (1168, 32)]

/-- The format checks of a heat card (R499, R517). -/
def cardFormatOk (c : BitVec 2048) (index : Nat) : Bool :=
  index % 2 = 0 && clearBits c.toNat cardFieldBits = 0
    && decide (1 ≤ cardCount c) && decide (cardCount c ≤ 4096) && decide (cardFirst c < cardCount c)
    && cardTable c % 64 = 0 && cardBlock c % 128 = 0 && (List.range 3).all (fun i => cardProg c i % 128 = 0)
    && (List.range 4).all (fun i => cardBytes c i % 64 = 0)
    && cardProgCount c 0 ≠ 0 && (if cardBranches c = 1 then cardProgCount c 1 ≠ 0 else cardProgCount c 1 = 0)

/-- The segment checks of a heat card (R518). -/
def State.cardAllowed (s : State) (f : Nat) (c : BitVec 2048) : Bool :=
  s.allowed f (cardTable c + 64 * cardFirst c) (64 * (cardCount c - cardFirst c)) .read
    && (List.range 3).all (fun i => cardProgCount c i = 0 || s.allowed f (cardProg c i) (128 * cardProgCount c i) .read)
    && s.allowed f (cardBlock c) 128 .write
    && (List.range 4).all (fun i => cardBytes c i = 0 || s.allowed f (cardDest c i) (cardBytes c i) .write)

/-- A heat ends at the retire point: its completion record of KIND heat, and a status other than OK stops the ladle (R501,
R506, R519, R536). -/
def State.endHeat (s : State) (n index status pass sec tag : Nat) (detail : Nat := 0) : State :=
  let s1 := { s with heats := Sp.del s.heats n }
  let s2 := ((s1.clr .heatStopPending n).onLadle n (fun r => { r with waits := r.waits.filter (fun w => w.1 = 3) })).noteEnded n index
  let hp : HeatPos := { pass := pass, sec := sec, prog := 0 }
  let s3 := s2.complete
    { status := status, tag := tag, index := index, kind := 1, ladle := n, heat := some hp, opcode := 0xC0, detail := detail }
  if status = cOK then s3 else s3.stopLadle n status tag

/-- HEAT_CARD (R517 to R519): the card read at dispatch is checked; it starts a heat, or faults. -/
def execHeatCard (n : Nat) (s : State) : Host.Outcome State Fault Refusal :=
  done (match (s.ladle n).card with
    | none => s
    | some (index, c) =>
      let s1 := s.onLadle n (fun r => { r with card := none })
      if !cardFormatOk c index then s1.endHeat n index cFormatInvalid (cardFirst c) 3 (cardTag c)
      else if !s1.cardAllowed (ladleFlask n) c then s1.endHeat n index cSegmentFault (cardFirst c) 3 (cardTag c)
      else
        ({ s1 with heats := Sp.put s1.heats n { card := c, index := index, pass := cardFirst c } }).wr .heatPass n (cardFirst c)
          |>.wr .heatSection n 3)

/-- A section has reached its last record. -/
def Heat.sectionDone (h : Heat) (sec : Nat) : Bool :=
  match h.sections[sec]? with
  | some x => decide (cardProgCount h.card sec ≤ x.pos)
  | none => true

/-- The pass under way is complete: dispatched whole, its block written, and every pour of the heat ended (R520, R1078). -/
def State.passDone (s : State) (n : Nat) (h : Heat) : Bool :=
  h.stage = .running && (List.range 3).all h.sectionDone && (s.heatPours n).isEmpty

/-- PASS_DONE of a pass (R520). -/
def State.passEvent (s : State) (n : Nat) (h : Heat) : State :=
  if cardF h.card 0 19 1 = 1 then s.event { event := 0x04, ladle := n, tag := cardTag h.card, pass := some h.pass } else s

/-- HEAT_PASS_START (R520): the previous pass is complete; PASS_DONE is written, and once the gate holds PASS_SEM is set to 0 and
dispatch of the pass begins. -/
def execHeatPassStart (n : Nat) (s : State) : Host.Outcome State Fault Refusal :=
  let f := ladleFlask n
  done (match Sp.get? s.heats n with
    | none => s
    | some h =>
      if h.stopCode.isSome || !s.ready || s.bit .replaying n || !s.flaskRuns f || s.cutCovers n h.index then s else
      -- the previous pass completes
      let adv : Option (Heat × State) :=
        if h.stage = .betweenPasses then some (h, s)
        else if s.passDone n h && decide (h.pass + 1 < cardCount h.card) then
          let s1 := s.passEvent n h
          let h1 := { h with pass := h.pass + 1, stage := .betweenPasses }
          some (h1, ({ s1 with heats := Sp.put s1.heats n h1 }).wr .heatPass n h1.pass |>.wr .heatSection n 3)
        else none
      match adv with
      | none => s
      | some (h1, s1) =>
        if cardF h1.card 0 18 1 = 1
            && !semGe (s1.rd .sem (64 * f + cardF h1.card 0x18 0 6)) (cardF h1.card 0x18 32 32 + h1.pass) then s1
        else
          let s2 := s1.semSet f (cardF h1.card 0x18 12 6) 0
          let h2 : Heat := { h1 with stage := .passBlock, started := true, sections := List.replicate 3 {} }
          { s2 with heats := Sp.put s2.heats n h2 })

/-- The source of conditioning copy i as a range to read. -/
def State.copySpan (s : State) (f : Nat) (c : BitVec 2048) (ptr : Nat → Nat) (i : Nat) : Span :=
  { hint := s.hintOf f (ptr i) (cardBytes c i) 0 .read, key := ptr i, len := cardBytes c i }

/-- What the copies of a pass came to: made, waiting for a source on another part, or failed with a code, the failed words and
the piece mask. -/
inductive Copied where
  | done (s : State)
  | wait (s : State)
  | fail (code : Nat) (words : List Nat) (detail : Nat) (s : State)

/-- The conditioning copies of a pass, one after the other (R520, R522, R525): each source is checked for read rights before it is
read, as the segment table stands for the pass start, and failed words land poisoned (R643). -/
def State.passCopies (s : State) (who : Who) (c : BitVec 2048) (ptr : Nat → Nat) (mayRead : Nat → Bool) : List Nat → Copied
  | [] => .done s
  | i :: r =>
    if !mayRead i then .fail cSegmentFault [] 0 s else
    match s.fetch who none [s.copySpan who.flask c ptr i] with
    | .wait s1 => .wait s1
    | .fail code s1 => .fail code [] 0 s1
    | .got rs s1 =>
      let x := (rs[0]?).getD { bytes := [] }
      match s1.putBytes who none (s1.hintOf who.flask (cardDest c i) (cardBytes c i) 0 .write) (cardDest c i) x.bytes
          ((x.failed.map (spoiltData (ptr i) (cardBytes c i))).flatten.eraseDups) with
      | .error code => .fail code [] 0 s1
      | .ok s2 =>
        if x.code ≠ 0 then .fail x.code (x.failedAt (ptr i)) x.detail s2 else State.passCopies s2 who c ptr mayRead r

/-- The pass start of a heat is through: every write of it has been accepted, and PASS_SEM is incremented (R520). -/
def State.openPass (s : State) (n : Nat) (h : Heat) : State :=
  if s.tc2.any (fun q => q.ladle = some n && q.op = 0x82) then s
  else ({ s with heats := Sp.modify s.heats n h (fun x => { x with stage := .running }) }).semAdd (ladleFlask n) (cardF h.card 0x18 12 6) 1

/-- PASS_BLOCK_READY (R520 to R522, R525, R536): the row is read and copied into the pass block with PASS and the time, the enabled
copies are made, and once every write has been accepted PASS_SEM is incremented. A stop of the heat keeps none of it back, because the pours
that wait for PASS_SEM run to their end. -/
def execPassBlockReady (n : Nat) (s : State) : Host.Outcome State Fault Refusal :=
  let f := ladleFlask n
  let who : Who := { rq := rqHeat, flask := f, ladle := some n }
  done (match Sp.get? s.heats n with
    | none => s
    | some h =>
      if !s.ready || s.bit .replaying n || s.cutCovers n h.index then s
      else if h.stage = .writing then s.openPass n h
      else if h.stage ≠ .passBlock then s else
      let c := h.card
      let rowAddr := cardTable c + 64 * h.pass
      -- GUIDANCE of the pass, a free value when the row did not read (R528)
      let passed (s : State) (g : BitVec 32) (st : HeatStage := .failed) : State :=
        { s with heats := Sp.modify s.heats n h (fun x => { x with stage := st, guidance := Sp.put x.guidance x.pass g }) }
      -- the heat ends at the pass start (R513)
      let fails (s : State) (code : Nat) (words : List Nat) (detail : Nat) (g : BitVec 32) : State :=
        passed ((s.wr .heatSection n 3).heatReadFault n code words detail) g
      let noRow := (s.free 0).setWidth 32
      match s.fetch who none [{ hint := s.hintOf f rowAddr 64 0 .read, key := rowAddr, len := 64 }] with
      | .wait s1 => s1
      | .fail code s1 => fails s1 code [] 0 noRow
      | .got rs s1 =>
        let r := (rs[0]?).getD { bytes := [] }
        let row := BitVec.ofNat 32 (leNat ((r.bytes.drop 8).take 4))
        let ptr (i : Nat) : Nat := leNat ((r.bytes.drop (0x10 + 8 * i)).take 8)
        let copies := (List.range 4).filter (fun i => cardBytes c i ≠ 0)
        let mayRead (i : Nat) : Bool := (s1.asHeat n h.pass).allowed f (ptr i) (cardBytes c i) .read
        if r.code ≠ 0 then fails s1 r.code (r.failedAt rowAddr) r.detail noRow
        else if (List.range 4).any (fun i => ptr i / 2 ^ 44 ≠ 0) then passed ((s1.wr .heatSection n 3).stopHeat n cFormatInvalid) row
        else
          -- far sources are asked for before anything is written
          match s1.fetch who none ((copies.takeWhile mayRead).map
              (fun i => s1.copySpan f c ptr i)) with
          | .wait s2 => { s with tc2 := s2.tc2, tc2Next := s2.tc2Next, ports := s2.ports }
          | _ =>
            let block := padTo (r.bytes ++ leBytes h.pass 4 ++ leBytes 0 4 ++ leBytes s.now 8) 128 0
            match s1.put who none (s1.hintOf f (cardBlock c) 128 0 .write) (cardBlock c) block [] with
            | .error code => fails s1 code [] 0 row
            | .ok s2 =>
              match s2.passCopies who c ptr mayRead copies with
              | .wait s3 => { s with tc2 := s3.tc2, tc2Next := s3.tc2Next, ports := s3.ports }
              | .fail code words detail s3 => fails s3 code words detail row
              | .done s3 => (passed s3 row .writing).openPass n h)

/-- The additions of the enclosing loops to a field of a body pour (R531): the sum over the loops of iteration times step. -/
def loopSum (loops : List Loop) (lo w : Nat) (signed : Bool) : Int :=
  (loops.map (fun l =>
    let x := bits l.word.toNat lo w
    (l.iter : Int) * (if signed then toInt w x else (x : Int)))).sum

/-- Replace a field of a record. -/
def setRec (w : BitVec 1024) (lo n v : Nat) : BitVec 1024 :=
  BitVec.ofNat 1024 (w.toNat - (bits w.toNat lo n <<< lo) + ((v % 2 ^ n) <<< lo))

/-- Add to a field of a record, modulo its width. -/
def addRec (w : BitVec 1024) (lo n : Nat) (x : Int) : BitVec 1024 :=
  setRec w lo n (ofInt n ((bits w.toNat lo n : Nat) + x))

/-- A body pour in the form of the current iterations of its enclosing loops (R531 to R533). -/
def loopPour (loops : List Loop) (w : BitVec 1024) : BitVec 1024 :=
  if loops.isEmpty then w else
  let f (lo n : Nat) : Nat := bits w.toNat lo n
  let sx := loopSum loops 56 5 true
  let sy := loopSum loops 64 4 true
  -- the descriptors at record bytes 0x18, 0x30 and 0x48, with the strides at loop bytes 0x10, 0x18 and 0x20
  let addr (w : BitVec 1024) (base stride : Nat) : BitVec 1024 :=
    if f (base + 57) 2 = 0 then (if f base 44 = 0 then w else addRec w base 44 (loopSum loops stride 64 true)) else w
  let mesh (w : BitVec 1024) (base : Nat) : BitVec 1024 :=
    addRec (addRec (addRec (addRec w base 5 sx) (base + 5) 4 sy) (base + 9) 5 sx) (base + 14) 4 sy
  let w1 := addr (addr (addr w 192 128) 384 192) 576 256
  let w2 := if f (768 + 46) 2 = 0 && f 768 44 ≠ 0 then addRec w1 768 44 (loopSum loops 320 64 true) else w1
  let w3 := if f 128 44 ≠ 0 then addRec w2 128 44 (loopSum loops 384 64 true) else w2
  let w4 := addRec (addRec w3 16 5 sx) 21 4 sy
  let w5 := [192, 384, 576].foldl (fun w b => if f (b + 57) 2 = 3 then mesh w b else w) w4
  let w6 := if f (768 + 46) 2 = 2 then mesh w5 768 else w5
  let w7 := if f 30 1 = 1 then addRec w6 864 32 (loopSum loops 96 32 false) else w6
  addRec w7 960 16 (loopSum loops 448 16 false)

/-- The position after the record at `pos`: the innermost loops that end there begin their next iteration or are left. -/
def nextPos : List Loop → Nat → Nat × List Loop
  | [], pos => (pos + 1, [])
  | l :: r, pos =>
    if pos = l.last then
      if l.iter + 1 < bits l.word.toNat 32 24 then (l.first, { l with iter := l.iter + 1 } :: r) else nextPos r pos
    else (pos + 1, l :: r)

/-- A loop record is well placed (R534): at most 4 deep, a nonzero COUNT and BODY, and a body inside its program and its
enclosing loop. Innermost loops come first in the list. -/
def loopOk (loops : List Loop) (pos count : Nat) (w : BitVec 1024) : Bool :=
  let body := bits w.toNat 16 13
  let lastRec := pos + body
  decide (loops.length < 4) && body ≠ 0 && decide (body ≤ 4096) && bits w.toNat 32 24 ≠ 0 && decide (lastRec < count)
    && (match loops with
      | l :: _ => decide (lastRec ≤ l.last)
      | [] => true)

/-- A pour of another section of the heat waits for an array of its own: it holds the heat (R539). -/
def State.heatHeld (s : State) (n sec : Nat) : Bool := (s.ladle n).waits.any (fun w => w.1 ≠ sec && decide (w.1 < 3))

/-- HEAT_SECTION_DISPATCH (R526, R530 to R535, R539, R1078): the sequencer dispatches the next record of a section. -/
def execHeatSectionDispatch (n sec : Nat) (s : State) : Host.Outcome State Fault Refusal :=
  let f := ladleFlask n
  done (match Sp.get? s.heats n with
    | none => s
    | some h =>
      let c := h.card
      match h.sections[sec]? with
      | none => s
      | some x =>
        if h.stage = .betweenPasses || h.stopCode.isSome || decide (cardProgCount c sec ≤ x.pos) || !s.ready
            || !s.flaskRuns f || s.rd .ladleState n ≠ ladleActive || s.bit .replaying n || s.sourceHeld n sec || s.heatHeld n sec then s else
        let a := cardProg c sec + 128 * x.pos
        let setSec (s : State) (y : Section) : State :=
          { s with heats := Sp.modify s.heats n h (fun h => { h with sections := h.sections.set sec y }) }
        -- a pour record; one that is held is not read again (R496)
        let pour (s : State) (w : BitVec 1024) : State :=
          match s.dispatch (s.newPour n h.index (some { pass := h.pass, sec := sec, prog := x.pos }) (loopPour x.loops w)) sec with
          | .held s2 => setSec s2 { x with record := some w }
          | .sent s2 =>
            let np := nextPos x.loops x.pos
            (setSec s2 { pos := np.1, loops := np.2 }).wr .heatSection n sec
        match x.record with
        | some w => pour s w
        | none =>
        if s.readHeld a 128 then s else
        match s.fetch { rq := rqHeat, flask := f } none [{ hint := s.hintOf f a 128 0 .read, key := a, len := 128 }] with
        | .wait s1 => s1
        | .fail code s1 => (s1.wr .heatSection n sec).heatReadFault n code []
        | .got rs s1 =>
          let r := (rs[0]?).getD { bytes := [] }
          let w := BitVec.ofNat 1024 (leNat r.bytes)
          if r.code ≠ 0 then (s1.wr .heatSection n sec).heatReadFault n r.code (r.failedAt a) r.detail
          else if bits w.toNat 0 8 = 0xC1 then
            if loopOk x.loops x.pos (cardProgCount c sec) w then
              setSec s1 { pos := x.pos + 1,
                          loops := { first := x.pos + 1, last := x.pos + bits w.toNat 16 13, iter := 0, word := w } :: x.loops }
            else (s1.wr .heatSection n sec).stopHeat n cFormatInvalid
          else pour s1 w)

/-- HEAT_END (R507, R529, R536, R537, R1075): on count after the last pass, or for the first recorded cause once every pour has ended. A heat that
an abort has cancelled ends without a record. -/
def execHeatEnd (n : Nat) (s : State) : Host.Outcome State Fault Refusal :=
  done (match Sp.get? s.heats n with
    | none => s
    | some h =>
      let c := h.card
      let sec := s.rd .heatSection n
      if s.cutCovers n h.index then s else
      match h.stopCode with
      | some code => if (s.heatPours n).isEmpty && !s.heatReplays n && !s.bit .replaying n then
          s.endHeat n h.index code h.pass sec (cardTag c) (h.readFault.elim 0 (fun r => if r.1 = code then r.2.2 else 0)) else s
      | none =>
        if s.passDone n h && h.pass + 1 = cardCount c then
          let s1 := s.passEvent n h
          let s2 := if cardF c 0 20 1 = 1 then s1.semAdd (ladleFlask n) (cardF c 0x18 6 6) (cardF c 0x90 16 32) else s1
          s2.endHeat n h.index cOK h.pass sec (cardTag c)
        else s)

/-! ### Waits -/

/-- A pour heads the queue of its unit: no pour that entered it earlier has yet to start (R177); a dispatcher pour heads its source
(R182). The list of pours keeps the order in which they entered their queues. -/
def State.headsQueue (s : State) (p : Pour) : Bool :=
  p.unit = .dispatcher
    || (((s.unitPours p.unit).find? (fun q => q.stage = .queued || q.stage = .released)).all (fun q => q.id = p.id))

/-- POUR_WAIT_RELEASE (R182 to R185): the waiting pour at the head of its queue leaves its wait. A FLIP that still holds its ladle is in no
queue yet (R413). -/
def execPourWaitRelease (id : Nat) (s : State) : Host.Outcome State Fault Refusal :=
  done (match s.pour? id with
    | none => s
    | some p =>
      if p.stage = .queued && !p.parked && !(p.opcode = 9 && p.unit = .dispatcher) && s.headsQueue p && s.waitsMet p then s.onPour id (fun q => { q with stage := .released })
      else s)

/-- A pour may start on its unit now: it heads the queue and has left its waits, or has none. -/
def State.starts (s : State) (p : Pour) : Bool :=
  s.ready && !p.parked && !p.cancelled && s.headsQueue p &&
    (p.stage = .released || (p.stage = .queued && !p.waitSemEn && !p.waitTimeEn))

/-- HELD_COMPLETION_WRITE (R508, R1074): the oldest held record is written once its ring has room; with the last one CQ_FULL
clears and the flask dispatches again. -/
def execHeldCompletionWrite (f : Nat) (s : State) : Host.Outcome State Fault Refusal :=
  done (match Sp.getD s.heldCq f [] with
    | [] => s
    | r :: rest =>
      if s.cqRoom f then
        let s1 := { s with heldCq := if rest.isEmpty then Sp.del s.heldCq f else Sp.put s.heldCq f rest }
        let s2 := s1.cqWrite f r
        if rest.isEmpty then s2.clr .cqFull f else s2
      else s)

/-! ### Resume and abort -/

/-- RESUME (R503, R504, R554, R826). The bit itself reads 0 (R10; log entry 58). -/
def execResume (n : Nat) (s : State) : Host.Outcome State Fault Refusal :=
  done (if s.bar0Up && s.rd .ladleState n = ladleStopped && (s.ladlePours n).isEmpty then
    ((s.wr .ladleState n ladleActive).wr .riserAttempt n 0).onLadle n (fun r => { r with cut := none, waits := [] })
  else s)

/-- The record of an abort (R551): KIND abort, OPCODE 0, the index named. -/
def State.writeAbort (s : State) (n i status : Nat) : State :=
  s.complete { status := status, tag := 0, index := i, kind := 2, ladle := n, opcode := 0 }

/-- Release what a cancelled pour holds: banks and mesh items (R203), a table slot it is bound to (R412), its collective context with
ABANDON (R787). -/
def State.releasePour (s : State) (p : Pour) : State :=
  let s0 := s.releaseArray p
  let s1 := match p.opcode, p.aux with
    | 0x08, [n, slot] =>
      if p.stage = Stage.running then s0.unbindSlot n slot else s0
    | _, _ => s0
  let mine := s1.colls.filter (fun c => c.2.pour = p.id)
  mine.foldl (fun s c => (s.abandonColl c.2).freeColl c.1 c.2) s1

/-- Cancel the pours of a ladle whose records satisfy a test (R552): those that have not started are gone, the others stop at
ABORT_CANCEL_DONE, at REPLAY_CANCEL_DONE or at the end of the reset. -/
def State.cancelPours (s : State) (test : Pour → Bool) : State :=
  let gone := s.pours.filter (fun p => test p && (p.stage = .queued || p.stage = .released))
  let s1 := gone.foldl (fun s p => s.releasePour p) s
  let left := s1.pours.filter (fun p => !gone.any (fun g => g.id = p.id))
  { s1 with pours := left.map (fun p => if test p then { p with cancelled := true } else p) }

/-- ABORT (R550, R551, R1075). The bit itself reads 0 (R10; log entry 58). -/
def execAbort (n : Nat) (s : State) : Host.Outcome State Fault Refusal :=
  let i := s.rd .ladleAbortIndex n
  let age := sub32 (s.rd .ladleTail n) i
  done (
    if !s.bar0Up || s.rd .ladleState n = ladleAborting then s
    else if age = 0 || decide (2 ^ 31 < age) then s.writeAbort n i cFormatInvalid
    else if decide (2 ^ s.rd .ladleSizeLog2 n < age) || (s.ladle n).ended.contains i then s.writeAbort n i cAlreadyComplete
    else
      -- a winning abort ends a replay under way (R817)
      let s1 := ((s.wr .ladleState n ladleAborting).clr .replaying n).onLadle n (fun r =>
        { r with cut := some i, aborting := some i, waits := [], record := none, replay := none, replayWaiting := false })
      let s2 := s1.cancelPours (fun p => p.ladle = n && s1.cutCovers n p.index)
      s2.onLadle n (fun r => { r with card := r.card.filter (fun c => !s1.cutCovers n c.1) }))

/-- The arrays that a pour ran on remember its LIVE (R543, R544). -/
def State.noteLive (s : State) (p : Pour) : State :=
  p.needsArrays.foldl (fun (s : State) a => s.onArray a (fun r => { r with lastLive := p.live })) s

/-- A cancelled pour of a ladle has a write on its way: it has not stopped yet (R552). -/
def State.cancelFlies (s : State) (n : Nat) : Bool :=
  s.pours.any (fun p => p.ladle = n && p.cancelled && s.flies p)

/-- Drop the cancelled pours of a ladle, with what they hold; `undefine` says what of their outputs becomes undefined (R553, R816). An array that
ran one remembers its LIVE. -/
def State.dropCancelled (s : State) (n : Nat) (undefine : State → Pour → State) : State :=
  let mine := s.pours.filter (fun p => p.ladle = n && p.cancelled)
  mine.foldl (fun s p =>
    let s0 := s.releasePour p
    let s1 := undefine s0 ((s0.pour? p.id).getD p)
    (if p.begun then s1.noteLive p else s1).dropPour p.id) s

/-- ABORT_CANCEL_DONE (R551): every cancelled pour has stopped, its writes answered; HEAD moves back when it had passed the record, and the ladle
stops ABORTED. -/
def execAbortCancelDone (n : Nat) (s : State) : Host.Outcome State Fault Refusal :=
  done (match (s.ladle n).aborting with
    | none => s
    | some i =>
      if s.rd .ladleState n ≠ ladleAborting || s.cancelFlies n then s else
      let s1 := s.dropCancelled n State.undefineOutput
      let s2 := match Sp.get? s1.heats n with
        | some h => if s1.cutCovers n h.index then ({ s1 with heats := Sp.del s1.heats n }).clr .heatStopPending n else s1
        | none => s1
      let s3 := if sub32 (s2.rd .ladleHead n) i < 2 ^ 31 then s2.wr .ladleHead n i else s2
      let s4 := (s3.wr .ladleState n ladleActive).stopLadle n cAborted 0
      (s4.onLadle n (fun r => { r with aborting := none })).writeAbort n i cAborted)

/-! ### Flask reset -/

/-- Begin a flask reset (R555, R817): every record of the flask's ladles is cancelled, without records and events, and a replay under way
ends. -/
def State.flaskResetStart (s : State) (f : Nat) : State :=
  let s0 := (List.range 4).foldl (fun (s : State) l => s.clr .replaying (4 * f + l)) (s.setBit .resetBusy f)
  let s1 := s0.cancelPours (fun p => p.flask = f)
  { s1 with
    heats := s1.heats.filter (fun h => ladleFlask h.1 ≠ f),
    ladles := s1.ladles.map (fun l => if ladleFlask l.1 = f then (l.1, { l.2 with card := none, record := none, aborting := none, waits := [], replay := none,
                                                                                     replayWaiting := false }) else l) }

/-- Finish a flask reset (R557, R558): ladles and rings are empty, enabled ladles ACTIVE, arrays released, and the state that
R122, R198, R319, R435, R473 and R825 name is cleared. -/
def State.flaskResetFinish (s : State) (f : Nat) : State :=
  let ladles := (List.range 4).map (fun l => 4 * f + l)
  let s1 := ladles.foldl (fun s n => s.dropCancelled n State.undefineOutput) s
  let s2 := { s1 with pours := s1.pours.filter (fun p => p.flask ≠ f), heldCq := Sp.del s1.heldCq f,
                      colls := s1.colls.filter (fun c => c.2.flask ≠ f) }
  let s3 := ladles.foldl (fun s n =>
    let t := (((s.wr .ladleHead n 0).wr .ladleTail n 0).wr .stopCode n 0).wr .ladleState n
      (if s.bit .ladleEnable n then ladleActive else ladleDisabled)
    let u := [FKind.hasRiser, .replaying, .riserAttempt, .riserLastCode, .heatStopPending].foldl (fun s k => s.wr k n 0) t
    { u with ladles := Sp.del u.ladles n }) s2
  let s4 := [FKind.cqHead, .cqTail, .eqHead, .eqTail, .cqFull, .quantVanished, .quantSaturated, .quantNan].foldl
    (fun s k => s.wr k f 0) s3
  let s5 := (List.range 64).foldl (fun s i => s.wr .sem (64 * f + i) 0) s4
  let s6 := (List.range (s5.rd .watchCount f)).foldl (fun s i =>
    let n := s5.rd .watchBase f + i
    [FKind.watchAvg, .watchLast, .watchSeeded, .watchFlagHigh, .watchFlagLow, .watchFlagNan, .watchFlagVanish,
     .watchFlagSat, .watchFlagCount].foldl (fun s k => s.wr k n 0) s) s5
  let s7 := (List.range 256).foldl (fun s n => if s.rd .tableOwner n = f then s.wr .tableValid n 0 else s) s6
  let s8 := s7.usedEntries.foldl (fun s e =>
    if s.bit .entFlaskEn e && s.rd .entFlask e = f && s.rd .entKind e ≠ kBayDeadline then s.freeEntry e else s) s7
  let s9 := (List.range 512).foldl (fun s a =>
    let t := if s.bit .arrayOwned a && s.rd .arrayOwnerFlask a = f then
      (s.clr .arrayOwned a).onArray a (fun r => { r with held := none, claimed := [], lastLive := 0, inbox := [], outbox := [], credits := [], discard := [],
                                                         restoring := false, planes := [] }) else s
    if (Sp.get? (t.array a).saved f).isSome then t.onArray a (fun r => { r with saved := Sp.del r.saved f }) else t) s8
  s9.clr .resetBusy f

/-- FLASK_RESET (R555). The bit itself reads 0 (R10; log entry 58). -/
def execFlaskReset (f : Nat) (s : State) : Host.Outcome State Fault Refusal :=
  done (if s.bar0Up && decide (f < 64) && !s.bit .resetBusy f then s.flaskResetStart f else s)

/-- Some GATHER of another flask is still bound to a table of a flask (R435). -/
def State.tablesBusy (s : State) (f : Nat) : Bool :=
  (List.range 256).any (fun t => s.rd .tableOwner t = f && (List.range 2).any (fun slot =>
    decide (s.pours.countP (fun p => p.flask = f && p.opcode = 8 && p.stage = .running && p.aux = [t, slot]) < s.rd (slotInflight slot) t)))

/-- FLASK_RESET_DONE (R435, R552, R557): the cancelled pours have stopped, and the in-flight counts of the flask's tables fall to zero with its own
GATHERs. -/
def execFlaskResetDone (f : Nat) (s : State) : Host.Outcome State Fault Refusal :=
  done (if s.bit .resetBusy f && !s.tablesBusy f && !(List.range 4).any (fun l => s.cancelFlies (4 * f + l)) then s.flaskResetFinish f else s)

/-! ### Time-slicing (R538 to R548) -/

/-- The flasks that wait for an array, each with the time its longest wait began: dispatches of ACTIVE ladles that an array holds back, parked
pours, and pours of runners and of the fabric that have not started. Only eligible flasks count (R540, R542). -/
def State.wanting (s : State) (a : Nat) : List (Nat × Nat) :=
  let live := s.ladles.filter (fun l => s.derived .flaskEligible (ladleFlask l.1) = 1 && s.rd .ladleState l.1 = ladleActive)
  let queued := (s.pours.filter (fun p => !p.cancelled && decide (a ∈ p.needsArrays) && (p.stage = .queued || p.stage = .released)
    && s.derived .flaskEligible p.flask = 1)).map (fun p => (p.flask, p.since))
  (live.map (fun l => ((l.2.waits.filter (fun w => w.2.1 = a)).map (fun w => (ladleFlask l.1, w.2.2))))).flatten ++ queued

/-- The flask that an array without owner takes: longest waiting first, then the lowest number (R540). -/
def State.nextOwner (s : State) (a : Nat) : Option Nat :=
  (s.wanting a).foldl (fun (b : Option (Nat × Nat)) e =>
    match b with
    | none => some e
    | some x => if e.2 < x.2 || (e.2 = x.2 && e.1 < x.1) then some e else b) none |>.map (·.1)

/-- The size in bytes of the stores of an array and their offsets in its save area (R544). -/
def saveOffset : Nat → Nat
  | 0 => 0
  | 1 => 262144
  | 2 => 524288
  | _ => 589824

/-- Size in bytes of a store: A and B buffers, scratch. -/
def storeBytes : Nat → Nat
  | 2 => 65536
  | _ => 262144

/-- The address of an array's part of a flask's save area (R544). -/
def State.saveArea (s : State) (f a : Nat) : Nat := s.saveBase f + 598016 * a

/-- Save one store into the save area, word by word: each read is counted, logged and written back as every read (R629, R630, R67), and a word
that does not read is saved poisoned (log entry 19). -/
def State.saveStore (s : State) (f a i : Nat) : State :=
  let at0 := s.saveArea f a + saveOffset i
  (List.range (storeBytes i / 8)).foldl (fun s w =>
    let r := ((s.array a).store i).readWord w s.fresh
    let s1 := s.noteArrayWord a i { rq := rqRestore, flask := f } 0 w r
    match r with
    | .ok v _ => s1.writeLocal 0 (at0 + 8 * w) (leBytes v.toNat 8) []
    | _ => s1.writeLocal 0 (at0 + 8 * w) (List.replicate 8 0) [0]) s

/-- Save the accumulator banks. -/
def State.saveBanks (s : State) (f a : Nat) : State :=
  let r := s.array a
  (List.range 1024).foldl (fun s w =>
    s.writeLocal 0 (s.saveArea f a + saveOffset 3 + 8 * w)
      (leBytes (Sp.getD r.banks (2 * w) 0).toNat 4 ++ leBytes (Sp.getD r.banks (2 * w + 1) 0).toNat 4)
      (if w ∈ r.bankBad then [0] else [])) s

/-- An owned array has nothing under way: no started pour of its owner, on the array or naming it (R591), no bank held or draining, nothing to
send and no restore (R206, R235, R542). A held bank keeps its flask until the ROW pour that reads it has ended, which an owner that is not
eligible cannot start (log entry 58). -/
def State.arrayIdle (s : State) (a : Nat) : Bool :=
  let f := s.rd .arrayOwnerFlask a
  let r := s.array a
  s.bit .arrayOwned a
    && !s.pours.any (fun p => p.unit = .array a && p.flask = f && !p.parked && p.stage ≠ .queued && p.stage ≠ .released)
    && !s.pours.any (fun p => p.unit ≠ .array a && p.flask = f && p.stage ≠ .queued && p.stage ≠ .released && decide (a ∈ p.needsArrays))
    && r.held.isNone && r.claimed.isEmpty && r.outbox.isEmpty && !r.restoring

/-- An idle array whose queue is empty and whose last pour left nothing live becomes unowned (R543). -/
def State.unownIdle (s : State) (a : Nat) : State :=
  let f := s.rd .arrayOwnerFlask a
  if s.arrayIdle a && !s.pours.any (fun p => p.unit = .array a && p.flask = f) && (s.array a).lastLive = 0 then s.clr .arrayOwned a else s

/-- ARRAY_PARK_SAVE (R542 to R544): the owner has left eligibility and its started pours have ended, so the array parks the
queued ones, saves the live stores and becomes unowned; an idle array whose last pour left nothing live becomes unowned at
once (R543). -/
def execArrayParkSave (a : Nat) (s : State) : Host.Outcome State Fault Refusal :=
  let f := s.rd .arrayOwnerFlask a
  let r := s.array a
  done (
    if !s.arrayIdle a then s
    else if s.derived .flaskEligible f = 1 then s.unownIdle a
    else if r.lastLive ≠ 0 && s.drains (s.saveArea f a) 598016 then s
    else
      let park (p : Pour) : Pour := if p.unit = .array a && p.flask = f then { p with parked := true, stage := .queued, since := s.now } else p
      let s1 : State := { s with pours := s.pours.map park }
      let s2 := (bitList r.lastLive 3).foldl (fun s i => s.saveStore f a i) s1
      let s3 := if r.lastLive.testBit 3 then s2.saveBanks f a else s2
      (s3.onArray a (fun r => { r with saved := Sp.put r.saved f r.lastLive, planes := [] })).clr .arrayOwned a)

/-- Every store of an array cleared to zero with valid check bits, and its banks zero (R546). -/
def ArrayRt.cleared (r : ArrayRt) : ArrayRt :=
  { r with bufA := { zeroed := true }, bufB := { zeroed := true }, scratch := { zeroed := true }, line := { zeroed := true },
           banks := [], bankBad := [], planes := [], lastLive := 0 }

/-- ARRAY_TAKE_OWNER (R540, R545 to R547): an unowned array takes the flask that has waited longest; its stores are cleared, a
restore of saved stores starts, and parked pours of the flask come back to the queue. -/
def execArrayTakeOwner (a : Nat) (s : State) : Host.Outcome State Fault Refusal :=
  done (if !s.ready || s.bit .arrayOwned a || decide (512 ≤ a) then s else
    match s.nextOwner a with
    | none => s
    | some f =>
      let s1 := ((s.wr .arrayOwnerFlask a f).setBit .arrayOwned a).onArray a (fun r =>
        { r.cleared with restoring := (Sp.getD r.saved f 0) ≠ 0 })
      { s1 with pours := s1.pours.map (fun p => if p.unit = .array a && p.flask = f then { p with parked := false } else p) })

/-- Restore one store from the save area, through the cache as every access of the stack tier (R573); a word that does not read is restored
poisoned (R548). -/
def State.restoreStore (s : State) (f a i : Nat) : State :=
  let n := storeBytes i / 8
  let r := s.readLocal { rq := rqRestore, flask := f } 0 (s.saveArea f a + saveOffset i) (8 * n)
  r.2.onArray a (fun x =>
    x.setStore i ((List.range n).foldl (fun (st : Store) w =>
      if r.1.failed.any (fun e => e.1 = w) then st.poisonWord w
      else st.writeWord w (BitVec.ofNat 64 (leNat ((r.1.bytes.drop (8 * w)).take 8)))) (x.store i)))

/-- Restore the accumulator banks; the words that do not read are noted (R548). -/
def State.restoreBanks (s : State) (f a : Nat) : State :=
  let r := s.readLocal { rq := rqRestore, flask := f } 0 (s.saveArea f a + saveOffset 3) 8192
  r.2.onArray a (fun x =>
    { x with banks := (List.range 2048).foldl (fun b i =>
               Sp.put b i (BitVec.ofNat 32 (leNat ((r.1.bytes.drop (4 * i)).take 4)))) x.banks,
             bankBad := r.1.failed.map (·.1) })

/-- ARRAY_RESTORE_DONE (R545, R548). -/
def execArrayRestoreDone (a : Nat) (s : State) : Host.Outcome State Fault Refusal :=
  let f := s.rd .arrayOwnerFlask a
  let live := Sp.getD (s.array a).saved f 0
  done (if !(s.array a).restoring || s.drains (s.saveArea f a) 598016 then s else
    let s1 := (bitList live 3).foldl (fun s i => s.restoreStore f a i) s
    let s2 := if live.testBit 3 then s1.restoreBanks f a else s1
    s2.onArray a (fun r => { r with restoring := false, lastLive := live, saved := Sp.del r.saved f }))

end Sys2Proof.Machine
end

