-- ==== Sys2Proof/Machine/Accept.lean ====
section
/-!
DEFINITION. The checks of R170 made at c1 or when a unit accepts a pour, steps 5 to 10: fences, format rules, the watch allotment,
buffer regions, the run-time shape and K (R51, R54, R70, R72, R95 to R100, R126 to R139, R166 to R170, R210, R211, R248 to R274, R286 to
R290, R358 to R383, R589 to R604).
-/
namespace Sys2Proof.Machine

/-! ### Step 5: fences (R70, R72) -/

/-- The mesh routes of an array pour: from each sending array to its own, and from its own to each receiver. -/
def Pour.routes (p : Pour) : List (List Nat) :=
  let from_ (d : Desc) : List (List Nat) := if d.src = srcMesh then [meshRoute (meshFirst d.addr) p.array] else []
  from_ p.dA ++ from_ p.dB
  ++ (if p.opcode ≠ 5 && p.initKind ≠ 0 && p.biasSrc = 2 then [meshRoute (meshFirst p.biasAddr) p.array] else [])
  ++ p.dests.map (fun d => meshRoute p.array d)

/-- A pour of an array meets a fence (R70, R72). -/
def State.meetsFence (s : State) (p : Pour) : Bool :=
  s.fenced p.array || p.routes.any (fun r => r.any s.routeFenced)

/-! ### Step 6: format rules -/

/-- FORMAT codes of R131. -/
def fmtOk (f : Nat) : Bool := decide (f ≤ 6)

/-- A finite, positive, normal FP32 value (R95). -/
def normalScale (b : Nat) : Bool := b / 2 ^ 31 = 0 && bits b 23 8 ≠ 0 && bits b 23 8 ≠ 255

/-- A power of two from 2^-126 to 2^127 (R96). -/
def powerScale (b : Nat) : Bool := normalScale b && bits b 0 23 = 0

/-- HAZE is legal (R137, R613): none, or 2:1 or 4:1 in memory outside the neighbour window, over a haze format. -/
def Desc.hazeOk (d : Desc) : Bool :=
  d.haze = 0 || (d.haze ≠ 3 && d.src = srcMemory && (d.fmt = 3 || d.fmt = 4 || d.fmt = 5) && tierOf d.addr ≠ 2)

/-- The operand pairs of R99. -/
def pairOk (a b : Nat) : Bool :=
  (a = b && (a = 0 || a = 1 || a = 5)) || (a = 0 && b = 2) || ((a = 3 || a = 4) && (b = 3 || b = 4))

/-- What K is a multiple of (R54). -/
def kStep (a b : Desc) : Nat := if isBlock a.fmt then (if a.block16 && b.block16 then 16 else 32) else 16

/-- ROWFN is in the table and allowed in the family (R248, R250). -/
def rowFnOk (op fn : Nat) : Bool :=
  decide (fn ≤ 7)
  || ((fn = fnScaleBias || fn = fnRowScale || fn = fnRmsAcc || fn = fnSumAcc || fn = fnMaxAcc) && op ≠ 2)
  || ((fn = fnSiluGate || fn = fnSoftmax) && op = 1)
  || ((twoTile fn || fn = fnRmsApply) && op = 5)

/-- The geometry of a CONV or DW pour (R358): sizes, strides, dilations, padding. -/
structure Geo where
  kw : Nat
  kh : Nat
  kt : Nat
  sw : Nat
  sh : Nat
  st : Nat
  dw : Nat
  dh : Nat
  dt : Nat
  pw : Nat
  ph : Nat
  pt : Nat
  mode : Nat
deriving DecidableEq, Repr

def Pour.geo (p : Pour) : Geo :=
  { kw := p.param 16 3, kh := p.param 19 3, kt := p.param 22 3, sw := p.param 25 2 + 1, sh := p.param 27 2 + 1, st := p.param 29 2 + 1,
    dw := p.param 31 2 + 1, dh := p.param 33 2 + 1, dt := p.param 35 2 + 1, pw := p.param 37 3, ph := p.param 40 3, pt := p.param 43 3,
    mode := p.param 46 2 }

/-- Taps of a window (R359). -/
def Geo.taps (g : Geo) : Nat := g.kt * g.kh * g.kw

/-- The place words (R362, R363). -/
structure Place where
  inW : Nat
  inH : Nat
  inT : Nat
  cin : Nat
  outX : Nat
  outY : Nat
  outT : Nat
  cinFirst : Nat
  padConst : Nat
deriving DecidableEq, Repr

def Pour.place (p : Pour) : Place :=
  let w (i : Nat) : Nat := p.words.getD i 0
  { inW := bits (w 0) 0 16, inH := bits (w 0) 16 16, inT := bits (w 0) 32 16, cin := bits (w 0) 48 16,
    outX := bits (w 1) 0 16, outY := bits (w 1) 16 16, outT := bits (w 1) 32 16, cinFirst := bits (w 1) 48 16,
    padConst := bits (w 2) 0 32 }

/-- Bytes of one position and 32 channels in a line, q of R373. -/
def lineQ (d : Desc) : Nat := 4 * elemBits d.fmt + (if isBlock d.fmt then (if d.block16 then 2 else 1) else 0)

/-- Positions of a line, span of R373. -/
def Pour.lineSpan (p : Pour) : Nat := (p.mMax - 1) * p.geo.sw + (p.geo.kw - 1) * p.geo.dw + 1

/-- Channels of the lines (R360, R375), as a fraction: numerator and denominator, from a reduction length. -/
def Pour.lineChannels (p : Pour) (k : Nat) : Nat × Nat := if p.opcode = 4 then (p.nMax, 1) else (k, p.geo.taps)

/-- LB of R373 from the planned maxima. -/
def Pour.lineBytesMax (p : Pour) : Nat :=
  let c := p.lineChannels p.kMax
  if c.2 = 0 then 0 else ceilDiv (p.lineSpan * c.1 * lineQ p.dA) (c.2 * 32 * 64) * 64

/-- G of a DW pour (R286). -/
def Pour.group (p : Pour) : Nat := 2 ^ (p.subop % 8)

/-- The window rules of R383 at step 6. K_MAX of a DW pour is held to T · G as K is (R288; log entry 57). -/
def Pour.windowOk (p : Pour) : Bool :=
  let g := p.geo
  let pl := p.place
  let c := ofBits (BitVec.ofNat 32 pl.padConst)
  g.kw ≠ 0 && g.kh ≠ 0 && decide (1 ≤ g.kt) && decide (g.kt ≤ 5) && p.dA.src = srcMemory
    && pl.inW ≠ 0 && pl.inH ≠ 0 && pl.inT ≠ 0 && pl.cin % 32 = 0 && pl.outX % 32 = 0 && pl.cinFirst % 32 = 0
    && !(g.mode = 1 && c.special)
    && p.words.getD 2 0 / 2 ^ 32 = 0
    && (if p.opcode = 3 then decide (p.subop % 8 < g.kt) && decide (p.subop / 8 < 2 ^ g.kt)
        else decide (p.subop ≤ 4) && p.nMax % p.group = 0 && decide (pl.cinFirst + p.nMax ≤ pl.cin)
          && decide (g.taps ≤ 245) && p.kMax = g.taps * p.group)

/-- The format rules of a matrix product (R54, R95, R100, R151, R210, R211, R251, R267, R271, R342). -/
def Pour.matrixOk (p : Pour) : Bool :=
  let a := p.dA
  let b := p.dB
  let o := p.dOut
  pairOk a.fmt b.fmt && (!isBlock a.fmt || (normalScale a.outer && normalScale b.outer)) && p.kMax % kStep a b = 0
    && (p.opcode ≠ 1 || !p.visitMask || (p.rowFn = fnSoftmax && p.shapeSrc = 1))
    && (p.opcode ≠ 2 || (p.subop = 0 && decide (2 ≤ p.ringSlots) && decide (p.tileShape ≤ 1) && a.src = srcMesh
          && (b.src = srcMemory || b.src = srcBuffer) && (!p.trailerOn || p.rowFn = fnPass)))
    && (p.rowFn ≠ fnSoftmax || (p.tileShape = 0 && o.src = srcMesh && (o.fmt = 3 || o.fmt = 4 || o.fmt = 5) && o.outer = 0x3F800000))
    && (p.rowFn ≠ fnSiluGate || (p.tileShape = 1 && p.nMax = 64))

/-- An operand of the row unit (R264): any format but ternary, a normal outer scale for blocks. Of a held bank neither is looked at, because
its values are FP32 whatever FORMAT names (log entry 57). -/
def Desc.rowOperand (d : Desc) : Bool :=
  d.src = srcBank || (fmtOk d.fmt && d.fmt ≠ 2 && (!isBlock d.fmt || normalScale d.outer))

/-- The format rules of a ROW pour (R260, R261, R264, R274). DESC_B of RMS_APPLY is held to the rules of an operand, and its gains are read
as FP32 whatever FORMAT names (log entry 57). -/
def Pour.rowOk (p : Pour) : Bool :=
  decide (p.subop < 4) && (!p.subop.testBit 0 || (p.rowFn = fnGuidance && p.heat.isSome)) && p.kMax = 0
    && p.dA.rowOperand && (!(twoTile p.rowFn || p.rowFn = fnRmsApply) || p.dB.rowOperand)

/-- A MESH operand names one array (R135). -/
def Desc.oneSender (d : Desc) : Bool := d.src ≠ srcMesh || (meshX0 d.addr = meshX1 d.addr && meshY0 d.addr = meshY1 d.addr)

/-- The rules of DESC_OUT of an array pour (R96, R131, R136, R166, R208). A ternary output that is written faults FORMAT_INVALID, and one that
stays in its bank does not (log entry 57). -/
def Pour.outOk (p : Pour) : Bool :=
  let o := p.dOut
  p.noOut ||
    (fmtOk o.fmt && !o.remote && o.hazeOk && o.bufOff % 64 = 0
      && (o.src ≠ srcBank || ((p.opcode = 1 || p.opcode = 2) && p.tileShape = 0))
      && (o.src = srcBank || o.fmt ≠ 2) && powerScale o.outer
      && (!(o.src = srcBuffer || o.src = srcMesh) || o.bufSel ≠ 3)
      && (o.src ≠ srcMesh || (meshLegal o.addr && p.array ∉ meshSegment o.addr)))

/-- Step 6 of R170 for an array pour, the held bank apart. DESC_B of a DW pour may name any format but ternary, and its weights are FP32 (R264, R290;
log entry 57). -/
def Pour.formatOk (p : Pour) : Bool :=
  let a := p.dA
  let b := p.dB
  let usesB := p.opcode ≠ 5 || twoTile p.rowFn || p.rowFn = fnRmsApply
  (match shapeOf p.tileShape with
    | some (m, n) => decide (p.mMax ≤ m) && decide (p.nMax ≤ n)
    | none => false)
  && rowFnOk p.opcode p.rowFn
  && (if p.opcode = 5 then p.rowOk else if p.opcode = 4 then a.rowOperand && b.rowOperand else p.matrixOk)
  && ((p.opcode ≠ 3 && p.opcode ≠ 4) || p.windowOk)
  && p.initKind ≠ 3 && p.biasSrc ≠ 3
  && fmtOk a.fmt && a.hazeOk && !a.remote && a.bufOff % 64 = 0 && a.oneSender
  && (a.src ≠ srcBank || (p.opcode = 5 && p.tileShape = 0))
  && (!usesB || (fmtOk b.fmt && b.hazeOk && !b.remote && b.bufOff % 64 = 0 && b.oneSender && b.src ≠ srcBank))
  && p.outOk

/-- The held bank (R168, R169, R1072): while a bank is held only the ROW pour that names it may run, and no other ROW pour may
read a bank. -/
def State.bankOk (s : State) (p : Pour) : Bool :=
  let reads := p.opcode = 5 && p.dA.src = srcBank
  match (s.array p.array).held with
  | some b => reads && p.bank = b
  | none => !reads

/-! ### Step 8: regions -/

/-- The buffer regions that an array pour reads, from its planned maxima: store, first byte, length (R48, R140, R141, R214, R254, R262, R290,
R355, R372). -/
def Pour.readRegions (p : Pour) : List (Nat × Nat × Nat) :=
  let a := p.dA
  let b := p.dB
  let sh := (shapeOf p.tileShape).getD (0, 0)
  let mr := ceilDiv p.mMax 32
  let nr := ceilDiv p.nMax 32
  let kt := ceilDiv p.kMax 32
  let ra : List (Nat × Nat × Nat) :=
    if p.opcode = 5 then (if a.src = srcBank then [] else [(0, a.bufOff, mr * nr * a.tb)])
    else if p.opcode = 2 then [(0, a.bufOff, p.ringSlots * p.slotBytes)]
    else if p.opcode = 1 then [(0, a.bufOff, sh.1 / 32 * kt * a.tb)]
    else [(3, a.bufOff, p.geo.kt * p.geo.kh * p.lineBytesMax)]
  let rb : List (Nat × Nat × Nat) :=
    if p.opcode = 5 then
      (if twoTile p.rowFn then [(1, b.bufOff, mr * nr * b.tb)]
       else if p.rowFn = fnRmsApply then [(1, b.bufOff, 4 * p.nMax)] else [])
    else if p.opcode = 4 then [(1, b.bufOff, 4 * p.kMax * p.nMax)]
    else [(1, b.bufOff, sh.2 / 32 * kt * b.tb)]
  let bias := if p.opcode ≠ 5 && p.initKind ≠ 0 then [(1, p.biasOff, p.biasBytes)] else []
  let frame := if usesFrame p.rowFn then [(2, 64 * p.param 48 10, 8192)] else []
  ra ++ rb ++ bias ++ frame

/-! ### Buffers that are read (R47, R591, R780) -/

/-- Two byte ranges share a byte. -/
def overlap (a n b m : Nat) : Bool := n ≠ 0 && m ≠ 0 && decide (a < b + m) && decide (b < a + n)

/-- Tiles of a TILES move: in a tile row, and in all (R593). -/
def Pour.moveCols (p : Pour) : Nat := ceilDiv p.n 32
def Pour.moveTiles (p : Pour) : Nat := ceilDiv p.m 32 * p.moveCols

/-- Where tile i of the source of a TILES move begins, an address or a buffer offset (R594). -/
def Pour.moveFrom (p : Pour) (i : Nat) : Nat :=
  let nr := ceilDiv p.nMax 32
  if p.dA.src = srcBuffer then p.dA.tileOff nr (i / p.moveCols) (i % p.moveCols)
  else p.dA.tileAddr nr (i / p.moveCols) (i % p.moveCols)

/-- Bytes of a tile of that source. -/
def Pour.moveSize (p : Pour) : Nat := if p.dA.src = srcBuffer then p.dA.tb else p.dA.mb

/-- How many tiles one transfer reads from tile i on, among the `n` that may follow it: those that lie one after another and begin in the
same aligned 4 KiB range (R641; log entry 13). -/
def Pour.moveRunFrom (p : Pour) (i : Nat) : Nat → Nat
  | 0 => 1
  | n + 1 =>
    let k := p.moveRunFrom i n
    if k = n + 1 && decide (i + k < p.moveTiles) && p.moveFrom (i + k) = p.moveFrom i + k * p.moveSize
        && p.moveFrom (i + k) / 4096 = p.moveFrom i / 4096 then k + 1 else k
def Pour.moveRun (p : Pour) (i : Nat) : Nat := p.moveRunFrom i 15

/-- A TILES move with a BUFFER source has issued its last read of it. -/
def Pour.moveReadsDone (p : Pour) : Bool :=
  p.code ≠ 0 || decide (p.moveTiles ≤ p.progress + (if p.held.isEmpty then 0 else p.moveRun p.progress))

/-- A running pour still reads a store of an array: the regions of it that the pour reads, or nothing once its last read of them has been
issued (R47): a pour of the array, whose bias an MMC that runs has read; a TILES move with that array as its source (R591); or a collective
that reduces there, which uses the whole A buffer (R780). -/
def Pour.reading (p : Pour) (a : Nat) : List (Nat × Nat × Nat) :=
  if p.unit = .array a && (p.stage = .loading || p.stage = .running) && !p.readsDone then
    (if p.opcode = 2 && p.stage = .running then p.readRegions.take 2 else p.readRegions)
  else if p.opcode = 6 && p.subop / 32 = 0 && p.dA.src = srcBuffer && p.stage = .running && meshFirst p.dA.addr = a && !p.moveReadsDone then
    [(p.param 16 2, p.dA.bufOff, ceilDiv p.mMax 32 * ceilDiv p.nMax 32 * p.dA.tb)]
  else if p.opcode = 0xB && (p.stage = .running || p.stage = .ran) && a ∈ p.reduceArrays then [(0, 0, storeSize 0)]
  else []

/-- Some running pour other than `me` still reads a byte of a range of a store of an array (R47). -/
def State.stillRead (s : State) (me a sel off len : Nat) : Bool :=
  s.pours.any (fun p => p.id ≠ me && (p.reading a).any (fun r => r.1 = sel && overlap r.2.1 r.2.2 off len))

/-- The buffer region that an array pour writes. -/
def Pour.outRegion (p : Pour) : List (Nat × Nat × Nat) :=
  let o := p.dOut
  if o.src = srcBuffer && !p.noOut then
    [(o.bufSel, o.bufOff, ceilDiv p.mMax 32 * (if p.rowFn = fnSiluGate then 1 else ceilDiv p.nMax 32) * o.tb)] else []

/-- The buffer regions of an array pour: those that it reads and its output region. -/
def Pour.regions (p : Pour) : List (Nat × Nat × Nat) := p.readRegions ++ p.outRegion

/-- The output of a pour may take a further sub-tile: the router of its array does not hold two outgoing items (R219), no other pour still
reads the buffer region that it writes (R47), and every write of its earlier sub-tiles that left the part has been acknowledged, so that none
follows a refused one (R203). -/
def State.wayClear (s : State) (p : Pour) : Bool :=
  decide ((s.array p.array).outbox.length < 2) && (p.zeroSize || !p.outRegion.any (fun r => s.stillRead p.id p.array r.1 r.2.1 r.2.2))
    && !s.tc2.any (fun q => q.pour = some p.id)

/-- Every region ends within its store. -/
def regionsFit (l : List (Nat × Nat × Nat)) : Bool := l.all (fun r => decide (r.2.1 + r.2.2 ≤ storeSize r.1))

/-! ### Step 10 -/

/-- A coordinate under MIRROR resolves inside the axis after one reflection (R383). -/
def mirrorOk (n : Nat) (i : Int) : Bool := decide (-(n - 1 : Int) ≤ i) && decide (i ≤ 2 * (n - 1 : Int))

/-- The frame, row or position that a tap reads before its edges are resolved (R365). -/
def Pour.tapT (p : Pour) (kt : Nat) : Int := (p.place.outT * p.geo.st + kt * p.geo.dt : Nat) - (p.geo.pt : Int)
def Pour.tapH (p : Pour) (kh : Nat) : Int := (p.place.outY * p.geo.sh + kh * p.geo.dh : Nat) - (p.geo.ph : Int)
def Pour.tapW (p : Pour) (i kw : Nat) : Int := ((p.place.outX + i) * p.geo.sw + kw * p.geo.dw : Nat) - (p.geo.pw : Int)

/-- Every tap of a position below M resolves under MIRROR (R383); with M zero there is no position. -/
def Pour.mirrorFits (p : Pour) : Bool :=
  p.geo.mode ≠ 2 || p.m = 0 ||
    ((List.range p.geo.kt).all (fun k => mirrorOk p.place.inT (p.tapT k))
      && (List.range p.geo.kh).all (fun k => mirrorOk p.place.inH (p.tapH k))
      && (List.range p.m).all (fun i => (List.range p.geo.kw).all (fun k => mirrorOk p.place.inW (p.tapW i k))))

/-- Step 10 of R170 (R155, R288, R383). -/
def Pour.kOk (p : Pour) : Bool :=
  match p.opcode with
  | 1 => p.k % kStep p.dA p.dB = 0
  | 2 => p.k % kStep p.dA p.dB = 0
  | 3 => p.k % kStep p.dA p.dB = 0 && p.k % p.geo.taps = 0 && p.k / p.geo.taps % 32 = 0
      && decide (p.place.cinFirst + p.k / p.geo.taps ≤ p.place.cin) && p.mirrorFits
  | 4 => p.k = p.geo.taps * p.group && p.mirrorFits
  | _ => true

/-- Step 7 of R170 (R294). -/
def State.watchOk (s : State) (p : Pour) : Bool := !p.watchEn || decide (p.watchSlot < s.rd .watchCount p.flask)

/-- Steps 5 to 10 of R170 for an array pour: the code of the first check that fails, or 0. -/
def State.checkArray (s : State) (p : Pour) : Nat :=
  if s.meetsFence p then cFencedArray
  else if !p.formatOk || !s.bankOk p then cFormatInvalid
  else if !s.watchOk p then cQuotaExceeded
  else if !regionsFit p.regions then cBufferOverflow
  else if p.overflows then cShapeOverflow
  else if !p.kOk then cFormatInvalid
  else cOK

end Sys2Proof.Machine
end

