-- ==== Sys2Proof/Machine/Rows.lean ====
section
/-!
DEFINITION. The row unit: row functions with their frames and statistics, the watch statistic, the conversion of a sub-tile, and its
way to a buffer, to memory or onto the mesh (R49, R105 to R122, R158, R159, R229, R239 to R285, R297 to R300).
-/
namespace Sys2Proof.Machine

/-! ### Runs that may stop -/

/-- Why a pour's run stops: the fault code, DETAIL and the failed words. -/
structure Stop where
  code : Nat
  detail : Nat := 0
  failed : List Nat := []
deriving DecidableEq, Repr

/-- The outcome of a part of a pour's run: what it gives, with the state and the pour after it, or a stop. -/
inductive Run (α : Type) where
  | ok (v : α) (s : State) (p : Pour)
  | stop (x : Stop) (s : State) (p : Pour)

/-- Go on with what a part of a run gave. -/
def Run.bind {α β : Type} (r : Run α) (f : α → State → Pour → Run β) : Run β :=
  match r with
  | .ok v s p => f v s p
  | .stop x s p => .stop x s p

/-- Go through a list in order. -/
def Run.each {α : Type} (l : List α) (f : α → State → Pour → Run Unit) (s : State) (p : Pour) : Run Unit :=
  match l with
  | [] => .ok () s p
  | a :: r => (f a s p).bind (fun _ s p => Run.each r f s p)

/-- A failed word of an array store: it lies in no declared range (R809). -/
def noRange : Nat := 2 ^ 44

/-- The cells or the row unit read bytes of a store of the pour's array (R203, R629, R636, R645). -/
def State.readOwn (s : State) (p : Pour) (sel off len : Nat) : Run (List Byte) :=
  let r := s.readStore p.array sel { rq := rqPour, flask := p.flask } off len
  if r.1.code = 0 then .ok r.1.bytes r.2 p else .stop { code := r.1.code, detail := r.1.detail, failed := [noRange] } r.2 p

/-- FP32 values of packed bytes. -/
def fp32s (n : Nat) (l : List Byte) : List Val := (chunks 4 n l).map (fun c => ofBits (BitVec.ofNat 32 (leNat c)))

/-- Packed bytes of FP32 values. -/
def fp32Bytes (l : List Val) : List Byte := (l.map (fun v => leBytes v.bits.toNat 4)).flatten

/-! ### Sub-tiles -/

/-- A sub-tile of values: rows of columns. -/
abbrev Tile := List (List Val)

/-- The element in row i and column j. -/
def Tile.at (x : Tile) (i j : Nat) : Val := (((x[i]?).getD [])[j]?).getD .zero

/-- The tile whose element in row i and column j is a function of them. -/
def tileOf (rows cols : Nat) (f : Nat → Nat → Val) : Tile :=
  (List.range rows).map (fun i => (List.range cols).map (fun j => f i j))

/-- A function applied to every element. -/
def Tile.each (x : Tile) (f : Val → Val) : Tile := List.map (List.map f) x

/-- A function applied to the elements of two tiles. -/
def Tile.zip (f : Val → Val → Val) (x y : Tile) : Tile := List.zipWith (List.zipWith f) x y

/-- The tile extended to 32 × 32 with zeros (R159). -/
def Tile.full (x : Tile) : Tile := tileOf 32 32 (fun i j => x.at i j)

/-- The rows below M and the columns below N of a pass. -/
def Pour.rowsOf (p : Pour) (q : Pass) : Nat := min 32 (p.m - q.row0)
def Pour.colsOf (p : Pour) (q : Pass) : Nat := min 32 (p.n - q.col0)

/-- The part of a sub-tile that lies below M and N. -/
def Pour.crop (p : Pour) (q : Pass) (x : Tile) : Tile := (x.take (p.rowsOf q)).map (·.take (p.colsOf q))

/-- Free values, numbered from k. -/
def State.freeVal (s : State) (k : Nat) : Val := ofBits ((s.free k).setWidth 32)

/-! ### Frames (R252 to R258) -/

/-- Offsets of a frame. -/
def frStat0 : Nat := 0x0000
def frStat1 : Nat := 0x0200
def frCol0 : Nat := 0x0400
def frCol1 : Nat := 0x0600
def frScalar : Nat := 0x0800
def frHold : Nat := 0x1000

/-- ROW_FRAME in bytes, and STAT_INIT. -/
def Pour.frame (p : Pour) : Nat := 64 * p.param 48 10
def Pour.statInit (p : Pour) : Bool := p.param 58 1 = 1

/-- Read FP32 entries of the frame. -/
def State.readFrame (s : State) (p : Pour) (off n : Nat) : Run (List Val) :=
  (s.readOwn p 2 (p.frame + off) (4 * n)).bind (fun l s p => .ok (fp32s n l) s p)

/-- Write FP32 entries of the frame. -/
def State.writeFrame (s : State) (p : Pour) (off : Nat) (l : List Val) : State :=
  s.mergeStore p.flask p.array 2 (p.frame + off) (fp32Bytes l)

/-- The statistic of the rows of a pass as the pass finds it: from its initial value in the first pass that covers the rows under
STAT_INIT, else from the frame (R255). -/
def State.statBefore (s : State) (p : Pour) (q : Pass) (off : Nat) (init : Val) : Run (List Val) :=
  if p.statInit && q.col0 = 0 then .ok (List.replicate (p.rowsOf q) init) s p
  else s.readFrame p (off + 4 * q.row0) (p.rowsOf q)

/-- Update ROW_STAT_0 of the rows of a pass by their values (R249, R256, R257). -/
def State.statistic (s : State) (p : Pour) (q : Pass) (init : Val) (f : Val → List Val → Val) (x : Tile) : Run Unit :=
  (s.statBefore p q frStat0 init).bind (fun cur s p =>
    .ok () (s.writeFrame p (frStat0 + 4 * q.row0) (List.zipWith f cur x)) p)

/-- One exact sum of a carried value and the squares, or the values, of a row, rounded once; each square is an FP32 input of the tree, rounded
once itself (R241, R249). -/
def sumSquares (c : Val) (l : List Val) : Val := rnd (Val.sum (c :: l.map (fun v => rnd (v.mul v))))
def sumValues (c : Val) (l : List Val) : Val := rnd (Val.sum (c :: l))

/-- The larger of a carried value and a row (R241, R272). -/
def maxValues (c : Val) (l : List Val) : Val := l.foldl Val.max c

/-! ### Row functions (R248 to R274) -/

/-- What a row function gives for a pass: the values below M and N that the conversion receives, if the pass drains any, the trailer of
an online softmax, and whether the output is undefined. -/
structure RowOut where
  z : Option Tile
  trailer : Option (List Byte) := none
  undef : Bool := false
deriving DecidableEq, Repr

/-- The row functions of one value (R248, R275 to R285). -/
def valueFn : Nat → Option (Val → Val)
  | 0x00 => some id
  | 0x01 => some fexp
  | 0x02 => some flog
  | 0x03 => some frecip
  | 0x04 => some frsqrt
  | 0x05 => some silu
  | 0x06 => some geluTanh
  | 0x07 => some softplus
  | _ => none

/-- The value that the output conversion gives an element, read back (R105 to R118). -/
def convertVal (d : Desc) (pass i j : Nat) (v : Val) : Val :=
  let f := fpOf d.fmt
  f.toVal (f.ofVal (if d.stoch then .draw (srDraw d.seed pass i j) else .nearest) v)

/-- A row of SOFTMAX_ONLINE (R268, R269): its new maximum and its probabilities before conversion. -/
def softmaxRow (tau m : Val) (x : List Val) : Val × List Val :=
  let z := x.map (fun v => rnd (v.mul tau))
  let mNew := maxValues m z
  (mNew, z.map (fun v => if mNew = .inf true then .zero else fexp (rnd (v.add mNew.neg))))

/-- A scale τ that R269 allows. -/
def tauOk : Val → Bool
  | .fin neg m _ => !neg && m ≠ 0
  | _ => false

/-- SOFTMAX_ONLINE over the scores of a pass below M and N (R226, R268, R269): the probabilities before conversion, the new statistics,
and the trailer, whose factors of the rows at or above M are free values. With a scale that R269 does not allow the output is undefined and
the frame stays as it is. -/
def State.softmax (s : State) (p : Pour) (q : Pass) (x : Tile) : Run RowOut :=
  (s.statBefore p q frStat0 (.inf true)).bind fun m s p =>
  (s.statBefore p q frStat1 .zero).bind fun l s p =>
  (s.readFrame p frScalar 1).bind fun sc s p =>
    let tau := (sc[0]?).getD .zero
    let freeRow (base i : Nat) : List Byte := leBytes ((s.free (base + i)).setWidth 32 : BitVec 32).toNat 4
    let factors (base : Nat) (v : List Val) : List Byte :=
      ((List.range 32).map (fun i => match v[i]? with
        | some a => fp32Bytes [a]
        | none => freeRow base i)).flatten
    if !tauOk tau then
      .ok { z := some x, trailer := some (factors 0x300200 [] ++ factors 0x300300 []), undef := true } s p
    else
      let rs := List.zipWith (softmaxRow tau) m x
      let sums := (rs.zipIdx).map (fun e => rnd (Val.sum ((e.1.2.zipIdx).map (fun c => convertVal p.dOut q.p e.2 c.2 c.1))))
      let f := List.zipWith (fun old (r : Val × List Val) => if r.1 = .inf true then Val.ofNat 1 else fexp (rnd (old.add r.1.neg))) m rs
      let l1 := List.zipWith (fun a (b : Val × Val) => fma a b.1 b.2) l (f.zip sums)
      let g := l1.map (fun v => if v.isZero then .zero else frecip v)
      let s1 := s.writeFrame p (frStat0 + 4 * q.row0) (rs.map (·.1))
      let s2 := s1.writeFrame p (frStat1 + 4 * q.row0) l1
      .ok { z := some (rs.map (·.2)), trailer := some (factors 0x300200 f ++ factors 0x300300 g) } s2 p

/-- The guidance weight (R260, R274, R528): of the heat's pass, or SCALAR_0. -/
def State.guidanceWeight (s : State) (p : Pour) : Run Val :=
  if p.subop.testBit 0 then
    let h := Sp.get? s.heats p.ladle
    let w : Option (BitVec 32) := h.bind (fun h => p.heat.bind (fun hp => Sp.get? h.guidance hp.pass))
    .ok (ofBits (w.getD 0)) s p
  else (s.readFrame p frScalar 1).bind (fun l s p => .ok ((l[0]?).getD .zero) s p)

/-- The row function of a pour over the sub-tile of a pass. `full` holds every row and column of the sub-tile, `b` the second operand:
a tile, or for RMS_APPLY the gains of the pass's columns in its first row. -/
def State.rowFn (s : State) (p : Pour) (q : Pass) (full b : Tile) : Run RowOut :=
  let x := p.crop q full
  let y := p.crop q b
  let keep (r : Run Unit) (z : Tile) : Run RowOut := r.bind (fun _ s p => .ok { z := some z } s p)
  let rows := p.rowsOf q
  let cols := p.colsOf q
  match valueFn p.rowFn with
  | some f => .ok { z := some (x.each f) } s p
  | none =>
    if p.rowFn = fnScaleBias then
      (s.readFrame p (frCol0 + 4 * q.col0) cols).bind fun mul s p =>
      (s.readFrame p (frCol1 + 4 * q.col0) cols).bind fun add s p =>
        .ok { z := some (List.map (fun row => List.zipWith (fun v (ma : Val × Val) => fma v ma.1 ma.2) row (mul.zip add)) x) } s p
    else if p.rowFn = fnRowScale then
      (s.readFrame p (frStat0 + 4 * q.row0) rows).bind fun st s p =>
        .ok { z := some (List.zipWith (fun (row : List Val) (c : Val) => row.map (fun v => rnd (v.mul c))) x st) } s p
    else if p.rowFn = fnSiluGate then
      (if q.p = 0 then .ok { z := none } (s.writeFrame p frHold ((full.each silu).flatten)) p
       else (s.readFrame p frHold 1024).bind fun h s p =>
        .ok { z := some (p.crop q (tileOf 32 32 (fun i j => rnd ((full.at i j).mul ((h[32 * i + j]?).getD .zero))))) } s p)
    else if p.rowFn = fnRmsAcc then keep (s.statistic p q .zero sumSquares x) x
    else if p.rowFn = fnSumAcc then keep (s.statistic p q .zero sumValues x) x
    else if p.rowFn = fnMaxAcc then keep (s.statistic p q (.inf true) maxValues x) x
    else if p.rowFn = fnRmsApply then
      (s.readFrame p (frStat0 + 4 * q.row0) rows).bind fun st s p =>
      (s.readFrame p frScalar 2).bind fun sc s p =>
        let g := (y[0]?).getD []
        .ok { z := some (List.zipWith (fun (row : List Val) (c : Val) =>
            let r := frsqrt (fma c ((sc[1]?).getD .zero) ((sc[0]?).getD .zero))
            List.zipWith (fun v gain => rnd ((rnd (v.mul r)).mul gain)) row g) x st) } s p
    else if p.rowFn = fnAdd then .ok { z := some (Tile.zip (fun a c => rnd (a.add c)) x y) } s p
    else if p.rowFn = fnMul then .ok { z := some (Tile.zip (fun a c => rnd (a.mul c)) x y) } s p
    else if p.rowFn = fnAddRmsAcc then
      let z := Tile.zip (fun a c => rnd (a.add c)) x y
      keep (s.statistic p q .zero sumSquares z) z
    else if p.rowFn = fnGuidance then
      (s.guidanceWeight p).bind fun w s p =>
        .ok { z := some (Tile.zip (fun c u => fma w (rnd (c.add u.neg)) u) x y) } s p
    else s.softmax p q x

/-! ### Output of a sub-tile -/

/-- The watch statistic of the rows of a sub-tile (R297 to R300), of the values rounded to FP32. -/
def Pour.observe (p : Pour) (z : Tile) : Pour :=
  if !p.watchEn then p else
  let v : List (List Val) := z.each rnd
  let sq := v.map (fun (l : List Val) => rnd (Val.sum (l.map (fun x => x.mul x))))
  { p with
    sumSq := (sq.foldl (fun a r => rnd (a.add r)) (ofBits p.sumSq)).bits,
    count := p.count + (v.map List.length).sum,
    nans := p.nans + (v.map (fun (l : List Val) => (l.filter Val.special).length)).sum }

/-- Add to a counter of a flask, if there is anything to add. -/
def State.countUp (s : State) (k : FKind) (i n : Nat) : State := if n = 0 then s else s.count k i n

/-- The blocks of a written tile: the flask's counters (R120) and the pour's own counts (R299). -/
def countBlocks (s : State) (p : Pour) (c : Quant) : State × Pour :=
  (((s.countUp .quantVanished p.flask c.vanished).countUp .quantSaturated p.flask c.saturated).countUp .quantNan p.flask c.nans,
   if p.watchEn then { p with vanished := p.vanished + c.vanished, saturated := p.saturated + c.saturated, nans := p.nans + c.nans } else p)

/-- The tile column of a pass's output tile: a gated pour has one output tile (R270). -/
def Pour.outCol (p : Pour) (q : Pass) : Nat := if p.rowFn = fnSiluGate then 0 else q.col0 / 32

/-- The pour itself reads the bytes of its output tile in a later pass, and its write is held until its last read (R47). An MMC drains after its
last read. -/
def Pour.holdsOwn (p : Pour) (q : Pass) (off : Nat) : Bool :=
  p.opcode ≠ 2 && decide (q.p + 1 < (passesOf p.tileShape).length)
    && p.readRegions.any (fun r => r.1 = p.dOut.bufSel && overlap r.2.1 r.2.2 off p.dOut.tb)

/-- Write a converted tile where DESC_OUT says (R136, R149, R594), or hold it with its buffer offset. -/
def State.writeTile (s : State) (p : Pour) (q : Pass) (trailer : Option (List Byte)) (tile : List Byte) : Except Nat (State × Pour) :=
  let d := p.dOut
  let nr := ceilDiv p.nMax 32
  if d.src = srcMemory then
    let a := d.tileAddr nr (q.row0 / 32) (p.outCol q)
    (s.putBytes { rq := rqPour, flask := p.flask } (some p.id) (s.hintOf p.flask a d.mb d.hint .write) a (toStored d tile) []).map (fun s1 => (s1, p))
  else if d.src = srcBuffer then
    let off := d.tileOff nr (q.row0 / 32) (p.outCol q)
    if p.holdsOwn q off then .ok (s, { p with held := p.held ++ [(tile, [off])] }) else .ok (s.writeStore p.array d.bufSel off tile [], p)
  else .ok (s.sendItem p (.tile d.fmt d.block16 trailer tile), p)

/-- The output tiles that a pour of an array has held are written: its last read is over (R47). -/
def State.landHeld (s : State) (p : Pour) : State :=
  p.held.foldl (fun (s : State) e => s.writeStore p.array p.dOut.bufSel (e.2.headD 0) e.1 []) s

/-- Hand a sub-tile's values to the conversion, and write the tile; with NO_OUT only the statistic is taken (R260, R298). The blocks of a tile
that leaves the part are counted once it is accepted (R203). An undefined output is free bytes, its statistic that of free values. -/
def State.emit (s : State) (p : Pour) (q : Pass) (o : RowOut) : Run Unit :=
  match o.z with
  | none => .ok () s p
  | some z0 =>
    let z := if o.undef then tileOf (p.rowsOf q) (p.colsOf q) (fun i j => s.freeVal (0x200000 + 1024 * q.p + 32 * i + j)) else z0
    if p.noOut then .ok () s (p.observe z)
    else
      let c := convertTile p.dOut q.p (Tile.full z)
      let tile := if o.undef then s.freeBytes (0x100000 + 4096 * q.p) p.dOut.tb else c.1
      match s.writeTile p q o.trailer tile with
      | .error code => .stop { code := code } s p
      | .ok (s1, p1) =>
        if s1.tc2.any (fun r => r.pour = some p.id) then
          .ok () s1 { p1.observe z with due := [c.2.vanished, c.2.saturated, c.2.nans] }
        else
          let r := countBlocks s1 (p1.observe z) c.2
          .ok () r.1 r.2

/-- The blocks of a tile that has been accepted elsewhere are counted. -/
def countDue (s : State) (p : Pour) : State × Pour :=
  if p.due.isEmpty then (s, p)
  else countBlocks s { p with due := [] } ⟨p.due.getD 0 0, p.due.getD 1 0, p.due.getD 2 0⟩

/-! ### The passes of a pour -/

/-- The passes of a pour that have not been gone through, in order, as far as the way of their output is clear (R203, R219); a pass that R158
skips sends an empty marker in place of its tile (R229). The outcome says whether all are through. -/
def State.passesFrom (body : Pass → State → Pour → Run Unit) : List Pass → State → Pour → Run Bool
  | [], s, p =>
    if p.due.isEmpty then .ok true s p
    else if s.wayClear p then .ok true (countDue s p).1 (countDue s p).2
    else .ok false s p
  | q :: r, s, p =>
    if !s.wayClear p then .ok false s p else
    let c := countDue s p
    let x := if decide (q.row0 < p.m) && decide (q.col0 < p.n) then body q c.1 c.2
      else if p.rowFn = fnSiluGate && q.p = 0 then .ok () c.1 c.2
      else .ok () (c.1.sendItem c.2 .empty) c.2
    x.bind (fun _ s p => State.passesFrom body r s { p with progress := p.progress + 1 })

/-- Go on with the passes of a pour. -/
def State.runPasses (s : State) (p : Pour) (body : Pass → State → Pour → Run Unit) : Run Bool :=
  State.passesFrom body ((passesOf p.tileShape).drop p.progress) s p

end Sys2Proof.Machine
end

