-- ==== Sys2Proof/Machine/Cells.lean ====
section
/-!
DEFINITION. The cells: promotion and accumulation of tiles, initial values, banks, and how a pour of an array starts, loads, computes and
stops (R26 to R59, R135, R163 to R169, R203, R212, R227, R951 to R953).
-/
namespace Sys2Proof.Machine

/-! ### Accumulation (R27 to R35, R227) -/

/-- The promotion interval of a pour (R29). -/
def interval (a b : Desc) : Nat := if a.block16 || b.block16 then 16 else 32

/-- A finite number without its sign of zero: the exact v of R30. -/
def Val.exact : Val → Val
  | .fin neg m e => .ofDy (Val.dy (.fin neg m e))
  | v => v

/-- The promoted value of one interval: the exact block sum times both block scales and both outer scales (R28, R30, R35). Positions
from `k0` of line i of tile `x` of A and line j of tile `y` of B. -/
def promoted (a b : Desc) (x y i j k0 : Nat) : Val :=
  let sum := (List.range (interval a b)).foldl
    (fun (acc : Dy) k => acc.add ((elemVal a.fmt (tileElem a.fmt x i (k0 + k))).mul (elemVal b.fmt (tileElem b.fmt y j (k0 + k)))).dy) ⟨0, 0⟩
  ((((Val.ofDy sum).mul (scaleVal (tileScale a.fmt a.block16 x i k0))).mul (scaleVal (tileScale b.fmt b.block16 y j k0))).mul
    (ofBits (BitVec.ofNat 32 a.outer))).mul (ofBits (BitVec.ofNat 32 b.outer)) |>.exact

/-- Element pairs of an a-cycle in the FP8 and BF16 modes (R27). -/
def dotWidth (fmt : Nat) : Nat := if fmt = fmtBf16 then 2 else 4

/-- The products of one a-cycle (R31). -/
def products (a b : Desc) (x y i j k0 : Nat) : List Val :=
  (List.range (dotWidth a.fmt)).map (fun k =>
    (elemVal a.fmt (tileElem a.fmt x i (k0 + k))).mul (elemVal b.fmt (tileElem b.fmt y j (k0 + k))))

/-- One accumulator after the `width` positions of a tile of A and of B, with the factor of a trailer in the first step
(R30, R31, R227). -/
def accumulate (a b : Desc) (x y width : Nat) (f : Option Val) (i j : Nat) (acc : Val) : Val :=
  let step := if isBlock a.fmt then interval a b else dotWidth a.fmt
  (List.range (width / step)).foldl
    (fun c t =>
      let c' := if t = 0 then (match f with | some v => c.mul v | none => c) else c
      if isBlock a.fmt then rnd (c'.add (promoted a b x y i j (t * step)))
      else rnd (Val.sum (c' :: products a b x y i j (t * step)))) acc

/-- A sub-tile after one tile of A and one of B; `f` gives the factors of the rows (R227). -/
def stepTile (a b : Desc) (x y width : Nat) (f : Option (List Val)) (acc : Tile) : Tile :=
  tileOf 32 32 (fun i j => accumulate a b x y width (f.map (fun l => (l[i]?).getD .zero)) i j (acc.at i j))

/-- Positions that tile t along K holds (R103). -/
def Pour.tileWidth (p : Pour) (t : Nat) : Nat := min 32 (p.k - 32 * t)

/-! ### Banks -/

/-- The sub-tile in a bank. -/
def ArrayRt.bankTile (r : ArrayRt) (b : Nat) : Tile := tileOf 32 32 (fun i j => ofBits (Sp.getD r.banks (1024 * b + 32 * i + j) 0))

/-- Store a sub-tile in a bank. -/
def ArrayRt.setBank (r : ArrayRt) (b : Nat) (x : Tile) : ArrayRt :=
  { r with banks := (List.range 1024).foldl (fun m e => Sp.put m (1024 * b + e) (x.at (e / 32) (e % 32)).bits) r.banks,
           bankBad := r.bankBad.filter (fun w => w / 512 ≠ b) }

/-- The bank of the pass holds the sub-tile. -/
def State.setBank (s : State) (p : Pour) (q : Pass) (x : Tile) : State := s.onArray p.array (fun r => r.setBank (p.passBank q) x)

/-- The initial value of a pass (R36, R140, R141). -/
def State.initTile (s : State) (p : Pour) (q : Pass) : Run Tile :=
  if p.initKind = 1 then
    (s.readOwn p 1 (p.biasOff + 128 * (q.col0 / 32)) 128).bind (fun l s p => .ok (List.replicate 32 (fp32s 32 l)) s p)
  else if p.initKind = 2 then
    (s.readOwn p 1 (p.biasOff + 4096 * q.p) 4096).bind (fun l s p => .ok ((chunks 128 32 l).map (fp32s 32)) s p)
  else .ok (tileOf 32 32 (fun _ _ => .zero)) s p

/-- The bias region overlaps the B operand region: the output is undefined (R142). -/
def Pour.biasOverlaps (p : Pour) : Bool :=
  p.initKind ≠ 0 && p.opcode ≠ 5 && ((p.regions.drop 1).take 1).any (fun r => overlap r.2.1 r.2.2 p.biasOff p.biasBytes)

/-- The sub-tile that leaves a bank, free values where it is undefined. -/
def State.orFree (s : State) (undef : Bool) (q : Pass) (x : Tile) : Tile :=
  if undef then tileOf 32 32 (fun i j => s.freeVal (0x400000 + 1024 * q.p + 32 * i + j)) else x

/-- What leaves a bank goes through the row function and out, or stays in the bank (R49, R167); an undefined output is undefined in either
place (R142). -/
def State.drain (s : State) (p : Pour) (q : Pass) (undef : Bool) (acc : Tile) : Run Unit :=
  let x := s.orFree undef q acc
  let s1 := s.setBank p q x
  if p.dOut.src = srcBank then .ok () s1 p
  else (s1.rowFn p q x []).bind (fun o s p => s.emit p q { o with undef := o.undef || undef })

/-! ### How a pour of an array starts and stops -/

/-- The issue cost per row of the row functions that a DW pour may name (R248). -/
def rowIssue (fn : Nat) : Nat :=
  if fn = 5 || fn = 7 then 4 else if fn = 6 then 5 else if decide (1 ≤ fn) && decide (fn ≤ 4) then 2 else 1

/-- MAC a-cycles of the passes that run, or the issue a-cycles of a DW pour (R291, R952). A ROW pour costs no credit. -/
def Pour.issueCost (p : Pour) : Nat :=
  let d := if isBlock p.dA.fmt then (if p.dB.fmt = fmtTernary then 16 else 8) else dotWidth p.dA.fmt
  if p.opcode = 5 then 0
  else if p.opcode = 4 then 32 * p.passes.length * (p.k + rowIssue p.rowFn)
  else p.passes.length * ceilDiv p.k d

/-- The issue credit allows c0 (R952, R953). -/
def State.creditOk (s : State) (p : Pour) : Bool := p.opcode = 5 || s.rd .duty = 256 || decide (0 ≤ (s.array p.array).credit)

/-- The credit after c0. -/
def State.charge (s : State) (p : Pour) : State :=
  s.onArray p.array (fun r => { r with credit := r.credit - 256 * p.issueCost })

/-- The guidance weight of a heat is known once the pass has read its row (R520, R528). -/
def State.guidanceKnown (s : State) (p : Pour) : Bool :=
  p.opcode ≠ 5 || !p.subop.testBit 0 ||
    (match p.heat, Sp.get? s.heats p.ladle with
      | some hp, some h => (Sp.get? h.guidance hp.pass).isSome
      | _, _ => true)

/-- The banks of a pour are free: claimed by no earlier pour that still drains (R58). -/
def State.banksFree (s : State) (p : Pour) : Bool := p.banksUsed.all (fun b => b ∉ (s.array p.array).claimed)

/-- A pour may reach c0 of its array: it may start, its flask owns the array and is eligible, no restore and no earlier pour is
under way there, and the credit allows it (R59, R177, R204, R538 to R545, R952). -/
def State.arrayMay (s : State) (p : Pour) : Bool :=
  s.starts p && s.ownedBy p.array p.flask && !(s.array p.array).restoring
    && !s.pours.any (fun o => o.unit = .array p.array && (o.stage = .loading || o.stage = .running))
    && s.creditOk p && s.guidanceKnown p

/-- A pour stops on a fault: its banks are released (R203), a bank that it was to read from among them, the tiles that it has drained stand, and
what is still to come over the mesh is discarded (R233). Banks count as claimed from the end of its passes on, so none of `claimed` is its own. -/
def State.stopArray (s : State) (p : Pour) (x : Stop) : State :=
  let s1 := s.onArray p.array (fun r => { r with held := if p.opcode = 5 && p.dA.src = srcBank then none else r.held })
  (((s1.landHeld p).startDiscard p).onPour p.id (fun _ => { p with held := [] })).faultPour p x.code x.detail x.failed

/-- A pour has run: its banks are claimed until BANK_RELEASE, or its bank is held (R50, R167), the credits that it granted and no item
used are void, and its writes are under way. A pour that holds its bank, or that ran nothing, has nothing to evaluate (R156). -/
def State.ranArray (s : State) (p : Pour) : State :=
  let holds := p.dOut.src = srcBank && p.opcode ≠ 5 && !p.zeroSize
  let s1 := s.onArray p.array (fun r =>
    if holds then { r with held := some p.bank, heldBy := p.ladle }
    else { r with claimed := r.claimed ++ p.banksUsed.filter (fun b => b ∉ r.claimed),
                  held := if p.opcode = 5 && p.dA.src = srcBank && !p.zeroSize then none else r.held })
  let s2 := if p.zeroSize then s1 else p.meshNeeds.foldl (fun (s : State) e => s.voidCredits p.array e.src) s1
  s2.onPour p.id (fun _ => { p with stage := .ran, evaluated := p.evaluated || holds || p.zeroSize })

/-- The state after a run: the pour has run, it stands until the way of its output is clear, or it stops. -/
def Run.finish (r : Run Bool) : State :=
  match r with
  | .ok true s p => (s.landHeld p).ranArray { p with held := [] }
  | .ok false s p => s.onPour p.id (fun _ => { p with stage := .running })
  | .stop x s p => s.stopArray p x

/-- A pour without work sends its empty markers (R156, R229). -/
def State.runEmpty (s : State) (p : Pour) : State := (s.runPasses p (fun _ s p => .ok () s p)).finish

/-- The loads of the operands and the bias of a matrix product or a row pour (R147, R160, R163, R262, R263). -/
def State.operandLoads (s : State) (p : Pour) : List Load :=
  let f := p.flask
  let bias := if p.opcode ≠ 5 && p.biasBytes ≠ 0 && p.biasSrc = 0 then
      [{ span := { hint := s.hintOf f p.biasAddr p.biasBytes 0 .read, key := p.biasAddr, len := p.biasBytes },
         sel := 1, desc := none, off := p.biasOff, tiles := 0 : Load }] else []
  let a := if p.opcode = 2 || p.opcode = 3 || p.opcode = 4 then [] else s.tileLoads f p.dA 0 p.packed p.tilesA.1 p.tilesA.2
  let b := match p.vectorB with
    | some n =>
      if p.dB.src = srcMemory && n ≠ 0 then
        [{ span := { hint := s.hintOf f p.dB.addr n p.dB.hint .read, key := p.dB.addr, len := n },
           sel := 1, desc := none, off := p.dB.bufOff, tiles := 0 : Load }] else []
    | none => if p.opcode = 5 && !twoTile p.rowFn then [] else s.tileLoads f p.dB 1 p.packed p.tilesB.1 p.tilesB.2
  a ++ b ++ bias

/-- Whether reads of spans came whole: the stop of the first that failed, with every failed word (R163, R203, R645). -/
def loadStop (qs : List Span) (rs : List RdRes) : Option Stop :=
  match rs.find? (fun r => r.code ≠ 0) with
  | none => none
  | some r => some { code := r.code, detail := r.detail, failed := ((qs.zip rs).map (fun e => e.2.failedAt e.1.key)).flatten }

/-- A running pour still reads bytes of a buffer that a load of the pour would write: the load is held (R47). -/
def State.loadsHeld (s : State) (p : Pour) : Bool :=
  (s.operandLoads p).any (fun l => s.stillRead p.id p.array l.sel l.off (match l.desc with
    | some d => l.tiles * d.tb
    | none => l.span.len))

/-- The memory spans of the operands. -/
def State.operandSpans (s : State) (p : Pour) : List Span := (s.operandLoads p).map (·.span)

/-- Load the operands and go on: wait for words of another part, stop on a failed word, or compute. -/
def State.loadThen (s : State) (p : Pour) (go : State → Pour → State) : State :=
  let ls := s.operandLoads p
  match s.load p p.array ls with
  | .wait s1 => s1
  | .fail c s1 => s1.stopArray p { code := c }
  | .got rs s1 =>
    match loadStop (ls.map (·.span)) rs with
    | some x => s1.stopArray p x
    | none => go s1 p

/-- A pour of an array stands: it runs, and the way of its output was not clear. -/
def Pour.stands (p : Pour) : Bool := p.isArray && p.stage = .running && !p.cancelled

/-- c0 and c1 of a pour of an array (R55, R156, R170, R215): the checks, a pour without work, or the start of its loads; a pour whose
operands are resident goes on at once, and so does one that stood, with its passes. -/
def State.startArray (s : State) (id op : Nat) (spans : State → Pour → List Span) (go again : State → Pour → State) : State :=
  match s.pour? id with
  | none => s
  | some p =>
    if p.opcode = op && p.stands then (if p.zeroSize then s.runEmpty p else again s p) else
    if p.opcode ≠ op || !p.isArray || !s.arrayMay p then s else
    let c := s.checkArray p
    if c ≠ 0 then (s.startDiscard p).faultPour p c 0
    else
      let p := { p with begun := true }
      let s := s.onPour id (fun _ => p)
      if p.zeroSize then (s.startDiscard p).runEmpty p
      else
        let ls := spans s p
        let s1 := (s.charge p).grantAll p
        if ls.isEmpty && p.meshNeeds.all (fun e => e.items = 0) && s.banksFree p then go s1 p
        else s1.onPour id (fun q => { q with stage := .loading })

end Sys2Proof.Machine
end

