-- ==== Sys2Proof/Machine/Window.lean ====
section
/-!
DEFINITION. The window front end: lines and plane slots, padding, CONV and DW pours (R286 to R291, R355 to R383).
-/
namespace Sys2Proof.Machine

/-! ### Coordinates (R365, R368) -/

/-- A coordinate inside its axis, or what its edge rule makes of it; `none` where it reads padding. Under MIRROR a coordinate that one
reflection does not bring inside belongs to a position at or above M, and reads as zero. -/
def resolve (mode n : Nat) (i : Int) : Option Nat :=
  if 0 ≤ i && decide (i < (n : Int)) then some i.toNat
  else if mode = 2 then
    let r := if i < 0 then -i else 2 * ((n : Int) - 1) - i
    if 0 ≤ r && decide (r < (n : Int)) then some r.toNat else none
  else if mode = 3 then some (if i < 0 then 0 else n - 1)
  else none

/-- The frame that plane kt reads, the row of line kh, and the position of line place u. -/
def Pour.frameAt (p : Pour) (kt : Nat) : Option Nat := resolve p.geo.mode p.place.inT (p.tapT kt)
def Pour.rowAt (p : Pour) (kh : Nat) : Option Nat := resolve p.geo.mode p.place.inH (p.tapH kh)
def Pour.posAt (p : Pour) (u : Nat) : Option Nat := resolve p.geo.mode p.place.inW (((p.place.outX * p.geo.sw + u : Nat) : Int) - p.geo.pw)

/-! ### Lines and plane slots (R355, R372 to R376) -/

/-- Channels of a line, KC (R360, R375), and the channel tiles that hold them. -/
def Pour.lineKc (p : Pour) : Nat := if p.opcode = 4 then p.nMax else p.k / p.geo.taps
def Pour.lineTiles (p : Pour) : Nat := ceilDiv p.lineKc 32

/-- Bytes between lines, LB (R373). -/
def Pour.lineBytes (p : Pour) : Nat := ceilDiv (p.lineSpan * p.lineKc * lineQ p.dA) (32 * 64) * 64

/-- The slot of plane kt (R372, R375). -/
def Pour.slotOf (p : Pour) (kt : Nat) : Nat := if p.opcode = 4 then kt else (p.subop % 8 + kt) % p.geo.kt

/-- The first byte of line kh of plane kt. -/
def Pour.lineAt (p : Pour) (kt kh : Nat) : Nat := p.dA.bufOff + (p.slotOf kt * p.geo.kh + kh) * p.lineBytes

/-- Code bytes and scale bytes of a unit of `c` channels (R373). -/
def unitSize (d : Desc) (c : Nat) : Nat × Nat :=
  (ceilDiv (c * elemBits d.fmt) 8, if isBlock d.fmt then ceilDiv c (if d.block16 then 16 else 32) else 0)

/-- Channels and bytes of channel tile j of a line. The last tile of a DW pour may hold fewer than 32 channels; the spec gives no layout inside
a line, and the model packs a position after the other with the scales of each unit after its codes (log entry 57). -/
def Pour.unitChannels (p : Pour) (j : Nat) : Nat := min 32 (p.lineKc - 32 * j)
def Pour.unitLen (p : Pour) (j : Nat) : Nat := (unitSize p.dA (p.unitChannels j)).1 + (unitSize p.dA (p.unitChannels j)).2

/-- Where channel tile j of line place u lies in its line. -/
def Pour.unitOff (p : Pour) (u j : Nat) : Nat :=
  u * (p.lineKc / 32 * lineQ p.dA + (if p.lineKc % 32 = 0 then 0 else p.unitLen (p.lineKc / 32))) + j * lineQ p.dA

/-- A KEEP_MASK bit is set for plane kt (R374). -/
def Pour.keepBit (p : Pour) (kt : Nat) : Bool := p.opcode = 3 && p.subop.testBit (3 + kt)

/-- The planes that a pour loads: those that it does not keep or whose slot is empty (R376, R379). A pour with K zero loads none. -/
def State.loadedPlanes (s : State) (p : Pour) : List Nat :=
  if p.k = 0 then [] else
  (List.range p.geo.kt).filter (fun kt => !(p.keepBit kt && (Sp.get? (s.array p.array).planes (p.slotOf kt)).isSome))

/-! ### Loads (R366, R376, R377) -/

/-- An input tile row: frame, row and group of 32 positions. -/
abbrev Cell := Nat × Nat × Nat

/-- The input tile rows that hold an in-range position of line kh of plane kt. -/
def Pour.lineCells (p : Pour) (kt kh : Nat) : List Cell :=
  match p.frameAt kt, p.rowAt kh with
  | some t, some h => ((List.range p.lineSpan).filterMap (fun u => (p.posAt u).map (fun w => (t, h, w / 32)))).eraseDups
  | _, _ => []

/-- The input tile rows that a pour loads. -/
def State.windowCells (s : State) (p : Pour) : List Cell :=
  (((s.loadedPlanes p).map (fun kt => ((List.range p.geo.kh).map (fun kh => p.lineCells kt kh)).flatten)).flatten).eraseDups

/-- The address of the tiles of an input tile row from CIN_FIRST on (R366). -/
def Pour.cellAddr (p : Pour) (c : Cell) : Nat :=
  let d := p.dA
  let stride := if d.stride = 0 then p.place.cin / 32 * d.mb else d.stride
  d.addr + ((c.1 * p.place.inH + c.2.1) * ceilDiv p.place.inW 32 + c.2.2) * stride + p.place.cinFirst / 32 * d.mb

/-- The memory spans of the window. -/
def State.windowOnly (s : State) (p : Pour) : List Span :=
  let len := p.lineTiles * p.dA.mb
  (s.windowCells p).map (fun c => { hint := s.hintOf p.flask (p.cellAddr c) len p.dA.hint .read, key := p.cellAddr c, len := len })

/-- The memory spans of the window, the B operand and the bias. -/
def State.windowSpans (s : State) (p : Pour) : List Span := s.windowOnly p ++ s.operandSpans p

/-- One position of 32 channels of a line: its codes and then its scales, as bytes. -/
def unitBytes (d : Desc) (codes scales : List Nat) : List Byte :=
  leBytes (packCodes (elemBits d.fmt) codes) (4 * elemBits d.fmt) ++ (if isBlock d.fmt then leBytes (packCodes 8 scales) scales.length else [])

/-- The unit of line r of a plain tile. -/
def tileUnit (d : Desc) (x r : Nat) : List Byte :=
  unitBytes d ((List.range 32).map (fun k => tileElem d.fmt x r k))
    (if d.block16 then [tileScale d.fmt true x r 0, tileScale d.fmt true x r 16] else [tileScale d.fmt false x r 0])

/-- The block that R112 would write for copies of a constant with an outer scale: its scale code and its element code (R370). -/
def constBlock (int4 : Bool) (c outer : Val) : Nat × Nat :=
  match c, outer with
  | .fin neg m e, .fin _ n f =>
    let q : Nat := if int4 then 7 else 6
    let code (scale : Nat) : Nat :=
      let sv := codeMag 3 (-9) scale
      elemCode int4 .nearest neg m (n * sv.1) (e - f - sv.2)
    if m = 0 || n = 0 then (0, 0)
    else if Dy.lt ⟨(448 * q * n : Nat), f⟩ ⟨(m : Int), e⟩ then (0x7E, code 0x7E)
    else if Dy.lt ⟨(m : Int), e⟩ ⟨(q * n : Nat), f - 9⟩ then (0, 0)
    else
      let sc := scaleUp m (q * n) (e - f)
      (sc, code sc)
  | _, _ => (0, 0)

/-- The unit of a padding position (R369 to R371). -/
def Pour.padUnit (p : Pour) : List Byte :=
  let d := p.dA
  if p.geo.mode ≠ 1 then List.replicate (lineQ d) 0
  else
    let c := ofBits (BitVec.ofNat 32 p.place.padConst)
    if isBlock d.fmt then
      let b := constBlock (d.fmt = 1) c (ofBits (BitVec.ofNat 32 d.outer))
      unitBytes d (List.replicate 32 b.2) (List.replicate (if d.block16 then 2 else 1) b.1)
    else unitBytes d (List.replicate 32 ((fpOf d.fmt).ofVal .nearest c)) []

/-- The part of a unit of 32 channels that channel tile j of a line keeps, and such a part as a unit of 32 channels. -/
def Pour.trimUnit (p : Pour) (j : Nat) (l : List Byte) : List Byte :=
  let n := unitSize p.dA (p.unitChannels j)
  l.take n.1 ++ (l.drop (4 * elemBits p.dA.fmt)).take n.2
def Pour.fullUnit (p : Pour) (j : Nat) (l : List Byte) : List Byte :=
  let n := unitSize p.dA (p.unitChannels j)
  padTo (l.take n.1) (4 * elemBits p.dA.fmt) 0 ++ padTo (l.drop n.1) (lineQ p.dA - 4 * elemBits p.dA.fmt) 0

/-- What line place u of line kh of plane kt holds: a position of an input tile row, by its address, or padding. -/
def Pour.lineHolds (p : Pour) (kt kh u : Nat) : Nat :=
  match p.frameAt kt, p.rowAt kh, p.posAt u with
  | some t, some h, some w => 2 * (32 * p.cellAddr (t, h, w / 32) + w % 32)
  | _, _, _ => 2 * leNat p.padUnit + 1

/-- What plane kt needs of its slot (R378): the first and last byte, the family, the geometry, ADDR, CIN_FIRST, KC, OUT_X and OUT_Y, the format of
the lines, and what they hold, place by place. Lines of more places begin with the same. -/
def Pour.planeKey (p : Pour) (kt : Nat) : List Nat :=
  let d := p.dA
  let pl := p.place
  [p.lineAt kt 0, p.lineAt kt 0 + p.geo.kh * p.lineBytes, p.opcode, p.param 16 32, d.addr, pl.cinFirst, p.lineKc, pl.outX, pl.outY, d.fmt,
   if isBlock d.fmt && d.block16 then 1 else 0, d.haze]
  ++ ((List.range p.lineSpan).map (fun u => (List.range p.geo.kh).map (fun kh => p.lineHolds kt kh u))).flatten

/-- Some plane that the pour keeps does not hold the lines that it needs: the output is undefined (R378). -/
def State.planesBad (s : State) (p : Pour) : Bool :=
  p.k ≠ 0 && (List.range p.geo.kt).any (fun kt =>
    p.keepBit kt && !(Sp.getD (s.array p.array).planes (p.slotOf kt) []).take (p.planeKey kt).length = p.planeKey kt)

/-- What the loads of the window brought: for an input tile row and a channel tile, the plain tile and its failed words. -/
def windowTile (p : Pour) (cells : List Cell) (rs : List RdRes) (c : Cell) (j : Nat) : Nat × List Nat :=
  let d := p.dA
  match (cells.zip rs).find? (fun e => e.1 = c) with
  | none => (0, [])
  | some (_, r) =>
    let bad := ((r.failed.map (spoiltData (p.cellAddr c) (p.lineTiles * d.mb))).flatten).filter (fun w => w * 8 / d.mb = j)
    (leNat (toPlain d ((r.bytes.drop (j * d.mb)).take d.mb)), ((bad.map (· - j * d.mb / 8)).map (spoiledWords d)).flatten)

/-- The bytes of line r of a plain tile lie, in part, in a failed word. -/
def lineSpoilt (d : Desc) (r : Nat) (bad : List Nat) : Bool :=
  let e := 4 * elemBits d.fmt
  bad.any (fun w => overlap (8 * w) 8 (r * e) e
    || (isBlock d.fmt && overlap (8 * w) 8 (128 * elemBits d.fmt + r * (if d.block16 then 2 else 1)) (if d.block16 then 2 else 1)))

/-- The units of line kh of plane kt, each with whether a failed word spoils it. -/
def Pour.lineUnits (p : Pour) (tile : Cell → Nat → Nat × List Nat) (kt kh : Nat) : List (List Byte × Bool) :=
  ((List.range p.lineSpan).map (fun u => (List.range p.lineTiles).map (fun j =>
    match p.frameAt kt, p.rowAt kh, p.posAt u with
    | some t, some h, some w =>
      let x := tile (t, h, w / 32) j
      (p.trimUnit j (tileUnit p.dA x.1 (w % 32)), lineSpoilt p.dA (w % 32) x.2)
    | _, _, _ => (p.trimUnit j p.padUnit, false)))).flatten

/-- Write one line; a word with a byte of a spoilt unit is poisoned (R203). -/
def State.writeLine (s : State) (p : Pour) (kt kh : Nat) (units : List (List Byte × Bool)) : State :=
  let bad := ((units.zipIdx).filter (fun e => e.1.2)).map (fun e =>
    let off := p.unitOff (e.2 / p.lineTiles) (e.2 % p.lineTiles)
    (List.range ((off + e.1.1.length - 1) / 8 + 1 - off / 8)).map (· + off / 8))
  s.writeStore p.array 3 (p.lineAt kt kh) ((padTo (units.map (·.1)).flatten p.lineBytes 0).take p.lineBytes)
    (bad.flatten.filter (fun w => decide (8 * w < p.lineBytes)))

/-- The loaded planes enter their slots; a slot whose lines a load overwrites holds nothing that a pour needs. -/
def State.fillSlots (s : State) (p : Pour) (planes : List Nat) : State :=
  s.onArray p.array (fun r =>
    { r with planes := planes.foldl (fun (m : Sp (List Nat)) kt =>
        let key := p.planeKey kt
        let lo := key.getD 0 0
        let hi := key.getD 1 0
        Sp.put (m.map (fun e => if overlap lo (hi - lo) (e.2.getD 0 0) (e.2.getD 1 0 - e.2.getD 0 0) then (e.1, [lo, hi]) else e))
          (p.slotOf kt) key) r.planes })

/-- Perform the loads of the window, the B operand and the bias, then compute. -/
def State.windowThen (s : State) (p : Pour) (go : State → Pour → State) : State :=
  let qs := s.windowOnly p
  let cells := s.windowCells p
  let planes := s.loadedPlanes p
  let ls := s.operandLoads p
  match s.fetch { rq := rqPour, flask := p.flask } (some p.id) (qs ++ ls.map (·.span)) with
  | .wait s1 => s1
  | .fail c s1 => s1.stopArray p { code := c }
  | .got rs s1 =>
    let wr := rs.take qs.length
    let tile := windowTile p cells wr
    let s2 := planes.foldl (fun (s : State) kt =>
      (List.range p.geo.kh).foldl (fun (s : State) kh => s.writeLine p kt kh (p.lineUnits tile kt kh)) s) s1
    let s3 := (ls.zip (rs.drop qs.length)).foldl (fun (s : State) e => s.land p.flask p.array e.1 e.2) s2
    match loadStop (qs ++ ls.map (·.span)) rs with
    | some x => (s3.onArray p.array (fun r => { r with planes := r.planes.filter (fun e => e.1 ∉ planes.map p.slotOf) })).stopArray p x
    | none => go (s3.fillSlots p planes) p

/-! ### CONV (R357 to R361, R364) -/

/-- The element codes and scale codes of a unit. -/
def unitCodes (d : Desc) (x : Nat) : List Nat × List Nat :=
  let w := elemBits d.fmt
  ((List.range 32).map (fun k => bits x (k * w) w), (List.range (if d.block16 then 2 else 1)).map (fun b => bits x (32 * w + 8 * b) 8))

/-- Read the units of channel tile j under a tap for the rows of a pass below M; the other rows read as zero. A unit of a DW pour for which LB
leaves no place is a free value (R373; log entry 57). -/
def State.readUnits (s : State) (p : Pour) (q : Pass) (kt kh kw j : Nat) : Run (List Nat) :=
  let rows := p.rowsOf q
  let rec go : Nat → Nat → State → Pour → List Nat → Run (List Nat)
    | 0, _, s, p, acc => .ok acc s p
    | n + 1, i, s, p, acc =>
      let off := p.unitOff ((q.row0 + i) * p.geo.sw + kw * p.geo.dw) j
      if p.lineBytes < off + p.unitLen j then
        go n (i + 1) s p (acc ++ [leNat (s.freeBytes (0x500000 + 128 * i) (lineQ p.dA))])
      else
        (s.readOwn p 3 (p.lineAt kt kh + off) (p.unitLen j)).bind
          (fun l s p => go n (i + 1) s p (acc ++ [leNat (p.fullUnit j l)]))
  (go rows 0 s p []).bind (fun l s p => .ok (padTo l 32 0) s p)

/-- One pass of a CONV pour up to its last promotion: 32 reduction indices at a time, each within one tap (R360, R361); for a
tile of B that came as an empty marker no MAC is issued (R230). -/
def State.convPass (s : State) (p : Pour) (q : Pass) (acc : Tile) : Nat → Nat → Run Tile
  | 0, _ => .ok acc s p
  | n + 1, t =>
    if p.isEmpty 1 (q.col0 / 32 * p.packed + t) then State.convPass s p q acc n (t + 1) else
    let kc := p.lineTiles
    let tap := t / max 1 kc
    let g := p.geo
    (s.readUnits p q (tap / (g.kh * g.kw)) (tap / g.kw % g.kh) (tap % g.kw) (t % max 1 kc)).bind fun us s p =>
    (s.readOwn p 1 (p.dB.tileOff p.packed (q.col0 / 32) t) p.dB.tb).bind fun y s p =>
      let cs := us.map (unitCodes p.dA)
      let x := leNat (packTile p.dA.fmt p.dA.block16 (cs.map (·.1)) (cs.map (·.2)))
      State.convPass s p q (stepTile p.dA p.dB x (leNat y) 32 none acc) n (t + 1)

/-- The passes of a CONV pour. -/
def State.convRun (s : State) (p : Pour) : State :=
  (s.runPasses p (fun q s p =>
    (s.initTile p q).bind fun i s p =>
    (s.convPass p q i (p.k / 32) 0).bind fun acc s p =>
      s.drain p q (p.biasOverlaps || s.planesBad p) acc)).finish

/-- CONV (R357). -/
def execConv (id : Nat) (s : State) : Host.Outcome State Fault Refusal :=
  done (s.startArray id 3 State.windowSpans (fun s p => s.windowThen p State.convRun) State.convRun)

/-! ### DW (R286 to R291) -/

/-- The value of element k of a unit as the row unit reads it (R245). -/
def unitVal (d : Desc) (x k : Nat) : Val :=
  let c := unitCodes d x
  let v := elemVal d.fmt ((c.1[k]?).getD 0)
  if isBlock d.fmt then
    rnd ((v.mul (scaleVal ((c.2[if d.block16 then k / 16 else 0]?).getD 0))).mul (ofBits (BitVec.ofNat 32 d.outer)))
  else v

/-- The accumulators of a pass after the terms of one tap: one fused multiply-add for each channel of the group (R289), none for a weight that
came in an empty marker (R230). -/
def State.dwTap (s : State) (p : Pour) (q : Pass) (tap : Nat) (us : List Nat) (acc : Tile) : Nat → Nat → Run Tile
  | 0, _ => .ok acc s p
  | n + 1, j =>
    let cols := p.colsOf q
    let g := p.group
    let off := 4 * ((tap * g + j) * p.nMax + q.col0)
    (s.readOwn p 1 (p.dB.bufOff + off) (4 * cols)).bind fun l s p =>
      let w := fp32s cols l
      let acc1 := tileOf 32 32 (fun i c =>
        if p.isEmpty 1 ((off + 4 * c) / p.dB.tb) then acc.at i c
        else if decide (i < p.rowsOf q) && decide (c < cols) then
          fma ((w[c]?).getD .zero) (unitVal p.dA ((us[i]?).getD 0) (c / g * g + j)) (acc.at i c)
        else .zero)
      State.dwTap s p q tap us acc1 n (j + 1)

/-- One pass of a DW pour: the taps in order. -/
def State.dwPass (s : State) (p : Pour) (q : Pass) (acc : Tile) : Nat → Nat → Run Tile
  | 0, _ => .ok acc s p
  | n + 1, tap =>
    let g := p.geo
    (s.readUnits p q (tap / (g.kh * g.kw)) (tap / g.kw % g.kh) (tap % g.kw) (q.col0 / 32)).bind fun us s p =>
    (s.dwTap p q tap us acc p.group 0).bind fun acc s p => State.dwPass s p q acc n (tap + 1)

/-- The passes of a DW pour; its results reach the row function without a bank. -/
def State.dwRun (s : State) (p : Pour) : State :=
  (s.runPasses p (fun q s p =>
    (s.initTile p q).bind fun i s p =>
    (s.dwPass p q i p.geo.taps 0).bind fun acc s p =>
    (s.rowFn p q (s.orFree p.biasOverlaps q acc) []).bind fun o s p => s.emit p q { o with undef := o.undef || p.biasOverlaps })).finish

/-- DW (R289). -/
def execDw (id : Nat) (s : State) : Host.Outcome State Fault Refusal :=
  done (s.startArray id 4 State.windowSpans (fun s p => s.windowThen p State.dwRun) State.dwRun)

end Sys2Proof.Machine
end

