-- ==== Sys2Proof/Machine/Array.lean ====
section
/-!
DEFINITION. MM, MMC and ROW pours, and what arrives over the mesh (R36 to R41, R60 to R65, R163 to R169, R204 to R237, R260 to R274,
R342 to R346).
-/
namespace Sys2Proof.Machine

/-! ### MM (R36 to R41, R55, R342 to R344) -/

/-- The causal rank of a token or key of a brick (R327). -/
def causalRank (seq : Bool) (i : Nat) : Nat := if seq then i else i / 16

/-- The mask word replaces the score in row r and column j by −Inf (R336, R344). -/
def masked (w r j : Nat) : Bool :=
  w.testBit j || (w.testBit 32 && decide (causalRank (w.testBit 41) (bits w 33 5 + r / 2 ^ bits w 38 3) < causalRank (w.testBit 41) j))

/-- The scores of a pass under VISIT_MASK. -/
def Pour.maskScores (p : Pour) (x : Tile) : Tile :=
  if p.visitMask then tileOf 32 32 (fun r j => if masked (p.words.getD 0 0) r j then .inf true else x.at r j) else x

/-- One pass of an MM pour up to its last promotion (R39, R40): tile t of the A panel and of the B panel, in ascending order; for a tile that
came as an empty marker no MAC is issued (R230). -/
def State.mmPass (s : State) (p : Pour) (q : Pass) (acc : Tile) : Nat → Nat → Run Tile
  | 0, _ => .ok acc s p
  | n + 1, t =>
    if p.isEmpty 0 (q.row0 / 32 * p.packed + t) || p.isEmpty 1 (q.col0 / 32 * p.packed + t) then
      State.mmPass s p q acc n (t + 1)
    else
    (s.readOwn p 0 (p.dA.tileOff p.packed (q.row0 / 32) t) p.dA.tb).bind fun x s p =>
    (s.readOwn p 1 (p.dB.tileOff p.packed (q.col0 / 32) t) p.dB.tb).bind fun y s p =>
      State.mmPass s p q (stepTile p.dA p.dB (leNat x) (leNat y) (p.tileWidth t) none acc) n (t + 1)

/-- The passes of an MM pour. -/
def State.mmRun (s : State) (p : Pour) : State :=
  (s.runPasses p (fun q s p =>
    (s.initTile p q).bind fun i s p =>
    (s.mmPass p q i (ceilDiv p.k 32) 0).bind fun acc s p =>
      s.drain p q p.biasOverlaps (p.maskScores acc))).finish

/-- MM (R55). -/
def execMm (id : Nat) (s : State) : Host.Outcome State Fault Refusal :=
  done (s.startArray id 1 State.operandSpans State.mmRun State.mmRun)

/-! ### ROW (R205, R260 to R274) -/

/-- The values of operand A of a pass: a tile of the buffer, or the held bank, unless a restore left a word of it poisoned (R205, R245, R262,
R548, R1082). -/
def State.rowA (s : State) (p : Pour) (q : Pass) : Run Tile :=
  if p.dA.src = srcBank then
    (if (s.array p.array).bankBad.any (fun w => w / 512 = p.bank) then .stop { code := cPoisonRead, failed := [noRange] } s p
     else .ok ((s.array p.array).bankTile p.bank) s p)
  else (s.readOwn p 0 (p.dA.tileOff p.packed (q.row0 / 32) (q.col0 / 32)) p.dA.tb).bind fun x s p =>
    .ok (tileOf 32 32 (fun i j => tileVal p.dA (leNat x) i j)) s p

/-- The second operand: a tile, or the gains of the pass's columns below N (R263). -/
def State.rowB (s : State) (p : Pour) (q : Pass) : Run Tile :=
  if twoTile p.rowFn then
    (s.readOwn p 1 (p.dB.tileOff p.packed (q.row0 / 32) (q.col0 / 32)) p.dB.tb).bind fun x s p =>
      .ok (tileOf 32 32 (fun i j => tileVal p.dB (leNat x) i j)) s p
  else if p.rowFn = fnRmsApply then
    (s.readOwn p 1 (p.dB.bufOff + 4 * q.col0) (4 * p.colsOf q)).bind fun x s p => .ok [fp32s (p.colsOf q) x] s p
  else .ok [] s p

/-- The passes of a ROW pour. -/
def State.rowRun (s : State) (p : Pour) : State :=
  (s.runPasses p (fun q s p =>
    (s.rowA p q).bind fun x s p =>
    (s.rowB p q).bind fun y s p =>
    (s.rowFn p q x y).bind fun o s p => s.emit p q o)).finish

/-- ROW (R265). -/
def execRow (id : Nat) (s : State) : Host.Outcome State Fault Refusal :=
  done (s.startArray id 5 State.operandSpans State.rowRun State.rowRun)

/-! ### MMC (R210 to R214, R223 to R228, R346) -/

/-- The state with a pour in place of the one of its number. -/
def State.putPour (s : State) (p : Pour) : State := s.onPour p.id (fun _ => p)

/-- The end of an MMC pour: pass 0 and then pass 1 drain, with the FINAL factors of the last tile that carried a trailer; without one a
tail with TRAILER writes zero (R212, R227, R346). -/
def State.mmcDrain (s : State) (p : Pour) : State :=
  let g : List Val := match p.parts with
    | t :: _ => fp32s 32 (t.drop 128)
    | [] => List.replicate 32 .zero
  (s.runPasses p (fun q s p =>
    let acc := (s.array p.array).bankTile (p.passBank q)
    if p.trailerOn && p.dOut.src ≠ srcBank then
      let z := p.crop q (if p.parts.isEmpty then tileOf 32 32 (fun _ _ => .zero)
        else tileOf 32 32 (fun i j => ((s.orFree p.biasOverlaps q acc).at i j).mul ((g[i]?).getD .zero)))
      s.emit p q { z := some z, undef := p.biasOverlaps }
    else s.drain p q p.biasOverlaps acc)).finish

/-- The B operand and the bias are in place: the banks take the initial values of both passes (R213), and the pour runs; with K zero it
drains at once (R37). -/
def State.mmcStart (s : State) (p : Pour) : State :=
  match Run.each p.passes (fun q s p => (s.initTile p q).bind (fun i s p => .ok () (s.setBank p q i) p)) s p with
  | .stop x s1 p1 => s1.stopArray p1 x
  | .ok _ s1 p1 =>
    let p2 := { p1 with stage := Stage.running }
    if p2.mmcDone then (s1.putPour p2).mmcDrain p2 else s1.putPour p2

/-- MMC (R210). -/
def execMmc (id : Nat) (s : State) : Host.Outcome State Fault Refusal :=
  done (s.startArray id 2 State.operandSpans State.mmcStart (fun s p => if p.mmcDone then s.mmcDrain p else s))

/-- The pour has taken one more item of an operand. -/
def Pour.took (p : Pour) (i : Nat) : Pour := { p with aux := (padTo p.aux 3 0).set i (p.arrived i + 1) }

/-- An MMC pour has used an item of its A operand: a further credit goes to the sender (R216), and after the last item the pour
drains. -/
def State.mmcTook (s : State) (p : Pour) (src : Nat) : State :=
  let q := p.took 0
  let s1 := s.grant p.array src 1
  if q.mmcDone then (s1.putPour q).mmcDrain q else s1.putPour q

/-- An MMC pour consumes a tile: it lands in its ring slot, with its trailer right after it (R214; log entry 57), and every pass that runs
accumulates it (R165, R212, R223, R227). -/
def State.mmcTile (s : State) (p : Pour) (src : Nat) (trailer : Option (List Byte)) (data : List Byte) : State :=
  let t := p.arrived 0
  let off := p.dA.bufOff + t % p.ringSlots * p.slotBytes
  let s1 := s.writeStore p.array 0 off (data ++ trailer.getD []) []
  let f := trailer.map (fun l => fp32s 32 (l.take 128))
  let run := Run.each p.passes (fun q s p =>
    (s.readOwn p 1 (p.dB.tileOff p.packed (q.col0 / 32) t) p.dB.tb).bind fun y s p =>
      .ok () (s.setBank p q (stepTile p.dA p.dB (leNat data) (leNat y) (p.tileWidth t) f ((s.array p.array).bankTile (p.passBank q)))) p)
    s1 { p with parts := (match trailer with | some l => [l] | none => p.parts) }
  match run with
  | .stop x s2 p2 => s2.stopArray (p2.took 0) x
  | .ok _ s2 p2 => s2.mmcTook p2 src

/-! ### Items of the mesh -/

/-- Where item number i of an operand of a pour lands: store, first byte and size (R53, R135, R164, R223). A region of several tile rows fills
row by row (log entry 57); of the packed vector of a DW or RMS_APPLY pour the last item keeps the bytes below the region's end. -/
def Pour.itemPlace (p : Pour) (operand i : Nat) : Nat × Nat × Nat :=
  if operand = 0 then (0, p.dA.bufOff + i * p.dA.tb, p.dA.tb)
  else if operand = 1 then
    (1, p.dB.bufOff + i * p.dB.tb,
     if p.vectorB.isNone then p.dB.tb else min p.dB.tb (ceilDiv ((if p.opcode = 4 then 4 * p.kMax * p.nMax else 4 * p.nMax) - i * p.dB.tb) 8 * 8))
  else (1, p.biasOff + 4096 * i, min 4096 (p.biasBytes - 4096 * i))

/-- An array discards an item from a sender (R233). -/
def State.discards (s : State) (a src : Nat) : Bool := 1 ≤ Sp.getD (s.array a).discard src 0

def State.discardOne (s : State) (a src : Nat) : State := s.onArray a (fun r => { r with discard := Sp.modify r.discard src 0 (· - 1) })

/-- The format and the trailer bit of a tile agree with the A operand of its receiver (R228); the TRAILER of a receiver that is no MMC counts
as 0 (log entry 57). -/
def Pour.agrees (p : Pour) (fmt : Nat) (trailer : Bool) : Bool := fmt = p.dA.fmt && trailer = p.trailerOn

/-- A running pour still reads bytes of the buffer where the next item of an operand would land: it is held (R47). -/
def State.itemHeld (s : State) (p : Pour) (operand : Nat) : Bool :=
  if p.opcode = 2 && operand = 0 then
    s.stillRead p.id p.array 0 (p.dA.bufOff + p.arrived 0 % max 1 p.ringSlots * p.slotBytes) p.slotBytes
  else
    let w := p.itemPlace operand (p.arrived operand)
    s.stillRead p.id p.array w.1 w.2.1 w.2.2

/-- An item lands in the region of a receiver that waits for all of it. -/
def State.landItem (s : State) (p : Pour) (operand : Nat) (data : List Byte) : State :=
  let w := p.itemPlace operand (p.arrived operand)
  (s.writeStore p.array w.1 w.2.1 ((data ++ s.freeBytes 0 w.2.2).take w.2.2) []).putPour (p.took operand)

/-- MESH_TILE_ARRIVE (R223): the next tile that array `a` can take is discarded, consumed by an MMC pour, or lands in an operand
region; a tile whose format or trailer disagrees faults its receiver (R228). -/
def execMeshTileArrive (a : Nat) (s : State) : Host.Outcome State Fault Refusal :=
  done (match s.takeItem a (fun i => match i with | .tile _ _ _ _ => true | _ => false) with
    | some (src, .tile fmt _ trailer data, s1) =>
      if s1.discards a src then s1.discardOne a src
      else
        match s1.receiver a src with
        | none => s
        | some (p, operand) =>
          if s1.itemHeld p operand then s
          else if operand = 0 && !p.agrees fmt trailer.isSome then s1.stopArray (p.took 0) { code := cFormatInvalid }
          else if p.opcode = 2 && operand = 0 then s1.mmcTile p src trailer ((data ++ s1.freeBytes 0 p.dA.tb).take p.dA.tb)
          else s1.landItem p operand data
    | _ => s)

/-- EMPTY_MARKER_ARRIVE (R230): an empty marker counts as a tile of zeros without trailer. -/
def execEmptyMarkerArrive (a : Nat) (s : State) : Host.Outcome State Fault Refusal :=
  done (match s.takeItem a (fun i => i = .empty) with
    | some (src, _, s1) =>
      if s1.discards a src then s1.discardOne a src
      else
        match s1.receiver a src with
        | none => s
        | some (p, operand) =>
          if s1.itemHeld p operand then s
          else if p.opcode = 2 && operand = 0 then s1.mmcTook p src
          else s1.landItem { p with empties := p.empties ++ [(operand, p.arrived operand)] } operand
            (List.replicate (p.itemPlace operand (p.arrived operand)).2.2 0)
    | none => s)

/-- BREAK_ARRIVE (R232): a break ends the discarding of its sender's items, or ends the pour that expects them with the sender's fault
code; the credits granted to that sender are void. -/
def execBreakArrive (a : Nat) (s : State) : Host.Outcome State Fault Refusal :=
  done (match s.takeItem a (fun i => match i with | .brk _ => true | _ => false) with
    | some (src, .brk code, s1) =>
      if s1.discards a src then (s1.onArray a (fun r => { r with discard := Sp.del r.discard src })).voidCredits a src
      else
        match s1.receiver a src with
        | none => s
        | some (p, _) =>
          -- nothing more is to come from this sender
          let rest := p.meshNeeds.foldl
            (fun (q : Pour) e => if e.src = src then { q with aux := (padTo q.aux 3 0).set e.operand (max e.items e.discards) } else q) p
          (s1.voidCredits a src).stopArray rest { code := code }
    | _ => s)

/-- The pour that stands on an array, because the way of its output was not clear, goes on with its passes (R203, R219). An MMC that still
takes tiles has no pass to go on with. -/
def State.goOn (s : State) (a : Nat) : State :=
  match s.pours.find? (fun p => p.unit = .array a && p.stands) with
  | none => s
  | some p =>
    if p.zeroSize then s.runEmpty p
    else if p.opcode = 1 then s.mmRun p
    else if p.opcode = 2 then (if p.mmcDone then s.mmcDrain p else s)
    else if p.opcode = 3 then s.convRun p
    else if p.opcode = 4 then s.dwRun p
    else s.rowRun p

/-- CREDIT_ARRIVE (R217, R219): the oldest credit on its way to array `a` arrives, its router sends what it may, and a drain that stood
resumes. -/
def execCreditArrive (a : Nat) (s : State) : Host.Outcome State Fault Refusal :=
  done (match s.takeItem a (fun i => i = .credit) with
    | some (recv, _, s1) => ((s1.onArray a (fun r => { r with credits := Sp.modify r.credits recv 0 (· + 1) })).flush a).goOn a
    | none => s)

/-- BANK_RELEASE (R50): a drained bank is released. A bank counts as drained once every row of its pour has left it, so a drain that the router
holds up (R219) has claimed nothing yet. -/
def execBankRelease (a bank : Nat) (s : State) : Host.Outcome State Fault Refusal :=
  let r := s.array a
  done (if bank ∈ r.claimed && r.held ≠ some bank then
    s.onArray a (fun r => { r with claimed := r.claimed.filter (· ≠ bank) })
  else s)

end Sys2Proof.Machine
end

