-- ==== Sys2Proof/Machine/Startup.lean ====
section
/-!
DEFINITION. The start-up phases, shutdowns, and resets through the host's functions
(R836, R837, R867, R909 to R915, R926, R946 to R948, R964, R965, R976 to R1008).
-/
namespace Sys2Proof.Machine

/-! ### What a start-up and a power-off clear -/

/-- The mailbox registers of the management port live on standby power: the indices that outlive a start-up. -/
def standbyBox (k : FKind) (i : Nat) : Bool :=
  let box := if k = .mboxData then i / 16 else i
  (k = .mboxGo || k = .mboxIntEn || k = .mboxCmd || k = .mboxSeq || k = .mboxDone || k = .mboxRc || k = .mboxSeqEcho || k = .mboxData)
    && (box = boxMgmt || box = boxSecMgmt)

/-- The stored register fields that remain when every register block goes to its reset values: those of the management port
windows and, with `power`, those of the blocks that its windows read from standby power (R973, R1025). -/
def keepRows (power : Bool) (csr : List (FKind × Sp (BitVec 64))) : List (FKind × Sp (BitVec 64)) :=
  (csr.map (fun e =>
    if e.1.info.block = .sec || e.1.info.block = .mgt || (power && (e.1.info.block = .power || e.1.info.block = .startup || e.1.info.block = .contrail)) then e
    else (e.1, e.2.filter (fun x => standbyBox e.1 x.1)))).filter (fun e => !e.2.isEmpty)

/-- The work of every flask ends without records or events, every register takes its reset value, and every store becomes
undefined (R646, R982, R1008 and the like rules of the other blocks). Commands of the management port go on. -/
def State.rebuild (s : State) (power : Bool) : State :=
  let onMgmt (c : Option BoxCmd) : Option BoxCmd := c.filter (fun c => c.box = .mgmt || c.box = .secMgmt)
  { s with
    csr := keepRows power s.csr
    mem := {}, cache := [], pours := [], ladles := [], heats := [], heldCq := [], arrays := []
    host := { out := s.host.out }
    mbox := { s.mbox with running := onMgmt s.mbox.running, secRunning := onMgmt s.mbox.secRunning, wordIn := none,
                          wordOpen := [], wordCmds := [], dropped := [] }
    time := {}, entries := []
    power := { emergency := s.power.emergency, cause := s.power.cause }
    loanEnds := [], scrubOpen := [], sramPos := [], enumPos := 0, enumCode := 0, ports := [], tc2 := [], staged := [], colls := [], tgen := []
    contrail := { s.contrail with latch := List.replicate 128 0 } }

/-- Write the bank record: the other of its two copies, under the next sequence number (R912). -/
def SecRt.setRecord (x : SecRt) (preferred : Nat) (trial : Option Nat) : SecRt :=
  { x with preferred := preferred, trial := trial, recordSeq := x.recordSeq + 1, recordOlder := (x.preferred, x.trial) }

/-- What a start-up resets in the secure channel: the debug state ends, the event chain restarts, IDLE_VERIFIED is 0
(R926, R927, R942). -/
def SecRt.restart (x : SecRt) : SecRt :=
  { x with verified := none, lifecycle := if x.lifecycle = 3 then 2 else x.lifecycle, events := List.replicate 48 0,
           challenge := none, retireCode := none, scope := 0, config := [] }

/-- Order of the group of P-384 (FIPS 186-5; log entry 12). -/
def p384Order : Nat := 0xFFFFFFFFFFFFFFFFFFFFFFFFFFFFFFFFFFFFFFFFFFFFFFFFC7634D81F4372DDF581A0DB248B0A77AECEC196ACCC52973

/-- The identity keys derived from the device secret, in the same way at every start-up (R918): the private scalar from 448 bits by the extra
random bits of FIPS 186-5 (R919); the seed and the 16-byte identifier of each of two levels (R920). -/
def SecRt.deriveKeys (x : SecRt) : SecRt :=
  { x with
    ecdsaKey := Config.identityBits x.secret % (p384Order - 1) + 1
    hssKey := [Config.identityHmac x.secret 0, (Config.identityHmac x.secret 1).take 16,
               Config.identityHmac x.secret 2, (Config.identityHmac x.secret 3).take 16] }

/-- A start-up begins with a START_CAUSE (R981): registers at their reset values, BOOT_COUNT one more (R924), DEBUG_UNLOCKED
left for PRODUCTION (R927), and the boot ROM's check of the banks due (R909). -/
def State.beginStartup (s : State) (cause : Nat) : State :=
  let s1 := (if s.sec.lifecycle = 3 then s.contrailAdd 0x0A 0 0 (leBytes 3 4 ++ leBytes 2 4) else s).rebuild false
  let s2 : State := { s1 with
    sec := { s1.sec.restart with bootCount := s1.sec.bootCount + 1 }
    start := { s1.start with startTaken := false, needStart := false, perstReset := false, config := [], tried := [], checkDue := true }
    pins := { s1.pins with thermTripN := true } }
  s2.wr .startCause 0 cause

/-! ### Phases (R976) -/

/-- VIN_50_RISE (R895, R976, R981): the island comes up, the straps are sampled and a power-on start-up begins; `straps` holds STRAP_0
in bit 0. -/
def execVin50Rise (straps : Nat) (s : State) : Host.Outcome State Fault Refusal :=
  done (if s.phase = .off && !s.pins.vin50 then
    let s1 := s.beginStartup 0
    { s1 with
      phase := .standby
      pins := { s1.pins with vin50 := true, straps := BitVec.ofNat 4 straps }
      mbox := { s1.mbox with mgmtI3c := bits straps 0 1 = 0, mgmtStatic := 0x2C + bits straps 1 2, mgmtDynamic := none } }
  else s)

/-- Slots of the contrail ring (R1010). -/
def ringSlots : Nat := 475136

/-- A command that has run and is not yet answered when the power is lost: its last write of MRAM may have been under way. -/
def inProgress (c : Option BoxCmd) (codes : List Nat) : Bool := c.any (fun c => c.rc = 0 && decide (c.cmd ∈ codes))

/-- What a loss of power during a write leaves (R912, R921, R995, R1015; log entry 62): the older copy of the bank record or of the stored
configuration; of the HSS index both copies, one or neither, the higher of which counts; in the slot of a contrail entry under way bytes whose
CRC fails. Free values say how far a write had come. -/
def State.torn (s : State) : State :=
  let cut (i : Nat) : Bool := (s.free (0xA00000 + i)).toNat.testBit 0
  let x := s.sec
  let x1 := if inProgress s.mbox.secRunning [0x06, 0x07] && cut 0 then
      { x with preferred := x.recordOlder.1, trial := x.recordOlder.2, recordSeq := x.recordSeq - 1 } else x
  let x2 := if inProgress s.mbox.secRunning [0x02] && cut 1 then
      { x1 with hssCopy := x1.hssIndex - 1, hssIndex := x1.hssIndex - (if cut 2 then 1 else 0) } else x1
  let c := s.contrail
  let c1 := if inProgress s.mbox.running [0x31] && cut 3 then
      { c with stored := c.storedOlder, storedSeq := c.storedSeq - 1 } else c
  let body := s.freeBytes 0xA00010 124
  let slot := body ++ leBytes ((crc32c body + 1 + (s.free 0xA00004).toNat % (2 ^ 32 - 1)) % 2 ^ 32) 4
  let c2 := if !(c.queue.isEmpty && c.lostDue = 0) && cut 5 then
      { c1 with ring := Sp.put c1.ring ((c.nextSeq.toNat - 1) % ringSlots) slot } else c1
  { s with sec := x2, contrail := c2 }

/-- VIN_50_FALL (R976, R1015): the part enters OFF; only what MRAM, NOR and fuses hold outlives it, and contrail entries not
yet written are lost. -/
def execVin50Fall (s0 : State) : Host.Outcome State Fault Refusal :=
  let s := s0.torn
  let s1 := s.rebuild false
  done { s1 with
    phase := .off, start := {}, csr := [], mbox := {}, power := {}, tap := {}
    pins := { perstN := s.pins.perstN, ibi := s.pins.ibi }
    sec := { s1.sec.restart with buf := [] }
    contrail := { s1.contrail with queue := [], lostDue := 0, mgtLatch := List.replicate 128 0, mgtPtr := 0 } }

/-- Compute power is on: the phases from POWER onward. -/
def State.powered (s : State) : Bool :=
  match s.phase with
  | .off | .standby | .recovery => false
  | _ => true

/-- An emergency shutdown (R964, R965, R978): cause as R973, with the hottest unit and its temperature. -/
def State.emergency (s : State) (cause unit temp : Nat) : State :=
  let s1 := s.contrailAdd 0x06 0 0 (leBytes cause 4 ++ leBytes unit 4 ++ leBytes temp 4)
  let s2 := s1.rebuild true
  { s2 with
    phase := .standby
    pins := { s2.pins with thermTripN := false, pwrGood := false }
    power := { s2.power with emergency := true, cause := cause }
    start := { s2.start with needStart := true, startTaken := false } }

/-- UNDERVOLTAGE_SHUTDOWN (R946, R948). -/
def execUndervoltageShutdown (s : State) : Host.Outcome State Fault Refusal :=
  done (if s.powered then s.emergency 4 s.hottest.1 s.hottest.2 else s)

/-- OVERVOLTAGE_SHUTDOWN (R946, R948). -/
def execOvervoltageShutdown (s : State) : Host.Outcome State Fault Refusal :=
  done (if s.powered then s.emergency 5 s.hottest.1 s.hottest.2 else s)

/-! ### Firmware images (R905 to R907, R912) -/

/-- Octets of a bank (R905): an octet of an unlisted unit is erased (0xFF, log entry 22). -/
def State.bankBytes (s : State) (bank off n : Nat) : List Byte :=
  let u0 := off / 32768
  let units := (List.range ((off + n + 32767) / 32768 - u0)).map (fun i =>
    (Sp.get? s.sec.bank (4096 * bank + u0 + i)).getD (List.replicate 32768 0xFF))
  (units.flatten.drop (off - 32768 * u0)).take n

/-- Form-fit-function code of the part (R926). -/
def State.fff (s : State) : Nat := 0x00109160 + (if s.part1024 then 0x10000 else 0)

/-- Keys of the boot ROM (R908): 0 firmware, 1 debug tokens; the same numbers name both schemes' keys. -/
def keyFirmware : Nat := 0
def keyDebug : Nat := 1

/-- The first failing step of R907 for the image of a bank, or 0 when it is valid. -/
def State.imageCheck (s : State) (bank : Nat) : Nat :=
  let h := s.bankBytes bank 0 4096
  let f (off n : Nat) : Nat := leNat ((h.drop off).take n)
  let zero (off n : Nat) : Bool := ((h.drop off).take n).all (· = 0)
  let len := f 0x010 4
  let reservedOk := zero 0x006 2 && zero 0x00A 2 && zero 0x014 0x2C && zero 0xBDC (4096 - 0xBDC)
  let digest := Config.sha384 (h.take 0x70)
  if f 0 4 ≠ 0x57465758 || f 4 2 ≠ 1 || !reservedOk || len = 0 || decide (134213632 < len) then 1
  else if bits (f 0x00C 4) 0 16 ≠ bits s.fff 0 16 || bits (f 0x00C 4) 20 12 ≠ bits s.fff 20 12 then 2
  else if Config.sha384 (s.bankBytes bank 4096 len) ≠ (h.drop 0x40).take 48 then 3
  else if !Config.ecdsaVerify keyFirmware digest ((h.drop 0x70).take 96) then 4
  else if !Config.lmsVerify keyFirmware digest ((h.drop 0xD0).take 2828) then 5
  else if f 8 1 < s.sec.svn || f 9 1 < s.sec.tokenSvn then 6
  else 0

/-- The bank that the boot ROM checks first: TRIAL, else PREFERRED (R909, R913). -/
def State.firstBank (s : State) : Nat := s.sec.trial.getD s.sec.preferred

/-- The boot ROM may run a bank: it is valid, and no FW_BEGIN has marked it invalid since FW_VERIFY passed on it (R909, R916). -/
def State.bankRuns (s : State) (bank : Nat) : Bool := bank ∉ s.sec.unverified && s.imageCheck bank = 0

/-- BOOT_ROM_CHECK_DONE (R909, R911, R913): once in each start-up the bank under check runs when it is valid, TRIAL being cleared first; else
the other bank is checked, and with both found not valid the part enters recovery. The identity keys are derived (R918). -/
def execBootRomCheckDone (s : State) : Host.Outcome State Fault Refusal :=
  done (if s.phase = .off || s.phase = .recovery || (s.start.imageRuns && !s.start.checkDue) then s else
    let bank := if s.start.tried.isEmpty then s.firstBank else 1 - (s.start.tried.headD 0)
    let trial := s.start.tried.isEmpty && s.sec.trial.isSome
    if s.bankRuns bank then
      { s with
        sec := if trial then s.sec.deriveKeys.setRecord s.sec.preferred none else s.sec.deriveKeys
        start := { s.start with imageRuns := true, runBank := bank, runTrial := trial, tried := [], checkDue := false } }
    else if s.start.tried.isEmpty then { s with start := { s.start with tried := [bank] } }
    else { s with phase := .recovery, start := { s.start with imageRuns := false, tried := [], checkDue := false } })

/-! ### The stored configuration (R995 to R998) -/

/-- The default of an item of the stored configuration, or `none` for an item that R996 does not list. -/
def itemDefault (item : Nat) : Option Nat :=
  if item = 0 then some 0x0002
  else if item = 1 then some 0x1000
  else if item = 2 || item = 3 then some 0
  else if 0x10 ≤ item && item < 0x30 then some 0
  else if 0x40 ≤ item && item < 0x60 then some 1
  else none

/-- The contents of an item as a mask (R996); those of PIN_CFG are its fields. -/
def itemMask (item : Nat) : Nat :=
  if item = 0 then 0x7FFF else if item = 1 then 0x1FFFF else if item = 2 then 0xFFFF else if item = 3 then 1
  else if item < 0x20 then 0x807FFFFF else if item < 0x30 then 0x7FF else 0xF

/-- An item's value in a configuration. -/
def itemOf (c : Sp (BitVec 32)) (item : Nat) : Nat :=
  match Sp.get? c item with
  | some v => v.toNat
  | none => (itemDefault item).getD 0

/-- A value that CFG_WRITE refuses (R996, R997). -/
def itemRefused (item v : Nat) : Bool :=
  v &&& itemMask item ≠ v
    || (item = 0 && bits v 0 2 = 3)
    || (item = 1 && (bits v 0 12 = 0xFFF || bits v 12 4 = 0 || decide (8 < bits v 12 4)))

/-- START_CONDITION (R977, R978): the part leaves STANDBY for POWER, in the start-up that VIN_50 or START began. -/
def execStartCondition (s : State) : Host.Outcome State Fault Refusal :=
  let free := !s.start.needStart && bits (itemOf s.contrail.stored 3) 0 1 = 0 && !s.pins.straps.getLsbD 3
  done (if s.phase = .standby && s.start.imageRuns && s.pins.vin50 && (s.start.startTaken || free) then
    { s with phase := .power, start := { s.start with startTaken := false } }
  else s)

/-- IDENTITY begins, and the stored configuration is read once (R976, R995). -/
def State.enterIdentity (s : State) : State :=
  { s with phase := .identity, start := { s.start with config := s.contrail.stored } }

/-- POWER_PHASE_END (R976): PWR_GOOD rises, and IDENTITY begins once PERST_N is deasserted; a part that fails stays in STANDBY
with FAIL_CAUSE POWER. -/
def execPowerPhaseEnd (ok : Bool) (s : State) : Host.Outcome State Fault Refusal :=
  done (if s.phase ≠ .power || s.pins.pwrGood then s
    else if ok then
      let s1 : State := { s with pins := { s.pins with pwrGood := true } }
      if s.pins.perstN then s1.enterIdentity else s1
    else { s.wr .failCause 0 5 with phase := .standby, start := { s.start with needStart := true, startTaken := false } })

/-- A phase fails (R1007): the part enters FAILED and writes one contrail entry. -/
def State.failStart (s : State) (cause : Nat) : State :=
  let s1 : State := { s.wr .failCause 0 cause with phase := .failed }
  s1.contrailAdd 0x08 0 0 (leBytes (s1.regWord 0xC00000) 4
    ++ ((List.range 16).map (fun i => leBytes (s1.regWord (0xC00010 + 4 * i)) 4)).flatten)

/-- IDENTITY_PHASE_END (R918, R976, R995, R1006): the fuses have been read and the identity keys derived. -/
def execIdentityPhaseEnd (ok : Bool) (s : State) : Host.Outcome State Fault Refusal :=
  done (if s.phase ≠ .identity then s
    else if ok then { s.wr .hostOrder 0 (if s.part1024 then 1 else 0) with phase := .record, sec := s.sec.deriveKeys }
    else s.failStart 1)

/-- RECORD_PHASE_END (R986, R1006): the fence maps and causes are loaded. -/
def execRecordPhaseEnd (ok : Bool) (s : State) : Host.Outcome State Fault Refusal :=
  done (if s.phase ≠ .record then s else if ok then { s.loadFences with phase := .selftest } else s.failStart 2)

/-- SELFTEST_PHASE_END (R66, R68, R987, R988): `arrays` lists failed arrays with their CAUSE (1 cells, banks or row unit, 2 a
buffer). -/
def execSelftestPhaseEnd (arrays : List (Nat × Nat)) (routers srams : List Nat) (s : State) : Host.Outcome State Fault Refusal :=
  done (if s.phase ≠ .selftest then s else
    let s1 := arrays.foldl (fun (s : State) e => s.fenceArray e.1 (if e.2 = 2 then 2 else 1)) s
    let s2 := routers.foldl (fun (s : State) a => s.fenceRouter a) s1
    if srams.isEmpty then { s2 with phase := .qualify } else s2.failStart 3)

/-- A pseudo-channel passes its test over `mib` MiB: no uncorrectable word, and at most one corrected word for every 4 MiB (R991 for the 64 MiB
of the qualification, R1039). -/
def ChannelPasses (t : ChannelTest) (mib : Nat) : Bool := t.uncorrectable = 0 && decide (4 * t.corrected ≤ mib)

/-- The pseudo-channels of a stack that fail their test over `mib` MiB by what their checkers found; a channel of which nothing is reported
showed no such word. -/
def failedChannels (results : List ChannelTest) (mib stack : Nat) : List Nat :=
  (((results.filter (fun t => t.stack = stack && decide (t.channel < 64))).filter (fun t => !ChannelPasses t mib)).map (·.channel)).eraseDups

/-- A byte of the stack tier lies in what the generators of some stacks write over the lowest `mib` MiB of each pseudo-channel (R569, R570,
R990). -/
def State.tested (s : State) (chosen : List Nat) (mib a : Nat) : Bool :=
  decide (tierOf a = 0) && decide (s.channelOf a / 64 ∈ chosen) && decide (s.channelOffset a < mib * 2 ^ 20)

/-- Every word of which a test holds is undefined. -/
def State.forgetWhere (s : State) (test : Nat → Bool) : State :=
  { s with mem := { s.mem with
      cells := s.mem.cells.filter (fun e => !test e.1)
      marks := s.mem.marks.filter (fun e => !test (8 * e.1)) } }

/-- STACK_QUALIFICATION_END (R990 to R994): `results` is what the checkers of the stack's pseudo-channels found over 64 MiB of each, where the
pattern then stands; at the end of STACKS every stack word is undefined. -/
def execStackQualificationEnd (stack : Nat) (results : List ChannelTest) (s : State) : Host.Outcome State Fault Refusal :=
  let failed := (failedChannels results 64 stack).length
  done (if s.phase ≠ .qualify || decide (16 ≤ stack) || s.rd .qualResult stack = 1 then s else
    let n := s.rd .qualAttempts stack + 1
    let s1 := ((s.forgetWhere (s.tested [stack] 64)).wr .qualAttempts stack n).wr .qualFailedChannels stack failed
    if failed = 0 then
      let s2 := s1.wr .qualResult stack 1
      if (List.range 16).all (fun i => s2.rd .qualResult i = 1) then { s2.forgetWhere (fun a => tierOf a = 0) with phase := .config } else s2
    else
      let s2 := s1.wr .qualResult stack 2
      if 3 ≤ n then s2.failStart 4 else s2)

/-- Load the fields marked "from start-up" (R571, R998). A valid window of a number of stacks other than 1, 2, 4 or 8, for which R570
gives no places, is refused with the pin configuration (log entry 29). -/
def State.loadConfig (s : State) : State :=
  let c := itemOf s.start.config
  let planes := bits (c 1) 12 4
  let windows := (List.range 16).filter (fun i => bits (c (0x10 + i)) 31 1 = 1)
  let sum (st : Nat) : Nat := ((windows.filter (fun i => (c (0x10 + i)).testBit st)).map (fun i => bits (c (0x10 + i)) 16 7)).sum
  let pinsOk := (List.range 16).all (fun st => sum st = bits (c 0) 8 7)
    && windows.all (fun i => popcount (c (0x10 + i)) 16 ∈ [1, 2, 4, 8])
  let s1 := ((s.wr .memMode 0 (bits (c 0) 0 2)).wr .fastInterleave 0 (bits (c 0) 2 1)).wr .pinReserve 0 (if pinsOk then bits (c 0) 8 7 else 0)
  let s2 := (List.range 16).foldl (fun (s : State) i =>
    (((s.wr .pinStackMask i (bits (c (0x10 + i)) 0 16)).wr .pinGibPerStack i (bits (c (0x10 + i)) 16 7)).wr .pinValid i
      (if pinsOk then bits (c (0x10 + i)) 31 1 else 0)).wr .pinBaseGib i (bits (c (0x20 + i)) 0 11)) s1
  let s3 := ((s2.wr .fabDevice 0 (bits (c 1) 0 12)).wr .fabPlanes 0 planes).wr .fabMode 0 (bits (c 1) 16 1)
  let s4 := (s3.wr .wmbWordEn 0 (bits (c 2) 0 1)).wr .wmbMgrDevice 0 (bits (c 2) 4 12)
  (List.range 32).foldl (fun (s : State) n =>
    let v := c (0x40 + n)
    (s.wr .portPlane n (bits v 1 3)).wr .portEnable n (if bits v 1 3 < planes then bits v 0 1 else 0)) s4

/-- A port enters TRAINING (R711): lasers on; a laser that still reports FAULT takes the port on to FAILED with cause LASER (R714). -/
def State.enterTraining (s : State) (n : Nat) : State :=
  if s.bit .laserFault n then (s.wr .portState n 5).wr .downCause n 6
  else (s.onPort n (fun r => { r with lineOn := true })).wr .portState n 1

/-- The configuration record (R925). -/
def State.configRecord (s : State) : List Byte :=
  let word (off : Nat) : List Byte := leBytes (s.regWord off) 4
  word 0x500000 ++ ((List.range 16).map (fun i => word (0x500010 + 4 * i))).flatten
  ++ ((List.range 16).map (fun i => word (0x500050 + 4 * i))).flatten
  ++ word 0x700000 ++ leBytes (bits (s.regWord 0x700004) 0 1) 4 ++ leBytes s.pins.straps.toNat 4
  ++ ((List.range 16).map (fun i => word (0x200100 + 4 * i))).flatten
  ++ ((List.range 16).map (fun i => word (0x200140 + 4 * i))).flatten

/-- CONFIG_PHASE_END (R998 to R1000): the configuration is applied, the scrub entry armed with the clock at 0 and UNLOCKED, the
enabled ports enter TRAINING, and the part enters READY with a STARTUP contrail entry. MS_TO_READY is a time that the model does
not measure: a free value (log entry 8). -/
def execConfigPhaseEnd (s : State) : Host.Outcome State Fault Refusal :=
  done (if s.phase ≠ .config then s else
    let s1 := s.loadConfig
    let s2 : State := { s1.wr .lockState 0 lockUnlocked with time := {} }
    let s3 := s2.armScrub
    let s4 := ((List.range 32).filter (fun n => s3.bit .portEnable n)).foldl (fun (s : State) n => s.enterTraining n) s3
    let s5 : State := { s4.wr .msToReady 0 (s.free 0).toNat with
      phase := .ready, power := { s4.power with emergency := false, cause := 0 } }
    let s6 : State := { s5 with sec := { s5.sec with config := s5.configRecord } }
    s6.contrailAdd 0x07 0 0 (leBytes (s6.regWord 0xC00000) 4 ++ leBytes (s6.regWord 0xC00004) 4 ++ leBytes (s6.regWord 0x200010) 4))

/-- PERST_N_ASSERT (R982): from IDENTITY onward the work of every flask ends without records or events; the part then waits for
PERST_N with the rails up, as POWER does. -/
def execPerstNAssert (s : State) : Host.Outcome State Fault Refusal :=
  let s1 : State := { s with pins := { s.pins with perstN := false } }
  done (if s.bar0Up then
    { s1.rebuild true with phase := .power, start := { s1.start with perstReset := true } }
  else s1)

/-- PERST_N_DEASSERT (R976, R981): with PWR_GOOD high IDENTITY begins; after an assertion this is a start-up of its own. -/
def execPerstNDeassert (s : State) : Host.Outcome State Fault Refusal :=
  let s1 : State := { s with pins := { s.pins with perstN := true } }
  done (if s.phase = .power && s.pins.pwrGood && !s.pins.perstN then
    (if s.start.perstReset then s1.beginStartup 1 else s1).enterIdentity
  else s1)

/-- STOP (R978, R982): the work of every flask ends without records or events, and power leaves everything but the island. -/
def State.stopPart (s : State) : State :=
  let s1 := s.rebuild true
  { s1 with
    phase := .standby
    pins := { s1.pins with pwrGood := false }
    start := { s1.start with needStart := true, startTaken := false } }

/-! ### Resets through the host's functions -/

/-- A function is reset while its command runs: the response will be discarded (R867). -/
def State.dropCommand (s : State) (mine : Box → Bool) : State :=
  let hit (c : Option BoxCmd) : List Box := match c with
    | some c => if mine c.box then [c.box] else []
    | none => []
  { s with mbox := { s.mbox with dropped := (s.mbox.dropped ++ hit s.mbox.running ++ hit s.mbox.secRunning).eraseDups } }

/-- Configuration space of some functions takes its reset values (log entry 16). -/
def HostRt.forgetFns (h : HostRt) (which : Nat → Bool) : HostRt :=
  let left (l : List Nat) : List Nat := l.filter (fun n => !which n)
  { h with msixOn := left h.msixOn, msixHeld := left h.msixHeld, sleeping := left h.sleeping, bar2Log := if which 0 then 36 else h.bar2Log }

/-- FLR_VF (R836, R867). -/
def execFlrVf (v : Nat) (s : State) : Host.Outcome State Fault Refusal :=
  done (if s.bar0Up && s.vfExists v then
    let s0 := s.dropCommand (fun b => b = .vf v)
    let s1 : State := { s0 with host := s0.host.forgetFns (fun n => n = v) }
    if s1.bit .resetBusy v then s1 else s1.flaskResetStart v
  else s)

/-- VF_ENABLE_CLEAR (R836): a flask reset of every existing VF's flask; the VFs no longer exist. -/
def execVfEnableClear (s : State) : Host.Outcome State Fault Refusal :=
  done (if s.bar0Up then
    let s1 := (((List.range 64).filter (fun v => s.vfExists v && !s.bit .resetBusy v)).foldl (fun (s : State) v => s.flaskResetStart v) s).clr
      .linkVfEnable
    { s1 with host := s1.host.forgetFns (fun n => decide (0 < n) && decide (n < 64)) }
  else s)

/-- Register fields that the host block's reset leaves as the last start-up loaded them, and the mailboxes that are not
PF0's. -/
def flrKeeps (k : FKind) (i : Nat) : Bool :=
  let box := if k = .mboxData then i / 16 else i
  k = .hostOrder || k = .wmbWordEn || k = .wmbMgrDevice
    || ((k = .mboxGo || k = .mboxIntEn || k = .mboxCmd || k = .mboxSeq || k = .mboxDone || k = .mboxRc || k = .mboxSeqEcho
          || k = .mboxData) && decide (boxMgmt ≤ box))

/-- FLR_PF0 (R837, R867): a flask reset of every flask, and every register of the host block at its reset value. Complete commands of the
word mailbox, which is no function's, go on. -/
def execFlrPf0 (s : State) : Host.Outcome State Fault Refusal :=
  done (if s.bar0Up then
    let s1 := s.dropCommand (fun b => match b with | .pf _ => true | .vf _ => true | _ => false)
    let s2 := ((List.range 64).filter (fun f => !s1.bit .resetBusy f)).foldl (fun (s : State) f => s.flaskResetStart f) s1
    let rows := s2.csr.map (fun e => if e.1.info.block = .host then (e.1, e.2.filter (fun x => flrKeeps e.1 x.1)) else e)
    { s2 with
      csr := rows.filter (fun e => !e.2.isEmpty)
      host := { s2.host.forgetFns (fun n => decide (n < 64)) with irqLevel := 0, held := [], bells := [] }
      mbox := { s2.mbox with wordIn := none, wordOpen := [] } }
  else s)

/-- FLR_PF1 (R867): a command that runs goes on to its end and its response is discarded; otherwise GO and DONE of the secure mailbox are
left at 0 at once. -/
def execFlrPf1 (s : State) : Host.Outcome State Fault Refusal :=
  let runs : Bool := match s.mbox.secRunning with
    | some c => c.box = Box.secPf1
    | none => false
  let s1 : State := { s with host := s.host.forgetFns (fun n => n = 64) }
  done (if !s.bar0Up then s
    else if runs then s1.dropCommand (fun b => b = Box.secPf1)
    else (s1.clr .mboxGo boxSecPf1).clr .mboxDone boxSecPf1)

end Sys2Proof.Machine
end

