-- ==== Sys2Proof/Machine/Power.lean ====
section
/-!
DEFINITION. The power governor, issue credit, temperature classes, telemetry frames, and the passing of one a-cycle
(R946 to R975, R481).
-/
namespace Sys2Proof.Machine

/-! ### Envelope and governor -/

/-- Input cap of an envelope in W (R950). -/
def envelopeCap (e : Nat) : Nat := if e = 0 then 1500 else if e = 1 then 2000 else 2400

/-- STACK_CAP of an envelope (R950). -/
def envelopeStackCap (e : Nat) : Nat := if e = 0 then 128 else if e = 1 then 205 else 256

/-- duty_limit (R956). -/
def State.dutyLimit (s : State) : Nat := if (List.range 4).any (fun d => s.rd .dieClass d = 1) then 128 else 256

/-- The DUTY that the governor sets after a measurement (R955). -/
def governor (duty limit cap pIn : Nat) : Nat :=
  let target := cap - 50
  let d :=
    if target < pIn then max 16 (duty * target / pIn)
    else if pIn < target - 50 then min limit (duty + 8)
    else duty
  min d limit

/-- A bit of PWR_EVENT sets, and with it POWER in HOST_INT_CAUSE (R972). -/
def State.powerEvent (s : State) (k : FKind) : State := (s.setBit k).cause causePower

/-- POWER_MEASUREMENT (R949, R955, R972): volts and amps in hundredths, watts in W. -/
def execPowerMeasurement (volts amps watts : Nat) (s : State) : Host.Outcome State Fault Refusal :=
  done (if !s.island then s else
    let s1 := ((s.wr .pwrVolts 0 (min volts 65535)).wr .pwrAmps 0 (min amps 65535)).wr .pwrWatts 0 (min watts 65535)
    let s2 := if volts < 4600 || 5600 < volts then s1.powerEvent .pwrInputWarn else s1
    let old := s2.rd .duty
    let new := governor old s2.dutyLimit (envelopeCap (s2.rd .envelope)) watts
    let s3 := s2.wr .duty 0 new
    if new < old then (s3.powerEvent .pwrGoverned).pulse 2 6 else s3)

/-! ### Temperature classes (R959 to R964); temperatures are in 0.25 °C -/

def stackThrottleAt : Nat := 340
def stackDrainAt : Nat := 380
def stackTripAt : Nat := 420
def dieThrottleAt : Nat := 400
def dieTripAt : Nat := 460
def engineTripAt : Nat := 400

/-- The class after a sample: never lower than before, since a class is left by R961 alone. -/
def stackClassUp (old t : Nat) : Nat := max old (if stackDrainAt ≤ t then 2 else if stackThrottleAt ≤ t then 1 else 0)

/-- The class of a compute die after a sample. -/
def dieClassUp (old t : Nat) : Nat := max old (if dieThrottleAt ≤ t then 1 else 0)

/-- A stack enters its drain class: ABANDON with CAUSE 0b10 for every ARMED or OPEN COLL_PHASE entry, and each is freed (R481). -/
def State.drainAbandon (s : State) : State :=
  (s.usedEntries.filter (fun e => s.rd .entKind e = kCollPhase && (s.rd .entState e = eArmed || s.rd .entState e = eOpen))).foldl
    (fun (s : State) e => (s.abandonEntry e 2 (descPlanes (s.entry e).desc)).clearEntry e) s

/-- A response register of a command that has run. -/
def respReg (c : BoxCmd) (n : Nat) : Nat := ((c.resp.find? (fun e => e.1 = n)).map (fun e => e.2.toNat)).getD 0

/-- A stack that enters its drain class stops its part of a TGEN_RUN under way, which will report it stopped (R1040). -/
def State.stopTgen (s : State) (i : Nat) : State :=
  match s.mbox.secRunning with
  | none => s
  | some c =>
    let passed := respReg c 0
    let failed := respReg c 1
    if c.cmd ≠ 0x10 || c.rc ≠ 0 || !(passed ||| failed).testBit i then s else
    let bit := 1 <<< i
    let resp := [(0, passed &&& (0xFFFF - bit)), (1, failed &&& (0xFFFF - bit)), (2, respReg c 2 ||| bit)]
    { s.wr .tgenResult i 3 with
      mbox := { s.mbox with secRunning := some { c with resp := resp.map (fun e => (e.1, BitVec.ofNat 32 e.2)) } } }

/-- One stack's sample. -/
def State.stackSample (s : State) (i t : Nat) : State :=
  let old := s.rd .stackClass i
  let new := stackClassUp old t
  let s1 := (s.wr .stackTemp i (min t 1023)).wr .stackClass i new
  let s2 := if new ≠ old then s1.powerEvent .pwrStackClass else s1
  if new = 2 && old ≠ 2 then s2.drainAbandon.stopTgen i else s2

/-- One compute die's sample: on entering throttle DUTY falls to duty_limit at once (R956). -/
def State.dieSample (s : State) (i t : Nat) : State :=
  let old := s.rd .dieClass i
  let new := dieClassUp old t
  let s1 := (s.wr .dieTemp i (min t 1023)).wr .dieClass i new
  if new ≠ old then
    let s2 := s1.powerEvent .pwrDieClass
    s2.wr .duty 0 (min (s2.rd .duty) s2.dutyLimit)
  else s1

/-- TEMPERATURE_SAMPLE (R959, R960, R964). -/
def execTemperatureSample (stackTemps dies engines : List Nat) (s : State) : Host.Outcome State Fault Refusal :=
  done (if !s.powered then s else
    let s1 := (stackTemps.take 16).zipIdx.foldl (fun (s : State) e => s.stackSample e.2 e.1) s
    let s2 := (dies.take 4).zipIdx.foldl (fun (s : State) e => s.dieSample e.2 e.1) s1
    let s3 := (engines.take 8).zipIdx.foldl (fun (s : State) e => s.wr .engineTemp e.2 (min e.1 1023)) s2
    let h := s3.hottest
    if (stackTemps.take 16).any (fun t => decide (stackTripAt ≤ t)) then s3.emergency 1 h.1 h.2
    else if (dies.take 4).any (fun t => decide (dieTripAt ≤ t)) then s3.emergency 2 h.1 h.2
    else if (engines.take 8).any (fun t => decide (engineTripAt ≤ t)) then s3.emergency 3 h.1 h.2
    else s3)

/-- THERMAL_CLASS_EXIT (R961): a unit whose temperature has stayed 5 °C or more below its class's entry threshold leaves the
class, a draining stack into throttle. -/
def execThermalClassExit (unit : ThermalUnit) (s : State) : Host.Outcome State Fault Refusal :=
  done (match unit with
    | .stack i =>
      let t := s.rd .stackTemp i
      if s.rd .stackClass i = 2 && decide (t + 20 ≤ stackDrainAt) then (s.wr .stackClass i 1).powerEvent .pwrStackClass
      else if s.rd .stackClass i = 1 && decide (t + 20 ≤ stackThrottleAt) then (s.wr .stackClass i 0).powerEvent .pwrStackClass
      else s
    | .die i =>
      if s.rd .dieClass i = 1 && decide (s.rd .dieTemp i + 20 ≤ dieThrottleAt) then (s.wr .dieClass i 0).powerEvent .pwrDieClass
      else s
    | .engine _ => s)

/-! ### Telemetry (R968 to R970) -/

/-- TELEMETRY (R968, R969): one frame to MGR_DEVICE on TC3, or one more frame not sent. -/
def execTelemetry (e : Nat) (s : State) : Host.Outcome State Fault Refusal :=
  done (if s.firesNow e kTelemetry then (s.fireBefore e).fireTelemetry e else s)

/-! ### One a-cycle -/

/-- Ceiling of the issue credit in units of 1/256 (R951). -/
def creditCeiling : Int := 16777216

/-- The failed words that evictions have met are counted and logged, for a requester that the spec does not name (R629, R660; log entry 10). -/
def State.logEvicted (s : State) : State :=
  let who : Who := { rq := (s.free 0x800000).toNat % 9, flask := (s.free 0x800001).toNat % 64 }
  s.power.evicted.foldl (fun (s : State) e =>
    (if e.2 then s.count .poisonReads 0 else s.count .eccUeSram (s.dieOf (8 * e.1))).logError (8 * e.1) stSram (if e.2 then 1 else 0) who 0)
    { s with power := { s.power with evicted := [] } }

/-- One a-cycle passes in READY: the almanac clock advances, every array earns DUTY / 256 of issue credit, and the probe mux is clocked, with
the almanac tick at each whole µs among its signals (R442, R951, R1027, R1030). -/
def State.cycle (s : State) : State :=
  if s.ready then
    let s1 : State := { s with
      time := s.time.tick
      arrays := s.arrays.map (fun e => (e.1, { e.2 with credit := min creditCeiling (e.2.credit + s.rd .duty) })) }
    (if s1.time.now / 1000 ≠ s.time.now / 1000 then s1.pulse 0 0 else s1).clockProbe.logEvicted
  else s

end Sys2Proof.Machine
end

