-- ==== Sys2Proof/Machine/Entries.lean ====
section
/-!
DEFINITION. Writes of pattern table registers and of group entries, with their register commands (R405 to R410, R440, R728 to
R732).
-/
namespace Sys2Proof.Machine

/-! ### Pattern table registers -/

/-- Bytes of an element of a table's format, or 0 for a code that is no table format (R406). -/
def tableElemBytes (fmt : Nat) : Nat := if fmt = 3 || fmt = 4 then 1 else if fmt = 5 then 2 else if fmt = 6 then 4 else 0

/-- The fields of a table meet R406. -/
def tableLegal (fmt elems32 : Nat) : Bool :=
  tableElemBytes fmt ≠ 0 && decide (1 ≤ elems32) && decide (elems32 ≤ 128) && decide (32 * elems32 * tableElemBytes fmt ≤ 4096)

/-- What a table register write did: took effect; was ignored by R408; left VALID at 0 by R409. -/
inductive TableWritten where
  | done | ignored | invalid
deriving DecidableEq, Repr

/-- Store the fields of TABLE_CFG but VALID. -/
def State.tableCfg (s : State) (n v : Nat) : State :=
  ((((s.wr .tableFormat n (bits v 4 4)).wr .tableRowElems32 n (bits v 8 8)).wr .tableOwner n (bits v 16 6)).wr
    .tableRetireSigEn n (bits v 22 1)).wr .tableRetireSem n (bits v 24 6)

/-- VALID becomes 1: slot A is current with generation 1, slot B retired with generation 0 (R410). -/
def State.tableStart (s : State) (n : Nat) : State :=
  ((((s.wr .tableValid n 1).wr .tableStateA n 1).wr .tableStateB n 0).wr .tableGenA n 1).wr .tableGenB n 0

/-- Write the bits `mask` of a table register (R408 to R410). -/
def State.tableSet (s : State) (n : Nat) (reg : TableReg) (mask v : Nat) : TableWritten × State :=
  let valid := s.bit .tableValid n
  let base (k st : FKind) : TableWritten × State :=
    if valid && s.rd st n ≠ 0 then (.ignored, s)
    else
      let p := fieldPart mask v k 12
      (.done, s.wr k n ((s.rd k n &&& (2 ^ 32 - 1 - p.1)) ||| p.2))
  match reg with
  | .cfg =>
    if valid && bits v 0 1 = 1 then (.ignored, s)
    else
      let s1 := (s.tableCfg n v).wr .tableValid n 0
      if bits v 0 1 = 0 then (.done, s1)
      else if tableLegal (bits v 4 4) (bits v 8 8) then (.done, s1.tableStart n) else (.invalid, s1)
  | .rows => if valid then (.ignored, s) else (.done, s.wr .tableRowsM1 n (v % 2 ^ 32))
  | .baseA => base .tableBaseA .tableStateA
  | .baseB => base .tableBaseB .tableStateB

/-- The bit mask of byte enables that cover whole aligned 32-bit words of a register, or `none` (R839). -/
def enableMask (be : Nat) (wide : Bool) : Option Nat :=
  if be = 0x0F then some (2 ^ 32 - 1)
  else if wide && be = 0xF0 then some ((2 ^ 32 - 1) <<< 32)
  else if wide && be = 0xFF then some (2 ^ 64 - 1)
  else none

/-- TABLE_REGISTER_WRITE (R408 to R410, R439). -/
def execTableRegisterWrite (n : Nat) (reg : TableReg) (be : Nat) (value : Word64) (s : State) : Host.Outcome State Fault Refusal :=
  done (if !s.bar0Up || decide (256 ≤ n) then s else
    match enableMask be (reg = .baseA || reg = .baseB) with
    | none => s
    | some m => (s.tableSet n reg m value.toNat).2)

/-! ### Group entries (R728 to R732) -/

/-- Length L_k of an axis of the pod grid (R728). -/
def State.gridLen (s : State) (k : Nat) : Nat :=
  1 + s.rd (if k = 0 then .gridLen0 else if k = 1 then .gridLen1 else if k = 2 then .gridLen2 else .gridLen3)

/-- Logical coordinate c_k of a device (R729); a device outside the grid has none. -/
def State.gridCoord (s : State) (dev k : Nat) : Nat :=
  dev / ((List.range k).map s.gridLen).prod % s.gridLen k

/-- START_k, EXTENT_k and STRIDE_k of a group. -/
def State.groupAxis (s : State) (g k : Nat) : Nat × Nat × Nat :=
  (s.rd .groupStart (4 * g + k), s.rd .groupExtent (4 * g + k) + 1, s.rd .groupStride (4 * g + k))

/-- Every member of a group lies within the grid, and every stride is nonzero (R731). -/
def State.groupInGrid (s : State) (g : Nat) : Bool :=
  (List.range 4).all (fun k =>
    let a := s.groupAxis g k
    a.2.2 ≠ 0 && decide (a.1 + (a.2.1 - 1) * a.2.2 < s.gridLen k))

/-- The rank of this part in a group, or `none` when it is no member (R730). -/
def State.rankIn (s : State) (g : Nat) : Option Nat :=
  let dev := s.rd .fabDevice
  let inGrid := decide (dev < ((List.range 4).map s.gridLen).prod)
  let at1 (k : Nat) : Option Nat :=
    let a := s.groupAxis g k
    let c := s.gridCoord dev k
    if a.2.2 ≠ 0 && decide (a.1 ≤ c) && (c - a.1) % a.2.2 = 0 && decide ((c - a.1) / a.2.2 < a.2.1) then some ((c - a.1) / a.2.2) else none
  if !inGrid then none else
  match at1 0, at1 1, at1 2, at1 3 with
  | some i0, some i1, some i2, some i3 =>
    let e (k : Nat) : Nat := (s.groupAxis g k).2.1
    some (i0 + e 0 * (i1 + e 1 * (i2 + e 2 * i3)))
  | _, _, _, _ => none

/-- The number N of members of a group. -/
def State.groupSize (s : State) (g : Nat) : Nat := ((List.range 4).map (fun k => (s.groupAxis g k).2.1)).prod

/-- Write one word of a group entry (R731, R791): W1 is read-only, GROUP_ID takes a write only while VALID is 0, and a write
that sets VALID takes effect only when every member lies within the grid. -/
def State.groupWord (s : State) (g word v : Nat) : State :=
  if word = 0 then
    let wantValid := bits v 22 1 = 1
    if wantValid && !s.groupInGrid g then s else
    let s1 := if s.bit .groupValid g then s else s.wr .groupId g (bits v 0 16)
    let s2 := (s1.wr .groupFlask g (bits v 16 6)).wr .groupValid g (bits v 22 1)
    if wantValid then
      ((s2.wr .groupMembers g (s.groupSize g - 1)).wr .groupMember g (if (s.rankIn g).isSome then 1 else 0)).wr .groupRank g
        ((s.rankIn g).getD 0)
    else s2
  else if 2 ≤ word && word ≤ 5 then
    let i := 4 * g + (word - 2)
    ((s.wr .groupStart i (bits v 0 12)).wr .groupExtent i (bits v 12 12)).wr .groupStride i (bits v 24 8)
  else s

/-- GROUP_ENTRY_WRITE (R731). -/
def execGroupEntryWrite (g word : Nat) (value : Word32) (s : State) : Host.Outcome State Fault Refusal :=
  done (if s.bar0Up && decide (g < 256) then s.groupWord g word value.toNat else s)

end Sys2Proof.Machine
end

