-- ==== Sys2Proof/Machine/Runners.lean ====
section
/-!
DEFINITION. The runners: TILES, VISIT and REGROUP moves and FILL (R328, R366, R586 to R605, R1068, R1069, R1073).
-/
namespace Sys2Proof.Machine

/-! ### Acceptance (R172, R588 to R604) -/

/-- A runner pour may go on: it starts on an idle runner, or is under way; the arrays that it names hold no restore. -/
def State.runnerMay (s : State) (p : Pour) (op : Nat) : Bool :=
  p.opcode = op && !p.cancelled && p.unit ≠ .dispatcher
    && (p.stage = .running
      || (s.starts p && !s.pours.any (fun q => q.unit = p.unit && q.stage = .running)
        && p.needsArrays.all (fun a => s.ownedBy a p.flask && !(s.array a).restoring)))

/-- A descriptor of a runner pour (R589, R590, R595, R1069): memory or buffer, a named format, legal haze, an aligned offset, and as a
buffer one array (source) or a segment of a row or column with a named store (destination). -/
def Desc.moveOk (d : Desc) (out : Bool) : Bool :=
  (d.src = srcMemory || d.src = srcBuffer) && fmtOk d.fmt && d.hazeOk && d.bufOff % 64 = 0
    && (d.src ≠ srcBuffer ||
      (if out then meshLegal d.addr && d.bufSel ≠ 3 else meshX0 d.addr = meshX1 d.addr && meshY0 d.addr = meshY1 d.addr))

/-- The fields of a VISIT (R592). -/
def Pour.kvHead (p : Pour) : Nat := p.param 16 6
def Pour.vPart (p : Pour) : Bool := p.param 22 1 = 1
def Pour.vRow (p : Pour) : Nat := p.param 23 3
def Pour.visitHeads (p : Pour) : Nat := p.param 26 4
def Pour.elemSize (p : Pour) : Nat := 1024 * (p.param 30 1 + 1)
def Pour.brickBytes (p : Pour) : Nat := p.visitHeads * p.elemSize
def Pour.visitSlots (p : Pour) : Nat := p.param 31 8

/-- Copy size and source address of a VISIT (R599). -/
def Pour.visitSize (p : Pour) : Nat := if p.vPart then p.elemSize else p.brickBytes
def Pour.visitFrom (p : Pour) : Nat :=
  let rec_ := bits (p.words.getD 1 0) 0 44
  if p.vPart then rec_ + (2 * p.kvHead + 1) * p.brickBytes + p.vRow * p.elemSize else rec_ + 2 * p.kvHead * p.brickBytes

/-- The entry of a VISIT is a visit (R335, R598). -/
def Pour.visitUsed (p : Pour) : Bool := (p.words.getD 2 0).testBit 23

/-- The fields of a REGROUP (R592): IN_W, IN_H, C32, F_w, F_h. -/
def Pour.rgW (p : Pour) : Nat := p.param 16 16
def Pour.rgH (p : Pour) : Nat := p.param 32 16
def Pour.rgC (p : Pour) : Nat := p.param 48 8
def Pour.rgFw (p : Pour) : Nat := 2 ^ p.param 56 2
def Pour.rgFh (p : Pour) : Nat := 2 ^ p.param 58 2

/-- A runner pour names arrays as buffers, and one of them is fenced (R591). -/
def State.namesFenced (s : State) (p : Pour) : Bool := p.needsArrays.any s.fenced

/-- The haze rules of a VISIT, whose source is the range of its record (R137, R599, R613). -/
def Pour.visitHaze (p : Pour) : Bool := ({ p.dA with addr := if p.visitUsed then p.visitFrom else 0 } : Desc).hazeOk

/-- The mode's own format rules (R592, R593, R595, R597, R600, R601, R613, R1068). Fields of R592 outside their range fault here too (log
entry 57). -/
def Pour.modeOk (p : Pour) : Bool :=
  let a := p.dA
  let o := p.dOut
  let same := a.fmt = o.fmt && a.block16 = o.block16
  match p.moveMode with
  | 0 => p.mMax ≠ 0 && p.nMax ≠ 0 && p.kMax = 0 && same && (a.src ≠ srcBuffer || p.param 16 2 ≠ 3)
  | 1 => p.shapeSrc = 1 && a.src = srcMemory && o.src = srcBuffer && p.visitSlots ≠ 0 && decide (p.visitSlots ≤ 128) && p.visitHaze
      && decide (1 ≤ p.visitHeads) && decide (p.visitHeads ≤ 8) && (!p.vPart || decide (p.vRow < p.visitHeads))
  | 2 => p.kMax = 0 && same && a.src = srcMemory && o.src = srcMemory && p.rgC ≠ 0 && p.nMax = 32 * p.rgC
      && p.param 56 2 ≠ 3 && p.param 58 2 ≠ 3
  | _ => false

/-- The buffer regions of a runner pour: store, first byte, length (R594, R600, R603). -/
def Pour.moveRegions (p : Pour) : List (Nat × Nat × Nat) :=
  let a := p.dA
  let o := p.dOut
  let tiles := ceilDiv p.mMax 32 * ceilDiv p.nMax 32
  let out (len : Nat) : List (Nat × Nat × Nat) := if o.src = srcBuffer then [(o.bufSel, o.bufOff, len)] else []
  if p.opcode = 7 then out (64 * p.kMax)
  else if p.moveMode = 1 then out (p.visitSlots * p.visitSize)
  else (if a.src = srcBuffer then [(p.param 16 2, a.bufOff, tiles * a.tb)] else []) ++ out (tiles * o.tb)

/-- The source descriptor as it is checked: the ADDR of a VISIT names no source (R599). -/
def Pour.sourceDesc (p : Pour) : Desc := if p.moveMode = 1 then { p.dA with addr := 0 } else p.dA

/-- The run-time shape passes the planned maxima, those of a VISIT being 32, 32 and 32 × HEAD_TILES (R154, R597). -/
def Pour.moveOverflows (p : Pour) : Bool :=
  p.overflows || (p.opcode = 6 && p.moveMode = 1
    && (decide (32 < p.m) || decide (32 < p.n) || decide (32 * p.visitHeads < p.k)))

/-- The checks when a runner accepts a pour (R51, R172, R591 to R603): the code of the first that fails, or 0. -/
def State.checkRunner (s : State) (p : Pour) : Nat :=
  if s.namesFenced p then cFencedArray
  else if p.watchEn || (shapeOf p.tileShape).isNone then cFormatInvalid
  else if p.opcode = 6 && !(p.sourceDesc.moveOk false && p.dOut.moveOk true && p.modeOk) then cFormatInvalid
  else if p.opcode = 7 && !(p.dOut.moveOk true && !p.dOut.remote && p.mMax = 1 && p.nMax = 1) then cFormatInvalid
  else if !regionsFit p.moveRegions then cBufferOverflow
  else if p.moveOverflows then cShapeOverflow
  else if p.opcode = 6 && p.moveMode = 2 && p.n ≠ 0 && p.n ≠ p.nMax then cFormatInvalid
  else if p.opcode = 6 && p.moveMode = 1 && p.visitUsed && !(s.asPour p.id).allowed p.flask p.visitFrom p.visitSize .read then cSegmentFault
  else cOK

/-- A runner pour has nothing to do: run-time M or N is zero, or its visit entry is unused (R156, R598). -/
def Pour.idleMove (p : Pour) : Bool := p.zeroSize || (p.opcode = 6 && p.moveMode = 1 && !p.visitUsed)

/-! ### What a move reads and writes -/

/-- Who a runner, or a region unit, reads and writes for. -/
def Pour.runnerWho (p : Pour) : Who := { rq := if p.opcode = 0xA then rqRegion else rqRunner, flask := p.flask }

/-- A step of a pour of a runner or another unit that works piece by piece: it goes on, it waits, or it ends with a fault. -/
inductive Part where
  | next (s : State) (p : Pour)
  | wait (s : State) (p : Pour)
  | fault (x : Stop) (s : State) (p : Pour)

/-- A write of a runner pour may be issued: no other running pour still reads the bytes of a buffer (R47; that a MOVE does not hold its own writes:
log entry 57), and outside the part the write before it has been accepted (R596, R605). -/
def State.moveMay (s : State) (p : Pour) (off len : Nat) : Bool :=
  if p.dOut.src = srcBuffer then (meshSegment p.dOut.addr).all (fun a => !s.stillRead p.id a p.dOut.bufSel off len)
  else !s.tc2.any (fun q => q.pour = some p.id && q.op = 0x82)

/-- Write bytes at a descriptor's memory address, or at an offset of the store of each array that it names; the words listed are
written poisoned (R590, R605). -/
def State.moveWrite (s : State) (p : Pour) (addr off : Nat) (data : List Byte) (bad : List Nat) : Except Nat State :=
  let d := p.dOut
  if d.src = srcBuffer then
    .ok ((meshSegment d.addr).foldl (fun (s : State) a => s.writeStore a d.bufSel off data bad) s)
  else
    let key := if d.remote then remoteKey d.device addr else addr
    let hint := if d.remote then 0 else s.hintOf p.flask addr data.length d.hint .write
    s.putBytes p.runnerWho (some p.id) hint key data bad

/-- The memory key and hint of a source address. -/
def State.sourceSpan (s : State) (p : Pour) (addr len : Nat) : Span :=
  let d := p.dA
  if d.remote then { key := remoteKey d.device addr, len := len }
  else { hint := s.hintOf p.flask addr len d.hint .read, key := addr, len := len }

/-- The words of a stored tile that hold a spoilt plain word. -/
def storedWords (d : Desc) (w : Nat) : List Nat :=
  if d.haze = 0 then [w] else
  let h := w / (d.tb / 128)
  (List.range (hazeTile d.haze / 8)).map (· + h * hazeTile d.haze / 8)

/-- A tile as the destination holds it, from a tile as the source holds it, with its spoilt words; the codec acts where HAZE differs
(R595). -/
def recode (a o : Desc) (data : List Byte) (bad : List Nat) : List Byte × List Nat :=
  if a.haze = o.haze then (data, bad)
  else (toStored o (toPlain a data), (((bad.map (spoiledWords a)).flatten).map (storedWords o)).flatten.eraseDups)

/-- What a read of a move brought is held for its writes: pieces with their spoilt words. A read that failed stands in the pour until the pieces
are written (R605, R643). -/
def Pour.holds (p : Pour) (pieces : List (List Byte × List Nat)) (x : Option Stop) : Pour :=
  match x with
  | none => { p with held := pieces }
  | some x => { p with held := pieces, code := x.code, detail := x.detail, failed := x.failed }

/-- Read the first parts of a transfer, as many as its requests allow, n at most (R596, R605, R644, R962): how many, the code of the first part that
could not be had, or 0, and what was read. `qs` gives the ranges of the first parts. -/
def State.fetchMost (s : State) (who : Who) (pour : Option Nat) (qs : Nat → List Span) : Nat → Nat → Nat × Nat × Fetch
  | 0, code => (0, code, .got [] s)
  | n + 1, code =>
    match s.fetch who pour (qs (n + 1)) with
    | .fail c _ => State.fetchMost s who pour qs n c
    | x => (n + 1, code, x)

/-- The stop of a transfer: that of the first request that failed, else that of the part that could not be had. -/
def partStop (qs : List Span) (rs : List RdRes) (code : Nat) : Option Stop :=
  (loadStop qs rs).or (if code = 0 then none else some { code := code })

/-- The spoilt words of piece i of data cut into pieces of `size` bytes. -/
def pieceWords (size i : Nat) (bad : List Nat) : List Nat := (bad.filter (fun w => 8 * w / size = i)).map (· - i * size / 8)

/-- A TILES move reads the tiles of one transfer from tile i on; a refused, lost or draining request ends it before the first tile that it
brings, and the tiles before that are written (R593 to R596, R605, R641 to R644, R962, R1073). -/
def State.readTiles (s : State) (p : Pour) (i : Nat) : Part :=
  let a := p.dA
  let size := p.moveSize
  let held (n : Nat) (data : List Byte) (bad : List Nat) (x : Option Stop) : Pour :=
    { p.holds ((List.range n).map (fun t => recode a p.dOut ((data.drop (t * size)).take size) (pieceWords size t bad))) x with aux := [n] }
  if a.src = srcBuffer then
    let n := p.moveRun i
    let x := s.readStore (meshFirst a.addr) (p.param 16 2) p.runnerWho (p.moveFrom i) (n * size)
    .next x.2 (held n x.1.bytes (x.1.failed.map (·.1))
      (if x.1.code = 0 then none else some { code := x.1.code, detail := x.1.detail, failed := [noRange] }))
  else
    let qs (n : Nat) : List Span := [s.sourceSpan p (p.moveFrom i) (n * size)]
    match s.fetchMost p.runnerWho (some p.id) qs (p.moveRun i) 0 with
    | (0, code, _) => .fault { code := code } s p
    | (_, _, .wait s1) => .wait s1 p
    | (_, _, .fail code s1) => .fault { code := code } s1 p
    | (n, code, .got rs s1) =>
      let x := (rs[0]?).getD { bytes := [] }
      let bad := (((qs n).zip rs).map (fun e => (e.2.failed.map (spoiltData e.1.key e.1.len)).flatten)).flatten.eraseDups
      .next s1 (held n x.bytes bad (partStop (qs n) rs code))

/-- Where tile i of a TILES move goes: address and buffer offset (R594). -/
def Pour.tilePlace (p : Pour) (i : Nat) : Nat × Nat :=
  let nr := ceilDiv p.nMax 32
  (p.dOut.tileAddr nr (i / p.moveCols) (i % p.moveCols), p.dOut.tileOff nr (i / p.moveCols) (i % p.moveCols))

/-- The requests of a VISIT, as first byte of the copy and bytes (R641); a source off a word is one request. -/
def Pour.visitParts (p : Pour) : List (Nat × Nat) :=
  if p.visitFrom % 8 = 0 then
    (requests (p.visitSize / 8 + 1) (p.visitFrom / 8) (p.visitSize / 8)).map (fun q => (8 * (q.1 - p.visitFrom / 8), 8 * q.2))
  else [(0, p.visitSize)]
def Pour.visitPart (p : Pour) (i : Nat) : Nat × Nat := (p.visitParts[i]?).getD (0, 0)

/-- A VISIT reads request i of the brick or the tile row (R599). -/
def State.readVisit (s : State) (p : Pour) (i : Nat) : Part :=
  let w := p.visitPart i
  let q : Span := { hint := s.hintOf p.flask p.visitFrom p.visitSize p.dA.hint .read, key := p.visitFrom + w.1, len := w.2 }
  match s.fetch p.runnerWho (some p.id) [q] with
  | .wait s1 => .wait s1 p
  | .fail code s1 => .fault { code := code } s1 p
  | .got rs s1 =>
    let x := (rs[0]?).getD { bytes := [] }
    .next s1 (p.holds [(x.bytes, (x.failed.map (spoiltData q.key q.len)).flatten.eraseDups)] (loadStop [q] rs))

/-- Where request i of a VISIT is written (R600). -/
def Pour.visitPlace (p : Pour) (i : Nat) : Nat × Nat :=
  (0, p.dOut.bufOff + p.shapeAddr / 32 % p.visitSlots * p.visitSize + (p.visitPart i).1)

/-- The address of tile (frame, row, group, channel tile) of a feature map (R366). -/
def Desc.mapAddr (d : Desc) (w h c32 f y g j : Nat) : Nat :=
  d.addr + ((f * h + y) * ceilDiv w 32 + g) * (if d.stride = 0 then c32 * d.mb else d.stride) + j * d.mb

/-- A line of a plain tile with its scales, and which of its words failed words spoil: by number in its codes, and whether its scales are
spoilt. -/
abbrev MapLine := List Nat × List Nat × List Nat × Bool

/-- Line r of a plain tile given as a number (R101). -/
def mapLine (d : Desc) (x r : Nat) (bad : List Nat) : MapLine :=
  let w := elemBits d.fmt
  let ns := if !isBlock d.fmt then 0 else if d.block16 then 2 else 1
  let lo := r * 4 * w
  let so := 128 * w + r * ns
  ((List.range 32).map (fun k => tileElem d.fmt x r k), (List.range ns).map (fun b => bits x (8 * (so + b)) 8),
   (List.range (w / 2)).filter (fun k => (lo / 8 + k) ∈ bad), ns ≠ 0 && bad.any (fun k => overlap (8 * k) 8 so ns))

/-- The words of a plain tile that line r spoils: the words of its codes that are spoilt, and the word of its scales (R643). -/
def lineWords (d : Desc) (r : Nat) (l : MapLine) : List Nat :=
  let w := elemBits d.fmt
  let ns := if !isBlock d.fmt then 0 else if d.block16 then 2 else 1
  l.2.2.1.map (· + r * (w / 2)) ++ (if l.2.2.2 then [(128 * w + r * ns) / 8] else [])

/-- A REGROUP reads source row i: its tile rows, which are one transfer where they lie one after another, and makes the F_h destination rows that
it fills (R601, R602, R641). A line of the last tile beyond the destination's width is a free value. -/
def State.readRow (s : State) (p : Pour) (i : Nat) : Part :=
  let f := i / p.rgH
  let y := i % p.rgH
  let a := p.dA
  let o := p.dOut
  let w := p.rgW
  let c := p.rgC
  let fw := p.rgFw
  let cs := c * fw * p.rgFh
  let gs := ceilDiv w 32
  let whole := a.stride = 0 || a.stride = cs * a.mb
  let qs := if whole then [s.sourceSpan p (a.mapAddr w p.rgH cs f y 0 0) (gs * cs * a.mb)]
    else (List.range gs).map (fun g => s.sourceSpan p (a.mapAddr w p.rgH cs f y g 0) (cs * a.mb))
  match s.fetch p.runnerWho (some p.id) qs with
  | .wait s1 => .wait s1 p
  | .fail code s1 => .fault { code := code } s1 p
  | .got rs s1 =>
    let tiles : List (Nat × List Nat) := ((qs.zip rs).map (fun e =>
      let bad := (e.2.failed.map (spoiltData e.1.key e.1.len)).flatten
      (List.range (e.1.len / a.mb)).map (fun t =>
        (leNat (toPlain a ((e.2.bytes.drop (t * a.mb)).take a.mb)), ((pieceWords a.mb t bad).map (spoiledWords a)).flatten)))).flatten
    let line (pos j : Nat) : MapLine :=
      let t := (tiles[pos / 32 * cs + j]?).getD (0, [])
      mapLine a t.1 (pos % 32) t.2
    let ns := if !isBlock a.fmt then 0 else if a.block16 then 2 else 1
    let outTile (row g j : Nat) : List Byte × List Nat :=
      let lines : List MapLine := (List.range 32).map (fun r =>
        let x := 32 * g + r
        if x < fw * w then line (x / fw) (j + (row * fw + x % fw) * c)
        else
          ((List.range 32).map (fun k => (s1.free (0x600000 + 64 * r + k)).toNat % 2 ^ elemBits a.fmt),
           (List.range ns).map (fun k => (s1.free (0x600000 + 64 * r + 32 + k)).toNat % 256), [], false))
      let plain := packTile o.fmt o.block16 (lines.map (·.1)) (lines.map (·.2.1))
      let bad := ((lines.zipIdx).map (fun e => lineWords o e.2 e.1)).flatten.eraseDups
      (toStored o plain, (bad.map (storedWords o)).flatten.eraseDups)
    .next s1 (p.holds (((List.range p.rgFh).map (fun row => (List.range (ceilDiv (fw * w) 32)).map (fun g =>
      (List.range c).map (fun j => outTile row g j)))).flatten.flatten) (loadStop qs rs))

/-- Tiles that a source row fills. -/
def Pour.rowTiles (p : Pour) : Nat := p.rgFh * ceilDiv (p.rgFw * p.rgW) 32 * p.rgC

/-- Where tile k of the destination rows of source row i goes (R601, R602). -/
def Pour.rowPlace (p : Pour) (i k : Nat) : Nat × Nat :=
  let c := p.rgC
  let g := ceilDiv (p.rgFw * p.rgW) 32
  (p.dOut.mapAddr (p.rgFw * p.rgW) (p.rgFh * p.rgH) c (i / p.rgH) (p.rgFh * (i % p.rgH) + k / (g * c)) (k / c % g) (k % c), 0)

/-- The writes of a FILL, as units of 64 bytes: the first and how many, cut where a 4 KiB range of memory ends (R604, R641). -/
def Pour.fillParts (p : Pour) : List (Nat × Nat) :=
  let base := if p.dOut.src = srcBuffer then p.dOut.bufOff / 64 else p.dOut.addr / 64
  (requests (8 * p.k + 1) (8 * base) (8 * p.k)).map (fun q => (q.1 / 8 - base, q.2 / 8))

/-- Part i of a FILL. -/
def Pour.fillPart (p : Pour) (i : Nat) : Nat × Nat := (p.fillParts[i]?).getD (0, 0)
def State.readFill (s : State) (p : Pour) (i : Nat) : Part :=
  .next s (p.holds [((List.replicate (8 * (p.fillPart i).2) (leBytes (p.f bitB 64) 8)).flatten, [])] none)
def Pour.fillPlace (p : Pour) (i : Nat) : Nat × Nat := (p.dOut.addr + 64 * (p.fillPart i).1, p.dOut.bufOff + 64 * (p.fillPart i).1)

/-! ### Running -/

/-- What the runner modes and the operations of a region unit differ in: how many units of work they have, how many of them the transfer from a
unit on takes, what it reads, how many pieces it then holds and at most, and where a piece goes. -/
structure Move where
  count : Pour → Nat
  run : Pour → Nat → Nat := fun _ _ => 1
  read : State → Pour → Nat → Part
  pieces : Pour → Nat → Nat
  most : Pour → Nat
  place : Pour → Nat → Nat → Nat × Nat

/-- A transfer is through: the pour faults with the read of it that failed, or the next transfer follows, from unit i on. -/
def State.moveOn (s : State) (p : Pour) (i : Nat) : Part :=
  if p.code ≠ 0 then .fault { code := p.code, detail := p.detail, failed := p.failed } s p
  else .next s { p with progress := i, aux := [] }

/-- One step of the transfer from unit i on: the read, or the write of the first piece that it still holds; after the last piece of a read that failed the pour
faults (R605, R643, R644). -/
def State.moveStep (s : State) (p : Pour) (i : Nat) (mv : Move) : Part :=
  match p.held with
  | [] =>
    if !s.moveMay p 0 0 then .wait s p
    else
      match mv.read s p i with
      | .next s1 p1 => if p1.held.isEmpty then s1.moveOn p1 (i + mv.run p i) else .next s1 p1
      | x => x
  | (data, bad) :: rest =>
    let w := mv.place p i (mv.pieces p i - p.held.length)
    if !s.moveMay p w.2 data.length then .wait s p
    else
      match s.moveWrite p w.1 w.2 data bad with
      | .error c => .fault { code := c } s p
      | .ok s1 =>
        if rest.isEmpty then s1.moveOn { p with held := rest } (i + mv.run p i) else .next s1 { p with held := rest }

/-- Go through the steps of a pour from where it stands: until one waits, one faults, or all are done. -/
def State.stepsFrom (mv : Move) : Nat → State → Pour → State
  | 0, s, p => s.onPour p.id (fun _ => p)
  | n + 1, s, p =>
    if mv.count p ≤ p.progress && p.held.isEmpty then s.onPour p.id (fun _ => { p with stage := .ran, evaluated := true })
    else
      match s.moveStep p p.progress mv with
      | .next s1 p1 => State.stepsFrom mv n s1 p1
      | .wait s1 p1 => s1.onPour p.id (fun _ => p1)
      | .fault x s1 p1 => (s1.onPour p.id (fun _ => p1)).faultPour p1 x.code x.detail x.failed

/-- Steps that a pour takes at most: for each transfer its read and the writes of its pieces, and the end. -/
def Move.steps (mv : Move) (p : Pour) : Nat := mv.count p * (mv.most p + 1) + 1

/-- Go on with a pour. -/
def State.runParts (s : State) (mv : Move) (p : Pour) : State := State.stepsFrom mv (mv.steps p) s p

/-- A runner takes a pour up or goes on with it: the checks, then its transfers in order (R156, R172, R605). A pour of an array that stood because
the move read its buffer (R47) goes on. -/
def State.runMove (s : State) (id op : Nat) (mode : Pour → Bool) (mv : Move) : State :=
  match s.pour? id with
  | none => s
  | some p =>
    if !s.runnerMay p op || !mode p then s
    else
      let moved (s : State) (p : Pour) : State :=
        let s1 := s.runParts mv p
        if op = 6 && p.dA.src = srcBuffer then s1.goOn (meshFirst p.dA.addr) else s1
      if p.stage = .running then moved s p
      else
        let c := s.checkRunner p
        if c ≠ 0 then s.faultPour p c 0
        else if p.idleMove then s.onPour id (fun q => { q with stage := .ran, evaluated := true })
        else moved s { p with stage := .running, begun := true }

/-- The modes of R588 and FILL. -/
def moveTilesMode : Move :=
  { count := Pour.moveTiles, run := Pour.moveRun, read := State.readTiles, pieces := fun p i => p.aux.headD (p.moveRun i), most := fun _ => 16,
    place := fun p i k => p.tilePlace (i + k) }
def moveVisitMode : Move :=
  { count := fun p => p.visitParts.length, read := State.readVisit, pieces := fun _ _ => 1, most := fun _ => 1, place := fun p i _ => p.visitPlace i }
def moveRegroupMode : Move :=
  { count := fun p => p.m * p.rgH, read := State.readRow, pieces := fun p _ => p.rowTiles, most := Pour.rowTiles,
    place := Pour.rowPlace }
def moveFillMode : Move :=
  { count := fun p => p.fillParts.length, read := State.readFill, pieces := fun _ _ => 1, most := fun _ => 1, place := fun p i _ => p.fillPlace i }

/-- TILES (R593), and a MOVE whose mode is none, which faults when its runner accepts it (R588). -/
def execTiles (id : Nat) (s : State) : Host.Outcome State Fault Refusal :=
  done (s.runMove id 6 (fun p => p.moveMode ≠ 1 && p.moveMode ≠ 2) moveTilesMode)

/-- VISIT (R599). -/
def execVisit (id : Nat) (s : State) : Host.Outcome State Fault Refusal :=
  done (s.runMove id 6 (fun p => p.moveMode = 1) moveVisitMode)

/-- REGROUP (R602). -/
def execRegroup (id : Nat) (s : State) : Host.Outcome State Fault Refusal :=
  done (s.runMove id 6 (fun p => p.moveMode = 2) moveRegroupMode)

/-- FILL (R604). -/
def execFill (id : Nat) (s : State) : Host.Outcome State Fault Refusal :=
  done (s.runMove id 7 (fun _ => true) moveFillMode)

end Sys2Proof.Machine
end

