-- ==== Sys2Proof/Machine/Coll.lean ====
section
/-!
DEFINITION. Collectives: the acceptance of a COLL pour, the chunks it sends and takes, local reduction, poison, seals and verdicts (R737 to
R787).
-/
namespace Sys2Proof.Machine

/-! ### Acceptance (R737 to R744, R780, R783 to R786, R813) -/

def Pour.gatherList (p : Pour) : Bool := p.subop.testBit 1
def Pour.reduceEn (p : Pour) : Bool := p.param 61 1 = 1
def Pour.earlySem (p : Pour) : Nat := p.f 768 6
def Pour.earlyEn (p : Pour) : Bool := p.f 774 1 = 1
def Pour.earlyStep (p : Pour) : Nat := p.f 776 24
def Pour.listCount (p : Pour) : Nat := p.f (bitA + 96) 32

/-- Who the fabric unit reads and writes for. -/
def Pour.fabricWho (p : Pour) : Who := { rq := rqFabric, flask := p.flask }

/-- The checks of a COLL pour that need no descriptor: the code of the first that fails, or 0 (R70, R296, R737 to R739, R741, R783). -/
def State.checkColl (s : State) (p : Pour) : Nat :=
  if p.reduceArrays.any s.fenced then cFencedArray
  else if p.watchEn || p.tileShape ≠ 0 || p.shapeSrc ≠ 0 || p.mMax ≠ 1 || p.nMax ≠ 1 then cFormatInvalid
  else if p.dA.src ≠ srcMemory || p.dOut.src ≠ srcMemory || (p.gatherList && p.dB.src ≠ srcMemory) then cFormatInvalid
  else if p.earlyEn && p.earlyStep = 0 then cFormatInvalid
  else if p.reduceEn && decide (31 < p.param 48 5 + p.param 57 4) then cFormatInvalid
  else if p.gatherList && (p.listCount = 0 || decide (4096 < p.listCount)) then cFormatInvalid
  else if (s.groupOf p.flask p.groupId).isNone then cFormatInvalid
  else cOK

/-- The entries of a list: address and length, or `none` when a reserved bit is set or a length is no multiple of 8 (R783). -/
def listEntries (n : Nat) (l : List Byte) : Option (List (Nat × Nat)) :=
  ((chunks 16 n l).mapM (fun e =>
    let a := leNat (e.take 8)
    let b := leNat (e.drop 8)
    if a / 2 ^ 44 = 0 && b / 2 ^ 32 = 0 && b % 8 = 0 then some (a, b) else none))

/-- Open a context for an accepted pour, in the lowest free place. The pour keeps its destination pieces and its descriptor. -/
def State.openColl (s : State) (p : Pour) (c : CollCtx) : State :=
  let n := ((List.range 64).find? (fun i => (Sp.get? s.colls i).isNone)).getD 0
  let s1 := p.reduceArrays.foldl (fun (s : State) a => s.onArray a (fun r => { r with bufA := {} })) s
  { s1 with colls := Sp.put s1.colls n c }.onPour p.id (fun q =>
    { q with stage := .running, begun := true, parts := [c.desc], words := (c.dst.map (fun (e : Nat × Nat) => [e.1, e.2])).flatten })

/-- COLL (R740 to R743): the fabric unit accepts the pour at the head of its queue into a context, once no other pour reads the A buffers of its
reduce arrays (R47, R780). -/
def execColl (id : Nat) (s : State) : Host.Outcome State Fault Refusal :=
  done (match s.pour? id with
    | none => s
    | some p =>
      if p.opcode ≠ 0xB || p.unit ≠ .fabric || !s.starts p || decide (64 ≤ s.colls.length)
        || p.reduceArrays.any (fun a => !s.ownedBy a p.flask || (s.array a).restoring || s.stillRead id a 0 0 (storeSize 0)) then s
      else
        let fault (s : State) (code : Nat) (failed : List Nat := []) (detail : Nat := 0) : State := s.faultPour p code detail failed
        let code := s.checkColl p
        if code ≠ 0 then fault s code else
        match s.groupOf p.flask p.groupId with
        | none => fault s cFormatInvalid
        | some g =>
          let a := s.descAddr p.flask p.collId
          if !(s.asPour id).allowed p.flask a 32 .read then fault s cSegmentFault else
          match s.fetch p.fabricWho (some id) [{ hint := s.hintOf p.flask a 32 0 .read, key := a, len := 32 }] with
          | .wait s1 => s1
          | .fail c s1 => fault s1 c
          | .got rs s1 =>
            let r := (rs[0]?).getD { bytes := [] }
            let d := r.bytes
            let n := s1.rd .groupMembers g + 1
            let rank := s1.rd .groupRank g
            let op := descField d 0 0 3
            let bytes := descField d 0 32 32
            if r.code ≠ 0 then fault s1 r.code (r.failedAt a) r.detail
            else if !s1.descLegal d n || p.kMax ≠ bytes / 8 || (p.gatherList && op ≠ 0 && op ≠ 3) then fault s1 cFormatInvalid
            else
              let ranges := collRanges d n rank p.dA.addr p.dOut.addr
              let entry := if p.unreserved then none else s1.collEntry p
              let opened : Bool := match entry with
                | some e => s1.rd .entState e = eOpen
                | none => true
              let base : CollCtx :=
                { pour := id, flask := p.flask, collId := p.collId, groupId := p.groupId, entry := entry, desc := d,
                  armDesc := entry.elim [] (fun e => (s1.entry e).desc), members := n, rank := rank,
                  state := if opened then 2 else 1, attempt := s1.rd .riserAttempt p.ladle,
                  slot := entry.elim 0 (fun e => s1.rd .entTime e), bound := entry.elim 0 (fun e => s1.rd .entTime e + s1.rd .entDuration e) }
              if !p.unreserved && entry.isNone then fault s1 cCollRefused
              else if !p.gatherList then
                if ranges.any (fun x => !(s1.asPour id).allowed p.flask x.addr x.len x.right) then fault s1 cSegmentFault
                else s1.openColl p { base with
                  src := [(p.dA.addr, bytes)],
                  dst := ((ranges.filter (fun x => x.right = .write)).map (fun x => (x.addr, x.len))) }
              else
                let len := 16 * p.listCount
                let qs : List Span := [{ hint := s1.hintOf p.flask p.dA.addr len p.dA.hint .read, key := p.dA.addr, len := len },
                  { hint := s1.hintOf p.flask p.dB.addr len p.dB.hint .read, key := p.dB.addr, len := len }]
                match s1.fetch p.fabricWho (some id) qs with
                | .wait s2 => { s with tc2 := s2.tc2, tc2Next := s2.tc2Next, ports := s2.ports }
                | .fail c s2 => fault s2 c
                | .got ls s2 =>
                  match loadStop qs ls with
                  | some x => fault s2 x.code x.failed x.detail
                  | none =>
                    let entries (i : Nat) := listEntries p.listCount (((ls[i]?).getD ({ bytes := [] } : RdRes)).bytes)
                    match entries 0, entries 1 with
                    | some src, some dst0 =>
                      if (src.map (·.2)).sum ≠ bytes then fault s2 cFormatInvalid else
                      let dst := (dst0.zip src).map (fun e => (e.1.1, base.scale e.2.2))
                      let reads := ranges.any (fun x => x.right = .read) && src.any (fun e => !(s2.asPour id).allowed p.flask e.1 e.2 .read)
                      let writes := ranges.any (fun x => x.right = .write) && dst.any (fun e => !(s2.asPour id).allowed p.flask e.1 e.2 .write)
                      if reads || writes then fault s2 cSegmentFault
                      else s2.openColl p { base with src := src, dst := dst }
                    | _, _ => fault s2 cFormatInvalid)

/-! ### Landing (R762, R764, R773, R785) -/

/-- The context with a chunk landed under a CRC, and how often EARLY_SEM advances by it (R762, R775). -/
def CollCtx.land (c : CollCtx) (p : Pour) (n crc : Nat) : CollCtx × Nat :=
  let c1 := if c.isOwn n then c else { c with got := Sp.put c.got n crc }
  let k := c1.leading (c1.total - c1.early) c1.early
  ({ c1 with early := k }, if p.earlyEn && !c1.earlyStop then k / p.earlyStep - c1.early / p.earlyStep else 0)

/-- Write a chunk's bytes at its place; the words listed are written poisoned. The code of a fault at issue, if any. -/
def State.writeChunk (s : State) (p : Pour) (c : CollCtx) (off : Nat) (data : List Byte) (bad : List Nat) : Except Nat State :=
  ((cutPieces c.dst off data.length).foldl
    (fun (acc : Except Nat (State × Nat)) e =>
      match acc with
      | .error code => .error code
      | .ok (s, done) =>
        let words := ((List.range (ceilDiv e.2 8)).filter (fun i => decide (done / 8 + i ∈ bad)))
        match s.putBytes p.fabricWho (some p.id) (s.hintOf p.flask e.1 e.2 p.dOut.hint .write) e.1 ((data.drop done).take e.2) words with
        | .error code => .error code
        | .ok s1 => .ok (s1, done + e.2)) (.ok (s, 0))).map (·.1)

/-- A chunk lands in a context: its bytes are written, it is counted, and EARLY_SEM advances; a write that faults ends the collective for
this member. -/
def State.landChunk (s : State) (n : Nat) (c : CollCtx) (num crc : Nat) (data : List Byte) (bad : List Nat) : State :=
  match c.landAt num, s.pour? c.pour with
  | some (off, _), some p =>
    match s.writeChunk p c off data bad with
    | .error code => s.endColl n code true
    | .ok s1 =>
      let x := c.land p num crc
      let s2 : State := { s1 with colls := Sp.put s1.colls n x.1 }
      if x.2 = 0 then s2 else s2.semAdd p.flask p.earlySem x.2
  | _, _ => s

/-- A chunk lands poisoned (R773, R775). -/
def State.landPoisoned (s : State) (n : Nat) (c : CollCtx) (num : Nat) : State :=
  let len := (c.landAt num).elim 0 (·.2)
  s.landChunk n { c with work := c.work.filter (fun w => w.chunk ≠ num) } num 0 (List.replicate len 0) (List.range (ceilDiv len 8))

/-- A slice of the own contribution (R785). -/
def State.sourceSpans (s : State) (p : Pour) (c : CollCtx) (off len : Nat) : List Span :=
  (cutPieces c.src off len).map (fun e => { hint := s.hintOf p.flask e.1 e.2 p.dA.hint .read, key := e.1, len := e.2 })

/-- The failed data words of a slice. -/
def sliceBad (qs : List Span) (rs : List RdRes) : List Nat :=
  ((qs.zip rs).foldl (fun (acc : List Nat × Nat) e =>
    (acc.1 ++ ((e.2.failed.map (spoiltData e.1.key e.1.len)).flatten.eraseDups).map (· + acc.2 / 8), acc.2 + e.1.len)) ([], 0)).1

/-! ### Sending (R753 to R756, R772) -/

/-- The header of a packet that the member sends. -/
def State.collHeader (s : State) (c : CollCtx) (num : Nat) : CollHdr :=
  { collId := c.collId, groupId := c.groupId, chunk := num, attempt := c.attempt, slot := s.collSlot c, srcRank := c.rank,
    passed := if c.planeOf num ∈ c.passedPlanes then 1 else 0 }

/-- The port of a chunk (R754). -/
def State.chunkPort (s : State) (c : CollCtx) (num : Nat) : Option Nat :=
  let ports := s.upPorts (some (c.planeOf num))
  ports[num / (descPlanes c.desc).length % ports.length]?

/-- The window of a reduction lets a chunk leave (R756): it lies below the lowest chunk not yet landed here plus WINDOW times the planes. -/
def CollCtx.windowOpen (c : CollCtx) (num : Nat) : Bool :=
  !c.reduces || decide (c.total ≤ c.early)
    || decide (num < c.chunkAt c.early + descField c.desc 0 16 8 * (descPlanes c.desc).length)

/-! ### Verdicts (R767 to R771, R787) -/

/-- The collective ends with its verdict: 0 COMMIT, 1 RERUN, 2 FAIL. -/
def State.verdictColl (s : State) (n : Nat) (c : CollCtx) (verdict : Nat) : State :=
  let s1 := s.freeColl n c
  if verdict = 0 then
    match c.failure with
    | none => s1.onPour c.pour (fun p => { p with stage := .ran, evaluated := true, detail := c.detail })
    | some (code, _, words) => s1.onPour c.pour (fun p => { p with stage := .faulted, code := code, detail := c.detail, failed := words })
  else
    let s2 := (s1.count .sealFail 0).onPour c.pour (fun p =>
      { p with stage := .faulted, code := cSealMismatch, detail := c.detail, aux := if verdict = 1 then [c.rerunTime] else [] })
    match c.entry with
    | some e =>
      let mine := s2.rd .entKind e = kCollPhase && s2.rd .entFlask e = c.flask && bits (s2.rd .entArg e) 0 16 = c.collId
        && bits (s2.rd .entArg e) 16 16 = c.groupId && (s2.rd .entState e = eOpen || s2.rd .entState e = eDone)
      if verdict = 1 && mine then
        ((s2.wr .entState e eArmed).wr .entTime e c.rerunTime).onEntry e (fun r => { r with leadChecked := false })
      else s2
    | none => s2

/-- Every plane has its verdict. -/
def CollCtx.decided (c : CollCtx) : Bool := (descPlanes c.desc).all (fun k => ((Sp.get? c.planes k).bind (·.verdict)).isSome)

/-- The member still has chunks of its own share to copy (R727). -/
def CollCtx.copies (c : CollCtx) : Bool := (c.op = 2 && c.contributes || c.op = 4) && decide (c.next < c.chunks)

/-- A collective with every verdict ends with it; one that commits copies its own share first (R727, R770). -/
def State.settleColl (s : State) (n : Nat) : State :=
  match Sp.get? s.colls n with
  | none => s
  | some c =>
    match (descPlanes c.desc).head?.bind (fun k => (Sp.get? c.planes k).bind (·.verdict)) with
    | some v => if c.decided && !(v = 0 && c.copies) then s.verdictColl n c v else s
    | none => s

/-! ### Chunks that leave -/

/-- CHUNK (R727, R743, R753 to R756, R772): the member sends the next chunk of its contribution on the plane it belongs to, or a POISON
notice when its source does not read; its own share it copies as well. After the verdict it only copies. -/
def execChunk (n plane : Nat) (s : State) : Host.Outcome State Fault Refusal :=
  done (match Sp.get? s.colls n with
    | none => s
    | some c =>
      match s.pour? c.pour with
      | none => s
      | some p =>
        let num := c.ownBase + c.next
        if p.cancelled || c.state < 2 || !c.contributes || decide (c.chunks ≤ c.next) || c.planeOf num ≠ plane || !c.windowOpen num then s
        else
          let own := c.isOwn num && (c.landAt num).isSome
          match s.chunkPort c num, c.decided with
          | none, false => s
          | port, decided =>
            let w := c.wire c.next
            let qs := s.sourceSpans p c w.1 w.2
            match s.fetch p.fabricWho (some p.id) qs with
            | .wait s1 => s1
            | .fail code s1 => s1.endColl n code true
            | .got rs s1 =>
              let data := (rs.map (·.bytes)).flatten
              let c1 : CollCtx := { (match loadStop qs rs with
                | some x => c.fail x.code num x.failed
                | none => c) with next := c.next + 1 }
              let failed := (loadStop qs rs).isSome
              let h := s1.collHeader c num
              let s2 := match port, decided with
                | some k, false =>
                  if failed then s1.sendColl k 0x45 p.flask h []
                  else s1.sendColl k 0x43 p.flask { h with crc := crc32c data } data
                | _, _ => s1
              let s3 : State := { s2 with colls := Sp.put s2.colls n c1 }
              if !own then s3.settleColl n else
              -- a copy onto itself writes nothing (R727)
              let off := ((c.landAt num).getD (0, 0)).1
              (if (qs.map (·.key)) = (cutPieces c.dst off w.2).map (·.1) then
                let x := c1.land p num 0
                let s4 : State := { s3 with colls := Sp.put s3.colls n x.1 }
                if x.2 = 0 then s4 else s4.semAdd p.flask p.earlySem x.2
              else s3.landChunk n c1 num 0 data (sliceBad qs rs)).settleColl n)

/-! ### Taking packets (R757) -/

/-- The pour of a context has been cancelled: its collective takes and lands nothing more (R552, R553). -/
def State.collStopped (s : State) (c : CollCtx) : Bool := (s.pour? c.pour).any (·.cancelled)

/-- The open context that a TC1 packet matches (R757). -/
def State.collOf (s : State) (p : List Byte) : Option (Nat × CollCtx) :=
  let h := pktHdr p
  let x := collHdr (pktPayload p)
  s.colls.find? (fun c => c.2.flask = h.flask && c.2.collId = x.collId && c.2.groupId = x.groupId && c.2.attempt = x.attempt
    && !s.collStopped c.2)

/-- Take a TC1 packet of an opcode for its context, which notes a plane whose packets have PASSED set (R776, R782); a packet that matches none is
counted in STALE_COLL. -/
def State.takeColl (s : State) (port op : Nat) (f : State → List Byte → Nat → CollCtx → State) : State :=
  match s.takePacket port 1 [op] with
  | none => s
  | some (p, s1) =>
    match s1.collOf p with
    | none => s1.count .staleColl 0
    | some (n, c0) =>
      let c := if (collHdr (pktPayload p)).passed = 1 then c0.pass (pktHdr p).plane else c0
      f { s1 with colls := Sp.put s1.colls n c } p n c

/-- RESULT (R757, R762, R764). -/
def execResult (port : Nat) (s : State) : Host.Outcome State Fault Refusal :=
  done (s.takeColl port 0x44 (fun s p n c =>
    let x := collHdr (pktPayload p)
    let data := (pktPayload p).drop 64
    if !c.delivered x.chunk || c.landed x.chunk then s.count .staleColl 0
    else
      let len := (c.landAt x.chunk).elim 0 (·.2)
      s.landChunk n c x.chunk (crc32c data) ((data ++ s.freeBytes 0 (len - data.length)).take len) []))

/-- Values of wire data. -/
def CollCtx.values (c : CollCtx) (data : List Byte) : List Val :=
  let w := elemBits c.wireFmt / 8
  (Machine.chunks w (data.length / w) data).map (fun e => elemVal c.wireFmt (leNat e))

/-- One contribution taken into the accumulators (R758). -/
def CollCtx.combine (c : CollCtx) (acc : List (BitVec 32)) (xs : List Val) : List (BitVec 32) :=
  let reduce := descField c.desc 0 3 2
  (acc.zip xs).map (fun e =>
    let a := ofBits e.1
    (if reduce = 0 then rnd (a.add e.2) else if reduce = 1 then a.max e.2 else a.min e.2).bits)

/-- Chunks in progress on a reduce array, of every context that reduces there (R781). -/
def State.chunksOn (s : State) (a : Nat) : Nat := (s.colls.map (fun e => e.2.work.countP (fun w => w.array = a))).sum

/-- PASS (R757, R778, R779, R781): the chunk of another member is reduced with the own one, which comes first; without REDUCE_EN the pour
ends COLL_REFUSED. A packet that finds 32 chunks in progress on its array waits. -/
def execPass (port : Nat) (s : State) : Host.Outcome State Fault Refusal :=
  let taken (s : State) : State := ((s.takePacket port 1 [0x46]).map (·.2)).getD s
  done (match s.takePacket port 1 [0x46] with
    | none => s
    | some (pk, _) =>
      match s.collOf pk with
      | none => (taken s).count .staleColl 0
      | some (n, c0) =>
        let plane := (pktHdr pk).plane
        let x := collHdr (pktPayload pk)
        let c := c0.pass plane
        match s.pour? c.pour with
        | none => taken s
        | some p =>
          if !p.reduceEn then State.endColl { taken s with colls := Sp.put s.colls n c } n cCollRefused true
          else if !c.reduces || !c.delivered x.chunk || c.landed x.chunk then (taken s).count .staleColl 0
          else
            let data := (pktPayload pk).drop 64
            let xs := c.values data
            let add (w : CollWork) : CollWork := { w with ranks := w.ranks ++ [x.srcRank], crc := crc32c data, acc := c.combine w.acc xs }
            match c.work.find? (fun w => w.chunk = x.chunk) with
            | some w =>
              if x.srcRank ∈ w.ranks then (taken s).count .staleColl 0
              else { taken s with colls := Sp.put s.colls n { c with work := c.work.map (fun v => if v.chunk = x.chunk then add v else v) } }
            | none =>
              let arrays := p.reduceArrays
              let a := (arrays[c.passedIn % arrays.length]?).getD 0
              if decide (32 ≤ s.chunksOn a) then s else
              let w := c.wire (x.chunk % c.chunks)
              let qs := s.sourceSpans p c w.1 w.2
              match s.fetch p.fabricWho (some p.id) qs with
              | .wait s1 => s1
              | .fail code s1 => (taken s1).endColl n code true
              | .got rs s1 =>
                match loadStop qs rs with
                | some stop => (taken s1).landPoisoned n (c.fail stop.code x.chunk stop.failed) x.chunk
                | none =>
                  let own : CollWork :=
                    { chunk := x.chunk, plane := plane, array := a, ranks := [c.rank],
                      acc := (c.values ((rs.map (·.bytes)).flatten)).map Val.bits }
                  { taken s1 with colls := Sp.put s1.colls n { c with work := c.work ++ [add own], passedIn := c.passedIn + 1 } })

/-- REDUCE_CHUNK_DONE (R758, R781): the first chunk of a plane that has taken every member's data is converted and lands. -/
def execReduceChunkDone (n plane : Nat) (s : State) : Host.Outcome State Fault Refusal :=
  done (match Sp.get? s.colls n with
    | none => s
    | some c =>
      if s.collStopped c then s else
      match c.work.find? (fun w => w.plane = plane && w.ranks.length = c.members) with
      | none => s
      | some w =>
        let f := c.resultFmt
        let data := (w.acc.map (fun v => leBytes ((fpOf f).ofVal .nearest (ofBits v)) (elemBits f / 8))).flatten
        s.landChunk n { c with work := c.work.erase w, reduced := c.reduced + 1 } w.chunk w.crc data [])

/-- POISON (R757, R773, R775). A notice with ORIGIN 1 for a chunk that has landed poisons nothing, and DETAIL does not name it (R771). -/
def execPoison (port : Nat) (s : State) : Host.Outcome State Fault Refusal :=
  done (s.takeColl port 0x45 (fun s p n c =>
    let x := collHdr (pktPayload p)
    if x.origin = 1 then
      (if !c.delivered x.chunk || c.landed x.chunk then s
       else s.landPoisoned n { c.bad x.chunk with earlyStop := true } x.chunk)
    else if !c.delivered x.chunk || c.landed x.chunk then s.count .staleColl 0
    else s.landPoisoned n (c.fail cPoisonRead x.chunk []) x.chunk))

/-! ### Seals (R764 to R766) -/

/-- The digest of a plane's chunks (R764). -/
def digest (l : List (Nat × Nat)) : Nat :=
  (l.foldl (fun (d : BitVec 64) e =>
    let h0 := d ^^^ BitVec.ofNat 64 ((e.1 <<< 32) + e.2)
    let h1 := (h0 ^^^ (h0 >>> 31)) * 0x7FB5D329728EA185#64
    let h2 := (h1 ^^^ (h1 >>> 27)) * 0x81DADEF4BC2DD44D#64
    h2 ^^^ (h2 >>> 33)) 0).toNat

/-- The chunks that have come on a plane, ascending, with their CRC. -/
def CollCtx.onPlane (c : CollCtx) (plane : Nat) : List (Nat × Nat) := c.got.filter (fun e => c.planeOf e.1 = plane)

/-- No chunk of a plane is missing (R766): its count has reached COUNT. -/
def CollCtx.complete (c : CollCtx) (plane : Nat) : Bool :=
  ((Sp.get? c.planes plane).bind (·.sealIn)).any (fun x => decide (x.2.1 ≤ (c.onPlane plane).length))

/-- The seal of a plane agrees with what has come: no poison in flight, and its count and digest are those of the chunks landed (R764, R766). On
a plane that passed through, a chunk of a group of more than two members comes as several packets, of which R764 does not say which CRC is
folded: there the agreement of the digests is a free value (log entry 57). -/
def State.planeMatch (s : State) (c : CollCtx) (plane : Nat) : Bool :=
  match (Sp.get? c.planes plane).bind (·.sealIn) with
  | some (dig, count, inFlight) =>
    !inFlight && (c.onPlane plane).length = count
      && (if plane ∈ c.passedPlanes && decide (2 < c.members) then (s.free plane).getLsbD 0 else digest (c.onPlane plane) = dig)
  | none => false

/-- Every plane has its seal. -/
def CollCtx.sealedAll (c : CollCtx) : Bool :=
  (descPlanes c.desc).all (fun k => ((Sp.get? c.planes k).bind (·.sealIn)).isSome)

/-- SEAL_ACK (R766): the same MATCH on every plane, on its lowest-numbered UP port. -/
def State.sealAck (s : State) (n : Nat) (c : CollCtx) : State :=
  let planes := descPlanes c.desc
  let ok := planes.all (s.planeMatch c)
  let s1 := planes.foldl (fun (s : State) k =>
    match s.planePort k with
    | some port => s.sendColl port 0x48 c.flask { s.collHeader c 0 with
        passed := (if k ∈ c.passedPlanes then 1 else 0), opword := (if ok then 1 else 0) } []
    | none => s) s
  { s1 with colls := Sp.put s1.colls n { c with acked := true } }

/-- SEAL (R757, R765, R766): the seal of a plane is kept; with the last one SEAL_ACK leaves unless a chunk is missing. -/
def execSeal (port : Nat) (s : State) : Host.Outcome State Fault Refusal :=
  done (s.takeColl port 0x47 (fun s p n c =>
    let x := collHdr (pktPayload p)
    let w := leNat (x.desc.take 8)
    let c1 : CollCtx := { c with planes := Sp.modify c.planes (pktHdr p).plane {} (fun q =>
      { q with sealIn := some (x.opword, bits w 0 24, w.testBit 24) }) }
    if !c1.sealedAll then { s with colls := Sp.put s.colls n c1 }
    else
      let c2 : CollCtx := { c1 with state := 3 }
      if !c2.acked && (descPlanes c2.desc).all c2.complete then s.sealAck n c2
      else { s with colls := Sp.put s.colls n c2 }))

/-- SEAL_WAIT_END (R766): the wait for missing chunks is over. -/
def execSealWaitEnd (n plane : Nat) (s : State) : Host.Outcome State Fault Refusal :=
  done (match Sp.get? s.colls n with
    | none => s
    | some c => if c.sealedAll && !c.acked && plane ∈ descPlanes c.desc then s.sealAck n c else s)

/-! ### Verdicts that arrive (R757, R787) -/

/-- VERDICT (R757, R767 to R771): the verdict of a plane; with that of every plane the pour ends, under COMMIT once its own share is
copied. -/
def execVerdict (port : Nat) (s : State) : Host.Outcome State Fault Refusal :=
  done (s.takeColl port 0x49 (fun s p n c =>
    let x := collHdr (pktPayload p)
    let v := bits (leNat (x.desc.take 8)) 0 2
    if v = 3 then s.count .staleColl 0 else
    let c1 : CollCtx := { c with
      planes := Sp.modify c.planes (pktHdr p).plane {} (fun q => { q with verdict := some v }), rerunTime := x.opword }
    State.settleColl { s with colls := Sp.put s.colls n c1 } n))

/-- VERDICT_TIMEOUT (R787): a reserved collective has no verdict on a plane by slot time + DURATION + GRACE_US + 100 µs. -/
def execVerdictTimeout (n plane : Nat) (s : State) : Host.Outcome State Fault Refusal :=
  done (match Sp.get? s.colls n with
    | none => s
    | some c =>
      let grace := descField c.desc 8 32 32
      let bound := (match c.entry with
        | some e => if c.state = 1 then s.rd .entTime e + s.rd .entDuration e else c.bound
        | none => 0) + 1000 * (if grace = 0 then 100 else grace) + 100000
      if c.entry.isSome && plane ∈ descPlanes c.desc && ((Sp.get? c.planes plane).bind (·.verdict)).isNone && decide (bound ≤ s.now) then
        s.endColl n cLinkLost true
      else s)

/-! ### Reservation answers (R747, R757) -/

/-- The entry that awaits an answer on a plane (R757), ARMED or already OPEN. -/
def State.awaits (s : State) (p : List Byte) : Option Nat :=
  let h := pktHdr p
  let x := collHdr (pktPayload p)
  (s.phaseEntries x.collId x.groupId [eArmed, eOpen]).find? (fun e =>
    s.rd .entFlask e = h.flask && s.rd .entTime e = x.slot && Sp.get? (s.entry e).planes h.plane = some 0)

/-- GRANT (R748, R757). -/
def execGrant (port : Nat) (s : State) : Host.Outcome State Fault Refusal :=
  done (match s.takePacket port 1 [0x41] with
    | none => s
    | some (p, s1) =>
      match s1.awaits p with
      | some e => s1.onEntry e (fun r => { r with planes := Sp.put r.planes (pktHdr p).plane 1 })
      | none => s1.count .staleColl 0)

/-- REFUSE (R747, R757). -/
def execRefuse (port : Nat) (s : State) : Host.Outcome State Fault Refusal :=
  done (match s.takePacket port 1 [0x42] with
    | none => s
    | some (p, s1) =>
      match s1.awaits p with
      | some e => s1.refuseEntry e
      | none => s1.count .staleColl 0)

/-- RESERVE_TIMEOUT (R747): a plane has not answered 1 ms after the RESERVE, whether its entry has opened meanwhile or not. -/
def execReserveTimeout (e plane : Nat) (s : State) : Host.Outcome State Fault Refusal :=
  done (if decide (e < 4096) && (s.rd .entState e = eArmed || s.rd .entState e = eOpen) && s.rd .entKind e = kCollPhase && Sp.get? (s.entry e).planes plane = some 0 then
    s.refuseEntry e else s)

/-! ### Links and members that are lost (R787) -/

/-- A port of a plane has left UP: the collectives that it carries end LINK_LOST (R787). -/
def State.collPortLost (s : State) (plane : Nat) : State :=
  (s.colls.filter (fun c => c.2.state ≠ 1 && !c.2.decided && decide (plane ∈ descPlanes c.2.desc))).foldl (fun s c => s.endColl c.1 cLinkLost true) s

/-- A device is a member of a group entry (R730). -/
def State.isMember (s : State) (g dev : Nat) : Bool :=
  decide (dev < ((List.range 4).map s.gridLen).prod) && (List.range 4).all (fun k =>
    let a := s.groupAxis g k
    let c := s.gridCoord dev k
    a.2.2 ≠ 0 && decide (a.1 ≤ c) && (c - a.1) % a.2.2 = 0 && decide ((c - a.1) / a.2.2 < a.2.1))

/-- A device cannot be reached on a plane: the collectives with it as a member end COLL_ABANDONED (R787). -/
def State.collMemberLost (s : State) (plane dev : Nat) : State :=
  (s.colls.filter (fun c => decide (plane ∈ descPlanes c.2.desc)
      && (match s.groupOf c.2.flask c.2.groupId with
        | some g => s.isMember g dev
        | none => false))).foldl (fun s c => s.endColl c.1 cCollAbandoned false) s

end Sys2Proof.Machine
end

