-- ==== Sys2Proof/Machine/Mailbox.lean ====
section
/-!
DEFINITION. The block mailboxes, the word mailbox and the non-secure command set (R582 to R585, R614 to R625, R861 to R894, R967,
R1001 to R1004).
-/
namespace Sys2Proof.Machine

/-! ### Return codes (R894) -/

def mbQuota : Nat := 0x0031
def mbUnknownCmd : Nat := 0x0101
def mbBadArg : Nat := 0x0102
def mbBusy : Nat := 0x0103
def mbNotPermitted : Nat := 0x0104
def mbFlaskState : Nat := 0x0105
def mbInUse : Nat := 0x0106
def mbNoEntry : Nat := 0x0107
def mbNotReady : Nat := 0x0108
def mbSequence : Nat := 0x0109
def mbTimeout : Nat := 0x010A
def secRetired : Nat := 0x020A

/-! ### Boxes -/

/-- The index of a box among the mailbox registers; the word mailbox has none of them. -/
def boxIdx : Box → Option Nat
  | .pf m => if m < 8 then some m else none
  | .vf v => if 1 ≤ v && v < 64 then some (8 + v) else none
  | .mgmt => some boxMgmt
  | .word => none
  | .secPf1 => some boxSecPf1
  | .secMgmt => some boxSecMgmt

/-- The place of a box in the order of service (R866). -/
def boxPlace : Box → Nat
  | .pf m => m
  | .vf v => 8 + v
  | .mgmt => 72
  | _ => 73

/-- A box can be reached by its sender now. -/
def State.boxUp (s : State) : Box → Bool
  | .pf _ => s.bar0Up
  | .vf v => s.bar0Up && s.vfExists v
  | .secPf1 => s.bar0Up
  | .mgmt | .secMgmt => s.island
  | .word => false

/-- MBOX_GO (R862, R863): a write of MBOX_CTRL that sets GO posts CMD, and DONE clears. -/
def execMboxGo (box : Box) (value : Word32) (s : State) : Host.Outcome State Fault Refusal :=
  let v := value.toNat
  done (match boxIdx box with
    | none => s
    | some i =>
      if !s.boxUp box || s.bit .mboxGo i || bits v 0 1 = 0 then s else
      ((((s.wr .mboxGo i 1).wr .mboxIntEn i (bits v 1 1)).wr .mboxCmd i (bits v 8 8)).wr .mboxSeq i (bits v 16 16)).wr .mboxDone i 0)

/-- The command that a box has posted and the Yilpa controller has not taken. -/
def State.posted (s : State) (box : Box) : Option BoxCmd :=
  match boxIdx box with
  | some i =>
    if s.boxUp box && s.bit .mboxGo i then
      some { box := box, cmd := s.rd .mboxCmd i, seq := s.rd .mboxSeq i,
             req := (List.range 16).map (fun j => BitVec.ofNat 32 (s.rd .mboxData (16 * i + j))) }
    else none
  | none =>
    if box ≠ .word then none else s.mbox.wordCmds.head?.map (fun ws =>
      let first := ws.headD 0
      let more := (ws.drop 1).map (fun w => [BitVec.ofNat 32 w, BitVec.ofNat 32 (w >>> 32)])
      { box := .word, cmd := bits first 0 8, seq := bits first 16 16, req := BitVec.ofNat 32 (first >>> 32) :: more.flatten })

/-- The boxes in the order of service. -/
def boxOrder : List Box :=
  (List.range 8).map Box.pf ++ (List.range 63).map (fun v => Box.vf (v + 1)) ++ [.mgmt, .word]

/-- The command that the controller takes next (R866): round robin after the box served last; none while one runs. Commands of
the management port wait until an image runs, or recovery answers them (R911, R979). -/
def State.nextCommand (s : State) : Option BoxCmd :=
  if s.mbox.running.isSome || !(s.start.imageRuns || s.phase = .recovery) then none else
  let key (b : Box) : Nat := (boxPlace b + 74 - s.mbox.lastTaken - 1) % 74
  (boxOrder.filterMap s.posted).foldl (fun (best : Option BoxCmd) c =>
    match best with
    | none => some c
    | some b => if key c.box < key b.box then some c else best) none

/-- Request register Dn. -/
def BoxCmd.d (c : BoxCmd) (n : Nat) : Nat := ((c.req[n]?).getD 0).toNat

/-- A request register pair as a 64-bit value. -/
def BoxCmd.d2 (c : BoxCmd) (n : Nat) : Nat := c.d n + (c.d (n + 1) <<< 32)

/-- The outcome of a command: its return code, its response registers and the state. -/
abbrev CmdResult := Nat × List (Nat × Nat) × State

/-- A command that ends with an error. -/
def failCmd (s : State) (rc : Nat) : CmdResult := (rc, [], s)

/-- A command that ends OK. -/
def okCmd (s : State) (resp : List (Nat × Nat) := []) : CmdResult := (0, resp, s)

/-- The sources that a command is accepted from (R878): P, V, M and W. -/
structure Sources where
  p : Bool := false
  v : Bool := false
  m : Bool := false
  w : Bool := false
deriving DecidableEq, Repr

/-- A box is among the sources of a command. -/
def Sources.has (x : Sources) : Box → Bool
  | .pf _ => x.p
  | .vf _ => x.v
  | .mgmt => x.m
  | .word => x.w
  | _ => false

/-- All 32 bits of a request register are a field. -/
def wholeReg (n : Nat) : Nat × Nat := (n, 2 ^ 32 - 1)

/-- The request holds no nonzero bit outside the fields of the command (R880): each register with the mask of its fields; a register not listed
has none. -/
def BoxCmd.inFields (c : BoxCmd) (fields : List (Nat × Nat)) : Bool :=
  (List.range 16).all (fun n => c.d n &&& (2 ^ 32 - 1 - ((fields.find? (fun e => e.1 = n)).map (·.2)).getD 0) = 0)

/-- Run the command of a box when it is the one the controller takes next and has this code: source, readiness, fields, then the
command itself (R878 to R883; order: log entry 23); a RETIRED part answers GET_INFO alone (R935), and in recovery START and STOP alone are
looked at (R911, R1003, R1004). An error changes nothing (R881). -/
def State.runCommand (s : State) (box : Box) (code : Nat) (src : Sources) (early : Bool) (fields : List (Nat × Nat))
    (f : BoxCmd → State → CmdResult) : State :=
  match s.nextCommand with
  | none => s
  | some c =>
    if c.box ≠ box || c.cmd ≠ code then s else
    let r : CmdResult :=
      if s.phase = .recovery && code ≠ 0x32 && code ≠ 0x33 then failCmd s mbNotReady
      else if s.sec.lifecycle = 0xF && code ≠ 0x01 then failCmd s secRetired
      else if !src.has box then failCmd s mbNotPermitted
      else if !early && !s.ready then failCmd s mbNotReady
      else if !c.inFields fields then failCmd s mbBadArg
      else f c s
    let after := if r.1 = 0 then r.2.2 else s
    let c1 : BoxCmd := { c with done := true, rc := r.1,
                                resp := if r.1 = 0 then r.2.1.map (fun e => (e.1, BitVec.ofNat 32 e.2)) else [] }
    { after with mbox := { after.mbox with running := some c1, lastTaken := boxPlace box } }

/-- A VF may name only its own flask (R882). -/
def permits (c : BoxCmd) (flask : Nat) : Bool :=
  match c.box with
  | .vf v => v = flask
  | _ => true

/-! ### The end of a command (R864 to R867, R873) -/

/-- Send an acknowledge of the word mailbox (R869, R870). -/
def State.wordAck (s : State) (pos rc seq d0 : Nat) : State :=
  let w := rc + (seq <<< 16) + (d0 <<< 32)
  match s.sendTc3 (s.rd .wmbMgrDevice) 0xC1 pos (leBytes w 8) with
  | (true, t) => t.wr .wmbOut 0 w
  | (false, _) => s

/-- The source of a mailbox fires when DONE rises with INT_EN 1 (R853, R854). -/
def State.boxFire (s : State) : Box → State
  | .pf m => s.fire (s.route (128 + m))
  | .vf v => s.fire (vfVector v 2)
  | _ => s

/-- Publish the outcome of a command: its response, then in one step RC, SEQ_ECHO, DONE and GO (R864); nothing when the function was
reset while it ran (R867); over the word mailbox an acknowledge of the last word with D0 (R873, R876). -/
def State.publish (s : State) (c : BoxCmd) : State :=
  match boxIdx c.box with
  | none =>
    let d0 := ((c.resp.find? (fun e => e.1 = 0)).map (fun e => e.2.toNat)).getD 0
    let s1 := s.wordAck ((s.mbox.wordCmds.headD []).length - 1) c.rc c.seq d0
    let s2 : State := { s1 with mbox := { s1.mbox with wordCmds := s1.mbox.wordCmds.drop 1 } }
    if c.rc = 0 then s2.cause causeWordCmd else s2
  | some i =>
    if c.box ∈ s.mbox.dropped then
      let s1 := (s.wr .mboxGo i 0).wr .mboxDone i 0
      { s1 with mbox := { s1.mbox with dropped := s1.mbox.dropped.filter (fun b => b ≠ c.box) } }
    else
      let s1 := c.resp.foldl (fun (s : State) e => s.wr .mboxData (16 * i + e.1) e.2.toNat) s
      let s2 := (((s1.wr .mboxRc i c.rc).wr .mboxSeqEcho i c.seq).wr .mboxDone i 1).wr .mboxGo i 0
      if s2.bit .mboxIntEn i then s2.boxFire c.box else s2

/-- The codes of the non-secure command set (R878, R967, R1001). -/
def knownCommand (c : Nat) : Bool :=
  (decide (0x01 ≤ c) && decide (c ≤ 0x0B)) || (decide (0x10 ≤ c) && decide (c ≤ 0x14)) || c = 0x20 || c = 0x21
    || (decide (0x30 ≤ c) && decide (c ≤ 0x34))

/-! ### Commands on flasks and segments -/

/-- GET_INFO (R878). -/
def execGetInfo (box : Box) (s : State) : Host.Outcome State Fault Refusal :=
  done (s.runCommand box 0x01 { p := true, v := true, m := true, w := true } true [] (fun _ s =>
    okCmd s [(0, s.rd .hostOrder + (s.rd .hostStepping <<< 8) + ((512 - s.derived .fenceCount 0) <<< 16)),
             (1, s.rd .fabDevice + (s.rd .lockState <<< 12))]))

/-- Two ranges of addresses share a byte. -/
def overlaps (a n b m : Nat) : Bool := n ≠ 0 && m ≠ 0 && decide (a < b + m) && decide (b < a + n)

/-- The valid segment entries, part-wide. -/
def State.validSegments (s : State) : List Nat := (List.range 16384).filter (fun i => s.bit .segValid i)

/-- JOURNAL_BASE of a flask and the bytes of its journal area (R805). -/
def State.journalBase (s : State) (f : Nat) : Nat := (s.rd .journalBaseLo f <<< 13) + (s.rd .journalBaseHi f <<< 32)

/-- An area of a new flask is free: in the present fast or stack tier, clear of valid segments, LENT GiB and the areas of other
enabled flasks (R884). -/
def State.areaFree (s : State) (f a n : Nat) : Bool :=
  n = 0 || (s.present a n && decide (tierOf a ≠ 2)
    && !s.validSegments.any (fun i => overlaps a n (s.rd .segBase i) (s.rd .segLimit i + 1 - s.rd .segBase i))
    && !(List.range 1536).any (fun g => s.bit .lent g && overlaps a n (g <<< 30) (2 ^ 30))
    && !((List.range 64).filter (fun g => g ≠ f && s.bit .flaskEnabled g)).any (fun g =>
        overlaps a n (s.saveBase g) (4096 * savePages) || overlaps a n (s.journalBase g) (1024 * s.rd .allotJournal g)))

/-- A flask uses more pages of a tier than its allotment (R583). -/
def State.overQuota (s : State) (f : Nat) : Bool :=
  decide (s.rd .allotFast f < s.usedPages f 1) || decide (s.rd .allotStack f < s.usedPages f 0)

/-- A flask enabled with its allotments, save area and journal area. -/
def State.enableFlask (s : State) (f fast stack bays journalKiB save journal : Nat) : State :=
  let s1 := (((s.wr .allotFast f fast).wr .allotStack f stack).wr .allotBays f bays).wr .allotJournal f journalKiB
  let s2 := (((s1.wr .saveBaseLo f (bits save 12 20)).wr .saveBaseHi f (bits save 32 12)).wr .journalBaseLo f
    (bits journal 13 19)).wr .journalBaseHi f (bits journal 32 12)
  s2.setBit .flaskEnabled f

/-- FLASK_ENABLE: the checks of R884 in their order, the alignment of both areas among them; the last tests both tiers, since R583 refuses any
allotment change that leaves a tier over its allotment. -/
def execFlaskEnable (box : Box) (s : State) : Host.Outcome State Fault Refusal :=
  done (s.runCommand box 0x02 { p := true, m := true } false
    [(0, 0x3F), wholeReg 1, wholeReg 2, (3, 0x1FFF), wholeReg 4, wholeReg 5, (6, 0xFFF), wholeReg 7, (8, 0xFFF)] (fun c s =>
      let f := c.d 0
      let save := c.d 5 + (c.d 6 <<< 32)
      let journal := c.d 7 + (c.d 8 <<< 32)
      if s.bit .flaskEnabled f then failCmd s mbFlaskState
      else if save % 4096 ≠ 0 || journal % 8192 ≠ 0 then failCmd s mbBadArg
      else if !s.areaFree f save (4096 * savePages) || !s.areaFree f journal (1024 * c.d 4) then failCmd s mbBadArg
      else
        let s3 := s.enableFlask f (c.d 1) (c.d 2) (c.d 3) (c.d 4) save journal
        if s3.overQuota f then failCmd s mbQuota else okCmd s3))

/-- FLASK_DISABLE (R885). -/
def execFlaskDisable (box : Box) (s : State) : Host.Outcome State Fault Refusal :=
  done (s.runCommand box 0x03 { p := true, m := true } false [(0, 0x3F)] (fun c s =>
    let f := c.d 0
    if s.derived .usedBays f ≠ 0 || (List.range 256).any (fun n => s.bit .tableValid n && s.rd .tableOwner n = f)
        || (List.range 256).any (fun g => s.bit .groupValid g && s.rd .groupFlask g = f) then failCmd s mbInUse
    else
      let s1 := (s.flaskResetStart f).flaskResetFinish f
      let s2 := (List.range 256).foldl (fun (s : State) i => s.wr .segValid (256 * f + i) 0) s1
      let s3 := (((s2.wr .allotFast f 0).wr .allotStack f 0).wr .allotBays f 0).wr .allotJournal f 0
      let s4 := (List.range 4).foldl (fun (s : State) l =>
        (s.wr .ladleEnable (4 * f + l) 0).wr .ladleState (4 * f + l) ladleDisabled) s3
      okCmd (((s4.wr .cqEnable f 0).wr .eqEnable f 0).wr .flaskEnabled f 0)))

/-- SET_ALLOT (R583, R616, R886). -/
def execSetAllot (box : Box) (s : State) : Host.Outcome State Fault Refusal :=
  done (s.runCommand box 0x04 { p := true, m := true, w := true } false [(0, 0x33F), wholeReg 1] (fun c s =>
    let f := bits (c.d 0) 0 6
    let v := c.d 1
    match bits (c.d 0) 8 2 with
    | 0 => if v < s.usedPages f 1 then failCmd s mbQuota else okCmd (s.wr .allotFast f v)
    | 1 => if v < s.usedPages f 0 then failCmd s mbQuota else okCmd (s.wr .allotStack f v)
    | 2 =>
      if 8192 ≤ v then failCmd s mbBadArg
      else if v < s.derived .usedBays f then failCmd s mbQuota else okCmd (s.wr .allotBays f v)
    | _ => okCmd (s.wr .allotJournal f v)))

/-- Clear the registers of a watch slot (R319). -/
def State.clearWatch (s : State) (n : Nat) : State :=
  [FKind.watchAvg, .watchLast, .watchSeeded, .watchFlagHigh, .watchFlagLow, .watchFlagNan, .watchFlagVanish, .watchFlagSat,
    .watchFlagCount].foldl (fun (s : State) k => s.wr k n 0) s

/-- WATCH_ALLOT (R887). -/
def execWatchAllot (box : Box) (s : State) : Host.Outcome State Fault Refusal :=
  done (s.runCommand box 0x05 { p := true, m := true } false [(0, 0x3F), (1, 0x1FFFFFF)] (fun c s =>
    let f := c.d 0
    let base := bits (c.d 1) 0 12
    let n := bits (c.d 1) 12 13
    if 4096 < base + n then failCmd s mbBadArg
    else if (List.range 64).any (fun g => g ≠ f && overlaps base n (s.rd .watchBase g) (s.rd .watchCount g)) then failCmd s mbInUse
    else
      let oldBase := s.rd .watchBase f
      let oldN := s.rd .watchCount f
      let inOld (i : Nat) : Bool := decide (oldBase ≤ i) && decide (i < oldBase + oldN)
      let inNew (i : Nat) : Bool := decide (base ≤ i) && decide (i < base + n)
      let s1 := ((List.range 4096).filter (fun i => inOld i ≠ inNew i)).foldl (fun (s : State) i => s.clearWatch i) s
      okCmd ((s1.wr .watchBase f base).wr .watchCount f n)))

/-- A segment write that R582 refuses for a flask. -/
def State.segRefused (s : State) (f : Nat) (x : SegWords) : Bool :=
  let tier := bits x.w 1 2
  let n := x.limit + 1 - x.base
  decide (2 ^ 44 ≤ x.base) || decide (2 ^ 44 ≤ x.limit) || decide (2 ^ 9 ≤ x.w)
    || (bits x.w 0 1 = 1 && (tier = 3 || x.base % 4096 ≠ 0 || (x.limit + 1) % 4096 ≠ 0 || decide (x.limit < x.base)
      || !s.present x.base n || tierOf x.base ≠ tier
      || (tier = 2 && (List.range 4096).any (fun b => overlaps x.base n (0x0C0000000000 + b * 2 ^ 30) (2 ^ 30)
            && !(s.rd .bayState b = 1 && s.rd .bayFlask b = f)))
      || (tier = 0 && (List.range 1536).any (fun g => s.bit .lent g && overlaps x.base n (g <<< 30) (2 ^ 30)))))

/-- The pass start of a heat is under way: its copies are still to be made, or to be accepted (R520). -/
def Heat.copying (h : Heat) : Bool := h.stage = .passBlock || h.stage = .writing

/-- SEG_WRITE (R582 to R585, R886): the new entry holds for everything dispatched from now on; a command that changes a valid entry
ends once the flask's earlier pours and pass starts, which keep the old entry, have ended, and is given again until then. -/
def execSegWrite (box : Box) (s : State) : Host.Outcome State Fault Refusal :=
  let start := s.runCommand box 0x06 { p := true, v := true, m := true } false ((0, 0x3FFF) :: ((List.range 7).map (fun n => wholeReg (n + 1)))) (fun c s =>
    let f := bits (c.d 0) 8 6
    let i := 256 * f + bits (c.d 0) 0 8
    let x : SegWords := { base := c.d2 1, limit := c.d2 3, w := c.d 5, user := c.d2 6 }
    if !permits c f then failCmd s mbNotPermitted
    else if s.segRefused f x then failCmd s mbBadArg
    else
      let s1 := s.setSegment i x
      if bits x.w 0 1 = 1 && s1.overQuota f then failCmd s mbQuota else okCmd s1)
  let after (s0 : State) : State :=
    match s0.mbox.running with
    | none => s0
    | some c =>
      let f := bits (c.d 0) 8 6
      let i := 256 * f + bits (c.d 0) 0 8
      let old := s.segWords i
      let changes := c.rc = 0 && bits old.w 0 1 = 1 && s0.segWords i ≠ old
      let wait := if changes then (s0.pours.filter (fun p => p.flask = f)).map (·.id) else []
      let heats := if changes then (s0.heats.filter (fun h => ladleFlask h.1 = f && h.2.copying)).map (fun h => (h.1, h.2.pass)) else []
      if wait.isEmpty && heats.isEmpty then s0
      else
        let c1 : BoxCmd := { c with done := false, waitFor := wait, waitHeats := heats, undo := [i, old.base, old.limit, old.w, old.user] }
        { s0 with mbox := { s0.mbox with running := some c1 } }
  done (match s.mbox.running with
    | none => after start
    | some c =>
      if c.box = box && c.cmd = 0x06 && !c.done && !s.pours.any (fun p => p.id ∈ c.waitFor)
          && !s.heats.any (fun h => h.2.copying && (h.1, h.2.pass) ∈ c.waitHeats) then
        { s with mbox := { s.mbox with running := some { c with done := true, waitFor := [], waitHeats := [], undo := [] } } }
      else s)

/-- MB_TIMEOUT (R881, R886): the wait of R585 has passed its bound, and the entry is as it was. -/
def execMbTimeout (s : State) : Host.Outcome State Fault Refusal :=
  done (match s.mbox.running with
    | none => s
    | some c =>
      if c.done then s else
      match c.undo with
      | [i, b, l, w, u] =>
        let s1 := s.setSegment i { base := b, limit := l, w := w, user := u }
        { s1 with mbox := { s1.mbox with running := some { c with done := true, rc := mbTimeout, waitFor := [], waitHeats := [], undo := [] } } }
      | _ => s)

/-- SEG_READ (R878). -/
def execSegRead (box : Box) (s : State) : Host.Outcome State Fault Refusal :=
  done (s.runCommand box 0x07 { p := true, v := true, m := true } false [(0, 0x3FFF)] (fun c s =>
    let f := bits (c.d 0) 8 6
    let x := s.segWords (256 * f + bits (c.d 0) 0 8)
    if !permits c f then failCmd s mbNotPermitted
    else okCmd s [(0, c.d 0), (1, x.base), (2, x.base >>> 32), (3, x.limit), (4, x.limit >>> 32), (5, x.w), (6, x.user), (7, x.user >>> 32)]))

/-! ### Almanac, tables, groups -/

/-- The lowest FREE entry from 0 to 4,094 (R888). -/
def State.freeEntryIndex (s : State) : Option Nat := (List.range 4095).find? (fun e => s.rd .entState e = eFree)

/-- Arm an entry whose words are given (R465, R888). -/
def State.armWith (s : State) (e time w08 w10 dur arg : Nat) : State :=
  let s1 := (((s.wr .entTime e time).wr .entPeriod e (bits w08 0 40)).wr .entRepeat e (bits w08 40 24)).wr .entArg e arg
  ((s1.entryFields e false w10).wr .entDuration e dur).armEntry e

/-- ALMANAC_ARM (R465, R466, R882, R888). -/
def execAlmanacArm (box : Box) (s : State) : Host.Outcome State Fault Refusal :=
  done (s.runCommand box 0x08 { p := true, v := true, m := true } false ((List.range 8).map wholeReg) (fun c s =>
    let w := c.d 4
    if !permits c (if bits w 12 1 = 1 then bits w 6 6 else 64) then failCmd s mbNotPermitted
    else if bits w 4 2 ≠ eArmed || armForbidden (bits w 0 4) (bits w 12 1) (bits (c.d2 2) 0 40) then failCmd s mbBadArg
    else
      match s.freeEntryIndex with
      | none => failCmd s mbNoEntry
      | some e => okCmd (s.armWith e (c.d2 0) (c.d2 2) w (c.d 5) (c.d2 6)) [(0, e)]))

/-- ALMANAC_FREE (R468, R882). The part keeps entry 4,095 for its own use (R656): naming it is a refused field (log entry 24). -/
def execAlmanacFree (box : Box) (s : State) : Host.Outcome State Fault Refusal :=
  done (s.runCommand box 0x09 { p := true, v := true, m := true } false [(0, 0xFFF)] (fun c s =>
    let e := c.d 0
    if !permits c (if s.bit .entFlaskEn e then s.rd .entFlask e else 64) then failCmd s mbNotPermitted
    else if e = 4095 then failCmd s mbBadArg
    else okCmd ((s.fireDue e).freeEntry e)))

/-- TABLE_WRITE (R440). -/
def execTableWrite (box : Box) (s : State) : Host.Outcome State Fault Refusal :=
  done (s.runCommand box 0x0A { p := true, v := true, m := true } false [(0, 0x3FF), wholeReg 1, wholeReg 2] (fun c s =>
    let n := bits (c.d 0) 0 8
    let reg : TableReg := match bits (c.d 0) 8 2 with
      | 0 => .cfg
      | 1 => .rows
      | 2 => .baseA
      | _ => .baseB
    if !permits c (s.rd .tableOwner n) || (reg = .cfg && !permits c (bits (c.d 1) 16 6)) then failCmd s mbNotPermitted
    else
      match s.tableSet n reg (2 ^ 64 - 1) (c.d2 1) with
      | (.done, s1) => okCmd s1
      | (.ignored, _) => failCmd s mbInUse
      | (.invalid, _) => failCmd s mbBadArg))

/-- GROUP_WRITE (R731, R878, R882): words W2 to W5 and then W0; D0 returns W1. -/
def execGroupWrite (box : Box) (s : State) : Host.Outcome State Fault Refusal :=
  done (s.runCommand box 0x0B { p := true, v := true, m := true } false ((0, 0xFF) :: (List.range 5).map (fun n => wholeReg (n + 1))) (fun c s =>
    let g := c.d 0
    if !permits c (s.rd .groupFlask g) || !permits c (bits (c.d 1) 16 6) then failCmd s mbNotPermitted
    else
      let s1 := [2, 3, 4, 5].foldl (fun (s : State) w => s.groupWord g w (c.d w)) s
      let s2 := s1.groupWord g 0 (c.d 1)
      okCmd s2 [(0, s2.rd .groupRank g + (s2.rd .groupMembers g <<< 12) + (s2.rd .groupMember g <<< 24))]))

/-! ### Loans and bays (R614 to R625, R889 to R893) -/

/-- LEND (R615, R889). -/
def execLend (box : Box) (s : State) : Host.Outcome State Fault Refusal :=
  done (s.runCommand box 0x10 { p := true, m := true, w := true } false [(0, 0x7FFFFF), (1, 0xFFF)] (fun c s =>
    let g := bits (c.d 0) 0 11
    if s.stackBytes ≤ g <<< 30 then failCmd s mbBadArg
    else if s.bit .lent g || s.validSegments.any (fun i =>
        overlaps (g <<< 30) (2 ^ 30) (s.rd .segBase i) (s.rd .segLimit i + 1 - s.rd .segBase i)) then failCmd s mbInUse
    else okCmd (((s.wr .lentDevice g (bits (c.d 0) 11 12)).wr .lentBay g (c.d 1)).wr .lent g 1)))

/-- LOAN_END (R623, R890). -/
def execLoanEnd (box : Box) (s : State) : Host.Outcome State Fault Refusal :=
  done (s.runCommand box 0x11 { p := true, m := true, w := true } false [(0, 0x7FF), wholeReg 1, wholeReg 2] (fun c s =>
    if s.bit .lent (c.d 0) then okCmd { s with loanEnds := Sp.put s.loanEnds (c.d 0) (c.d2 1) } else failCmd s mbBadArg))

/-- MAP_BAY (R616, R891). -/
def execMapBay (box : Box) (s : State) : Host.Outcome State Fault Refusal :=
  done (s.runCommand box 0x12 { p := true, m := true, w := true } false [(0, 0x3FFFF), (1, 0x7FFFFF)] (fun c s =>
    let b := bits (c.d 0) 0 12
    let f := bits (c.d 0) 12 6
    if s.rd .bayState b ≠ 0 then failCmd s mbInUse
    else if s.rd .allotBays f ≤ s.derived .usedBays f then failCmd s mbQuota
    else okCmd ((((s.wr .bayFlask b f).wr .bayDevice b (bits (c.d 1) 0 12)).wr .bayLenderGib b (bits (c.d 1) 12 11)).wr .bayState b 1)))

/-- REVOKE_BAY (R621, R892). -/
def execRevokeBay (box : Box) (s : State) : Host.Outcome State Fault Refusal :=
  done (s.runCommand box 0x13 { p := true, m := true, w := true } false [(0, 0xFFF), wholeReg 1, wholeReg 2] (fun c s =>
    let b := c.d 0
    if s.rd .bayState b ≠ 1 then failCmd s mbBadArg
    else
      match s.freeEntryIndex with
      | none => failCmd s mbNoEntry
      | some e =>
        okCmd (((s.armWith e (c.d2 1) 0 kBayDeadline 0 b).wr .bayDeadlineEntry b e).wr .bayDeadlineSet b 1) [(0, e)]))

/-- UNMAP_BAY (R893). -/
def execUnmapBay (box : Box) (s : State) : Host.Outcome State Fault Refusal :=
  done (s.runCommand box 0x14 { p := true, m := true, w := true } false [(0, 0xFFF)] (fun c s =>
    let b := c.d 0
    if s.validSegments.any (fun i => overlaps (0x0C0000000000 + b * 2 ^ 30) (2 ^ 30) (s.rd .segBase i)
        (s.rd .segLimit i + 1 - s.rd .segBase i)) then failCmd s mbInUse
    else
      let s1 := if s.bit .bayDeadlineSet b then s.clearEntry (s.rd .bayDeadlineEntry b) else s
      okCmd ([FKind.bayState, .bayFlask, .bayDevice, .bayLenderGib, .bayDeadlineEntry, .bayDeadlineSet].foldl
        (fun (s : State) k => s.wr k b 0) s1)))

/-! ### Power and start-up commands (R967, R1001 to R1004) -/

/-- SET_MODES (R958, R967). -/
def execSetModes (box : Box) (s : State) : Host.Outcome State Fault Refusal :=
  done (s.runCommand box 0x20 { p := true, m := true, w := true } true [(0, 0x3F)] (fun c s =>
    let set (s : State) (k : FKind) (v : Nat) : State := if v = 3 then s else s.wr k 0 v
    let s1 := set (set (set s .envelope (bits (c.d 0) 0 2)) .strictness (bits (c.d 0) 2 2)) .scrubRate (bits (c.d 0) 4 2)
    okCmd (s1.wr .stackCap 0 (envelopeStackCap (s1.rd .envelope)))))

/-- The worst class of any unit. -/
def State.worstClass (s : State) : Nat :=
  ((List.range 16).map (fun i => s.rd .stackClass i) ++ (List.range 4).map (fun i => s.rd .dieClass i)).foldl max 0

/-- GET_POWER (R967): the temperature in whole degrees, rounded down (log entry 25). -/
def execGetPower (box : Box) (s : State) : Host.Outcome State Fault Refusal :=
  done (s.runCommand box 0x21 { p := true, v := true, m := true, w := true } true [] (fun _ s =>
    okCmd s [(0, s.rd .pwrWatts + ((s.hottest.2 / 4) <<< 16) + (s.worstClass <<< 24)), (1, s.rd .duty)]))

/-- CFG_READ (R1001, R1002). -/
def execCfgRead (box : Box) (s : State) : Host.Outcome State Fault Refusal :=
  done (s.runCommand box 0x30 { p := true, m := true } true [(0, 0xFF)] (fun c s =>
    if (itemDefault (c.d 0)).isNone then failCmd s mbBadArg
    else okCmd s [(1, itemOf s.contrail.stored (c.d 0)), (2, itemOf s.start.config (c.d 0))]))

/-- CFG_WRITE (R995, R997, R1002): the other copy of the stored configuration is written, in force from the next start-up. -/
def execCfgWrite (box : Box) (s : State) : Host.Outcome State Fault Refusal :=
  done (s.runCommand box 0x31 { p := true, m := true } true [(0, 0xFF), wholeReg 1] (fun c s =>
    if (itemDefault (c.d 0)).isNone || itemRefused (c.d 0) (c.d 1) then failCmd s mbBadArg
    else
      let x := s.contrail
      okCmd { s with contrail := { x with stored := Sp.put x.stored (c.d 0) (BitVec.ofNat 32 (c.d 1)), storedSeq := x.storedSeq + 1,
                                          storedOlder := x.stored } }))

/-- START (R977, R981, R1003): a start-up begins; a second START before the part has left STANDBY begins no other. -/
def execStart (box : Box) (s : State) : Host.Outcome State Fault Refusal :=
  done (s.runCommand box 0x32 { m := true } true [] (fun _ s =>
    if s.phase ≠ .standby then failCmd s mbBadArg
    else if s.start.startTaken then okCmd s
    else
      let s1 := s.beginStartup 2
      okCmd { s1 with start := { s1.start with startTaken := true } }))

/-- STOP (R978, R982, R1004). -/
def execStop (box : Box) (s : State) : Host.Outcome State Fault Refusal :=
  done (s.runCommand box 0x33 { m := true } true [] (fun _ s =>
    if s.phase = .off || s.phase = .standby || s.phase = .recovery then failCmd s mbBadArg else okCmd s.stopPart))

/-- GET_STARTUP (R1001). -/
def execGetStartup (box : Box) (s : State) : Host.Outcome State Fault Refusal :=
  done (s.runCommand box 0x34 { p := true, v := true, m := true, w := true } true [] (fun _ s =>
    okCmd s [(0, s.regWord 0xC00000), (1, s.regWord 0xC00004)]))

/-! ### The word mailbox (R868 to R877) -/

/-- The first word of the word mailbox's open command: one that waits to be taken, or that of the words taken. -/
def MboxRt.wordFirst (x : MboxRt) : Nat :=
  match x.wordIn with
  | some (0, w) => w
  | _ => x.wordOpen.headD 0

/-- MBOX_WORD (R868, R871, R872). -/
def execMboxWord (port : Nat) (s : State) : Host.Outcome State Fault Refusal :=
  done (match s.takePacket port 3 [0xC0] with
    | none => s
    | some (p, s1) =>
      let h := pktHdr p
      let w := pktWord p 0
      let pos := bits h.arg 0 2
      if !s1.bit .wmbWordEn || h.src ≠ s1.rd .wmbMgrDevice then s1.count .wmbReject 0
      else if s1.bit .wmbFull then
        s1.wordAck pos mbBusy (bits (if pos = 0 then w else s1.mbox.wordFirst) 16 16) 0
      else { s1.setBit .wmbFull with mbox := { s1.mbox with wordIn := some (pos, w) } })

/-- MBOX_WORD_TAKE (R870 to R875): a first word opens a command, the next position continues it, and any other word closes it and is
answered MB_SEQUENCE; a word taken that is not the last is acknowledged at once. A complete command waits behind those that came before it. -/
def execMboxWordTake (s : State) : Host.Outcome State Fault Refusal :=
  done (match s.mbox.wordIn with
    | none => s
    | some (pos, w) =>
      let s1 : State := { (s.clr .wmbFull).wr .wmbIn 0 w with mbox := { s.mbox with wordIn := none } }
      let seq (first : Nat) : Nat := bits first 16 16
      let take (s : State) (ws : List Nat) : State :=
        let first := ws.headD 0
        let full := ws.length = bits first 8 2 + 1
        let s2 : State := { s with mbox := { s.mbox with wordOpen := if full then [] else ws,
                                                         wordCmds := s.mbox.wordCmds ++ (if full then [ws] else []) } }
        if full then (s2.wr .wmbOpen 0 0).wr .wmbNext 0 0
        else ((s2.wr .wmbOpen 0 1).wr .wmbNext 0 ws.length).wordAck (ws.length - 1) 0 (seq first) 0
      let ws := s1.mbox.wordOpen
      if pos = 0 then take s1 [w]
      else if ws ≠ [] && pos = ws.length then take s1 (ws ++ [w])
      else
        let s2 : State := { s1 with mbox := { s1.mbox with wordOpen := [] } }
        ((s2.wr .wmbOpen 0 0).wr .wmbNext 0 0).wordAck pos mbSequence (seq (ws.headD 0)) 0)

end Sys2Proof.Machine
end

