-- ==== Sys2Proof/Machine/Contrail.lean ====
section
/-!
DEFINITION. The contrail record and its windows, the probes, and the test access port (R1009 to R1036).
-/
namespace Sys2Proof.Machine

/-! ### Writing entries (R1010 to R1019) -/

/-- Slots of the first-fault region. -/
def firstSlots : Nat := 16384

/-- The first-fault kinds (R1012). -/
def firstFaultKind (k : Nat) : Bool := k = 0x01 || k = 0x02 || k = 0x05 || k = 0x06 || k = 0x08 || k = 0x0E

/-- The 128 bytes of an entry (R1011). -/
def CtEvent.bytes (e : CtEvent) (seq : BitVec 64) (copy : Bool) : List Byte :=
  let w14 := e.kind + (if copy then 0x100 else 0) + (if e.timeValid then 0x200 else 0) + (e.flask <<< 10) + (e.code <<< 16)
  let body := leBytes seq.toNat 8 ++ leBytes e.time 8 ++ leBytes e.boot 4 ++ leBytes w14 4 ++ leBytes e.phase 4 ++ padTo e.arg 96 0
  body ++ leBytes (crc32c body) 4

/-- Write an entry to its ring slot and, while FF_COUNT is below 16,384, a first-fault entry to the first-fault region as well
(R1010, R1017 to R1019). -/
def State.writeEntry (s : State) (e : CtEvent) : State :=
  let c := s.contrail
  let copy := firstFaultKind e.kind && decide (c.ffCount < firstSlots)
  let b := e.bytes c.nextSeq copy
  let c1 : ContrailRt := { c with
    nextSeq := c.nextSeq + 1
    ring := Sp.put c.ring ((c.nextSeq.toNat - 1) % ringSlots) b
    newestFault := if firstFaultKind e.kind then b else c.newestFault }
  if copy then
    ({ s with contrail := { c1 with first := Sp.put c1.first c1.ffCount b, ffCount := c1.ffCount + 1 } }).setBit .ffNew
  else { s with contrail := c1 }

/-- CONTRAIL_ENTRY_WRITE (R1013, R1014): the oldest waiting entry is written, after a LOST entry when events were discarded. -/
def execContrailEntryWrite (s : State) : Host.Outcome State Fault Refusal :=
  done (
    if s.contrail.lostDue ≠ 0 then
      ({ s with contrail := { s.contrail with lostDue := 0 } }).writeEntry
        { boot := s.sec.bootCount.toNat, time := s.now, timeValid := s.timeLock, kind := 0x0D, flask := 0, code := 0,
          phase := s.phase.code, arg := leBytes s.contrail.lostDue 4 }
    else
      match s.contrail.queue with
      | [] => s
      | e :: r => ({ s with contrail := { s.contrail with queue := r } }).writeEntry e)

/-! ### Windows (R1022 to R1025) -/

/-- The bytes of a slot; a slot beyond its region, and an empty one, reads as zero bytes (R1011, R1023). -/
def ContrailRt.slot (c : ContrailRt) (region i : Nat) : List Byte :=
  if region = 1 then (if i < firstSlots then Sp.getD c.first i (List.replicate 128 0) else List.replicate 128 0)
  else if i < ringSlots then Sp.getD c.ring i (List.replicate 128 0) else List.replicate 128 0

/-- CT_SEL_WRITE (R1022): the BAR0 block and the management port window each latch for themselves. -/
def execCtSelWrite (mgmt : Bool) (value : Word32) (s : State) : Host.Outcome State Fault Refusal :=
  let region := bits value.toNat 31 1
  let slot := bits value.toNat 0 19
  let b := s.contrail.slot region slot
  done (
    if mgmt then
      (if s.island then
        { (s.wr .mgtCtSlot 0 slot).wr .mgtCtRegion 0 region with contrail := { s.contrail with mgtLatch := b, mgtPtr := 0 } }
      else s)
    else if s.bar0Up then
      { (s.wr .ctSlot 0 slot).wr .ctRegion 0 region with contrail := { s.contrail with latch := b } }
    else s)

/-- CT_DATA_READ (R1024). -/
def execCtDataRead (s : State) : Host.Outcome State Fault Refusal :=
  done (if s.island then
    { s.send (.data ((s.contrail.mgtLatch.drop s.contrail.mgtPtr).take 4) false) with
      contrail := { s.contrail with mgtPtr := (s.contrail.mgtPtr + 4) % 128 } }
  else s)

/-! ### Probes (R1027 to R1032) -/

/-- The debug unlock is in force with a bit of SCOPE (R927, R1032). -/
def State.unlocked (s : State) (b : Nat) : Bool := s.sec.lifecycle = 3 && s.sec.scope.testBit b

/-- PROBE_CFG_WRITE (R1031). The lands follow the signals of the group selected from now on: what was held of others is gone (R1027). -/
def execProbeCfgWrite (value : Word32) (s : State) : Host.Outcome State Fault Refusal :=
  let v := value.toNat
  let s1 := ((s.wr .probeDiv 0 (bits v 8 2)).wr .probeEnable 0 (bits v 10 1)).wr .probeActFlask 0 (bits v 16 6)
  let s2 := if decide (4 ≤ bits v 0 8) && !s.unlocked 0 then s1.setBit .probeDenied else s1.wr .probeGroup 0 (bits v 0 8)
  let same := s2.rd .probeGroup = s.rd .probeGroup && s2.rd .probeActFlask = s.rd .probeActFlask
  done (if !s.bar0Up then s else if same then s2 else { s2 with probe := { s2.probe with held := 0 } })

/-! ### The test access port (R1033 to R1036) -/

/-- Bits of a number, least significant first. -/
def bitsOf (x w : Nat) : List Bool := (List.range w).map (fun i => x.testBit i)

/-- IDCODE on every stepping (R1034). -/
def idcodeValue : Nat := 0x191609A7

/-- The lands with cells in the boundary register, by designation (row * 100 + column) from TDI towards TDO, with whether the land is an
output or bidirectional and so has a control cell (R1036, R1047): the management bus, ALERT_N, THERM_TRIP_N and PWR_GOOD, the straps, REF_IN,
TICK_IN, PERST_N, and the probes. The management bus is taken as bidirectional (log entry 26). -/
def scanLands : List (Nat × Bool) :=
  [(155, true), (156, true), (157, true), (158, true), (159, true)]
  ++ [(255, false), (256, false), (257, false), (258, false)]
  ++ [(4421, false), (4422, false), (4424, false), (4425, false), (4439, false)]
  ++ (List.range 16).map (fun i => (4843 + i, true)) ++ [(4860, true)]

/-- The cells of the boundary register: the land of each, and whether it is the control cell that follows the land's own (R1036). -/
def scanCells : List (Nat × Bool) := (scanLands.map (fun l => if l.2 then [(l.1, false), (l.1, true)] else [(l.1, false)])).flatten

/-- The level that the part's own function gives a land, or that is put on an input; the levels of the management bus, of REF_IN and of TICK_IN
are no state of the part: free values. -/
def State.ownLevel (s : State) (land : Nat) : Bool :=
  if land = 157 then s.pins.alertN
  else if land = 158 then s.pins.thermTripN
  else if land = 159 then s.pins.pwrGood
  else if 255 ≤ land && land < 259 then s.pins.straps.toNat.testBit (land - 255)
  else if land = 4439 then s.pins.perstN
  else if 4843 ≤ land && land < 4859 then s.probe.lands.toNat.testBit (land - 4843)
  else if land = 4860 then s.probeClk
  else (s.free land).toNat.testBit 0

/-- What the boundary register captures (R1036): the level of each land, and of an output that it is driven. -/
def State.scanCapture (s : State) : List Bool := scanCells.map (fun c => c.2 || s.ownLevel c.1)

/-- A shift of as many cells as the boundary register has; the first of the list ends nearest TDI. -/
def scanLoad (cells : List Bool) : List Bool := padTo (cells.take scanCells.length) scanCells.length false

/-- Select an instruction whose data register is the one-bit bypass register. -/
def State.tapBypass (s : State) (code : Nat) : State :=
  { s with tap := { s.tap with ctrl := .runTestIdle, ir := BitVec.ofNat 8 code, dr := [false] } }

/-- EXTEST, CLAMP and HIGHZ take effect only in OFF, STANDBY and RECOVERY (R1035). -/
def State.scanPhase (s : State) : Bool := s.phase = .off || s.phase = .standby || s.phase = .recovery

/-- The level that the part drives on an output or bidirectional land, or `none` when the land floats: the boundary register's under EXTEST and
CLAMP while they take effect, where a control cell of 1 enables the driver (log entry 26); nothing under HIGHZ; else the part's own. -/
def State.landOut (s : State) (land : Nat) : Option Bool :=
  let cell (control : Bool) : Bool := (s.tap.boundary[scanCells.findIdx (fun c => c = (land, control))]?).getD false
  if s.scanPhase && (s.tap.ir = 0x03 || s.tap.ir = 0x04) then (if cell true then some (cell false) else none)
  else if s.scanPhase && s.tap.ir = 0x05 then none
  else some (s.ownLevel land)

/-- The data register that the selected instruction shifts: under EXTEST the boundary register while it takes effect, else the bypass register
(R1034, R1035). -/
def State.dataReg (s : State) : List Bool := if s.scanPhase && s.tap.ir = 0x03 then s.tap.boundary else s.tap.dr

/-- TAP_RESET (R1034): IDCODE is selected. -/
def execTapReset (s : State) : Host.Outcome State Fault Refusal :=
  done { s with tap := { s.tap with ctrl := .testLogicReset, ir := 0x01, dr := bitsOf idcodeValue 32 } }

/-- IDCODE (R1034). -/
def execIdcode (s : State) : Host.Outcome State Fault Refusal :=
  done { s with tap := { s.tap with ctrl := .runTestIdle, ir := 0x01, dr := bitsOf idcodeValue 32 } }

/-- SAMPLE/PRELOAD (R1034, R1036): the levels of the lands are captured and shifted out, and the cells given are shifted in. -/
def execSamplePreload (cells : List Bool) (s : State) : Host.Outcome State Fault Refusal :=
  done { s with tap := { ctrl := .runTestIdle, ir := 0x02, boundary := scanLoad cells, dr := scanLoad cells, captured := s.scanCapture } }

/-- EXTEST (R1035): the boundary register drives the lands, in the phases where it takes effect; in others it acts as BYPASS until such a phase
begins. -/
def execExtest (s : State) : Host.Outcome State Fault Refusal :=
  let t := s.tapBypass 0x03
  done (if s.scanPhase then { t with tap := { t.tap with captured := s.scanCapture } } else t)

/-- CLAMP (R1035): the boundary register drives the lands in the phases where it takes effect, and the bypass register is selected. -/
def execClamp (s : State) : Host.Outcome State Fault Refusal := done (s.tapBypass 0x04)

/-- HIGHZ (R1035): the lands float in the phases where it takes effect, and the bypass register is selected. -/
def execHighz (s : State) : Host.Outcome State Fault Refusal := done (s.tapBypass 0x05)

/-- BYPASS (R1034), under its own code or any code that acts as it; a code of another instruction selects none of these. -/
def execBypass (code : Nat) (s : State) : Host.Outcome State Fault Refusal :=
  done (s.tapBypass (if decide (1 ≤ code) && decide (code ≤ 5) then 0xFF else code))

/-- PRIVATE_SCAN_INSTRUCTION (R934, R1034): selected in DEBUG_UNLOCKED with SCOPE SCAN, else BYPASS; what such an instruction does
inside the part is not described, and it reaches no stored word: its data register is a free value (log entry 26). -/
def execPrivateScanInstruction (code : Nat) (s : State) : Host.Outcome State Fault Refusal :=
  let t := s.tapBypass code
  done (if decide (0x80 ≤ code) && decide (code ≤ 0xFE) && s.unlocked 1 then
    { t with tap := { t.tap with dr := (List.range ((s.free 0).toNat % 4096)).map (fun i => (s.free (i + 1)).toNat.testBit 0) } }
  else t)

end Sys2Proof.Machine
end

