-- ==== Sys2Proof/Machine/Flags.lean ====
section
/-!
DEFINITION. The squall watch: the statistic of a pour, the flags of a slot, its average, flag and storm events, and heat stops
(R293 to R320).
-/
namespace Sys2Proof.Machine

/-- The slot that a pour names (R294). -/
def State.watchSlot (s : State) (p : Pour) : Nat := s.rd .watchBase p.flask + p.watchSlot

/-- The statistic of a pour from its running sum of squares and count (R300). -/
def Pour.rms (p : Pour) : Val := sqrtRnd (divRnd (ofBits p.sumSq) (.ofNat p.count))

/-- The flags of an evaluation, in the order of WATCH_STATUS bits [5:1] (R301, R314): HIGH, LOW, NAN, VANISH, SAT. -/
def watchFlags (relaxed seeded : Bool) (rms avg : Val) (high low vanLimit satLimit : Nat) (p : Pour) : Nat :=
  let nanInf := decide (0 < p.nans)
  let above := high ≠ 0 && (rnd (avg.mul (.fin false high (-4)))).lt rms
  let below := low ≠ 0 && rms.lt (rnd (avg.mul (.fin false low (-8))))
  bitMask (
    (if !nanInf && seeded && !relaxed && above then [0] else []) ++ (if !nanInf && seeded && !relaxed && below then [1] else [])
    ++ (if nanInf then [2] else []) ++ (if !relaxed && decide (vanLimit < min p.vanished 0xFFFF) then [3] else [])
    ++ (if !relaxed && decide (satLimit < min p.saturated 0xFFFF) then [4] else []))

/-- The average after an observation (R301). -/
def nextAvg (seeded : Bool) (avg rms : Val) (k : Nat) : Val :=
  if seeded then rnd (avg.add ((rms.add avg.neg).mul (.two (-(k : Int))))) else rms

/-- The flag fields in bit order. -/
def flagKinds : List FKind := [.watchFlagHigh, .watchFlagLow, .watchFlagNan, .watchFlagVanish, .watchFlagSat]

/-- A slot has flagged in a pour of a heat: the storm count of the pour's pass, and the storm event when the count first exceeds
the limit (R307, R308). -/
def State.storm (s : State) (p : Pour) (slot : Nat) : State :=
  match p.heat, Sp.get? s.heats p.ladle with
  | some hp, some h =>
    let old := Sp.getD h.storms hp.pass ([], false)
    let slots := if slot ∈ old.1 then old.1 else old.1 ++ [slot]
    let limit := s.rd .stormLimit p.flask
    let now := !old.2 && limit ≠ 0xFFF && decide (limit < slots.length)
    let s1 := { s with heats := Sp.put s.heats p.ladle { h with storms := Sp.put h.storms hp.pass (slots, old.2 || now) } }
    if now then
      s1.event { event := 0x02, ladle := p.ladle, tag := bits h.card.toNat 1152 16, pass := some hp.pass, arg0 := slots.length }
    else s1
  | _, _ => s

/-- A flagging evaluation may stop the heat that dispatched the pour (R310, R314). -/
def State.squallStop (s : State) (p : Pour) (slot flags : Nat) : State :=
  match p.heat, Sp.get? s.heats p.ladle with
  | some _, some h =>
    let may := s.bit .watchStopHeat slot && h.card.toNat.testBit 17
    let strict := s.rd .strictness = 2 && flags.testBit 2
    if may || strict then s.stopHeat p.ladle cSquallStop else s
  | _, _ => s

/-- A slot evaluates a pour (R301 to R310). -/
def State.evaluate (s : State) (p : Pour) : State :=
  let n := s.watchSlot p
  let k := s.rd .watchK n
  if !s.bit .watchEnable n || k = 0 || decide (12 < k) then s else
  let seeded := s.bit .watchSeeded n
  let avgBits := s.rd .watchAvg n
  let avg := ofBits (BitVec.ofNat 32 avgBits)
  let rms := p.rms
  let flags := watchFlags (s.rd .strictness = 0) seeded rms avg (s.rd .watchHighRatio n) (s.rd .watchLowRatio n)
    (s.rd .watchVanishLimit n) (s.rd .watchSatLimit n) p
  let s1 := if 0 < p.nans || rms = .inf false then s
    else (s.wr .watchAvg n (nextAvg seeded avg rms k).bits.toNat).setBit .watchSeeded n
  let s2 := s1.wr .watchLast n rms.bits.toNat
  let s3 := (flagKinds.zipIdx.filter (fun e => flags.testBit e.2)).foldl (fun (s : State) e => s.setBit e.1 n) s2
  if flags = 0 then s3 else
  let s4 := s3.count .watchFlagCount n
  let s5 := s4.event { event := 0x01, ladle := p.ladle, tag := p.tag, pass := p.heat.map (·.pass),
                       arg0 := n + (flags <<< 16), arg1 := rms.bits.toNat, arg2 := avgBits }
  let s6 := { s5 with power := { s5.power with squallSince := Sp.modify s5.power.squallSince p.flask 0 (· + 1) } }
  (s6.storm p n).squallStop p n flags

/-- WATCH_AVG_WRITE (R320): a write replaces the average. -/
def execWatchAvgWrite (n : Nat) (value : Word32) (s : State) : Host.Outcome State Fault Refusal :=
  done (if s.bar0Up && decide (n < 4096) then s.wr .watchAvg n value.toNat else s)

end Sys2Proof.Machine
end

