-- ==== Sys2Proof/Machine/Riser.lean ====
section
/-!
DEFINITION. Riser points and replay: MARK, its journal entry, the start, the cancellation, the wait and the end of a replay (R196,
R236, R379, R794 to R817, R820 to R823).
-/
namespace Sys2Proof.Machine

/-! ### MARK (R196, R797 to R800, R806, R807) -/

/-- Every earlier pour of a ladle has ended, its heat's included, as a MARK needs it (R196, R797). One that faulted counts from POUR_FAULT on (log
entry 58). -/
def State.ladleDrained (s : State) (p : Pour) : Bool :=
  !s.pours.any (fun q => q.ladle = p.ladle && decide (q.id < p.id))

/-- Two pours of a ladle are of different sections of its heat, which only semaphores and MARK pours order (R1078). -/
def otherSection (p q : Pour) : Bool :=
  q.ladle = p.ladle && (match p.heat, q.heat with
    | some a, some b => decide (a.sec ≠ b.sec)
    | _, _ => false)

/-- Every pour that a FENCE, a FLIP or a SIGNAL after completion waits for has ended: the earlier pours of its ladle (R192, R193, R413), in a heat
those of its own section (R1078). One that faulted counts from POUR_FAULT on (log entry 58). -/
def State.fenceDrained (s : State) (p : Pour) : Bool :=
  !s.pours.any (fun q => q.ladle = p.ladle && decide (q.id < p.id) && !otherSection p q)

/-- The fence of a MARK holds; in a heat the pass start has finished too (R797). -/
def State.markFence (s : State) (p : Pour) : Bool :=
  s.ladleDrained p &&
    (match p.heat, Sp.get? s.heats p.ladle with
      | some _, some h => h.stage = .running
      | _, _ => true)

/-- MARK (R797): its fence is satisfied. -/
def execMark (id : Nat) (s : State) : Host.Outcome State Fault Refusal :=
  done (match s.pour? id with
    | none => s
    | some p =>
      if p.opcode = 0xF && s.starts p && s.markFence p then s.onPour id (fun q => { q with stage := .running }) else s)

/-- First watch slot, number of watch slots and of ranges of a MARK (R794). -/
def Pour.markFirst (p : Pour) : Nat := p.param 16 12
def Pour.markCount (p : Pour) : Nat := p.param 28 9
def Pour.markRanges (p : Pour) : Nat := p.param 37 5

/-- The iteration counts of the open loops of the MARK's section, outermost first (R807). -/
def loopIters (h : Heat) (sec : Nat) : List Nat :=
  match h.sections[sec]? with
  | some x => padTo (x.loops.reverse.map (·.iter)) 4 0
  | none => List.replicate 4 0

/-- The journal entry of a MARK (R807). -/
def State.journalEntry (s : State) (p : Pour) : List Byte :=
  let f := p.flask
  let sems := (List.range 64).map (fun i => leBytes (s.rd .sem (64 * f + i)) 4)
  let heat : List Byte :=
    match p.heat, Sp.get? s.heats p.ladle with
    | some hp, some h =>
      leBytes h.pass 4 ++ ((List.range 3).map (fun i => leBytes ((h.sections[i]?).elim 0 (·.pos)) 4)).flatten
        ++ ((loopIters h hp.sec).map (fun i => leBytes i 3)).flatten
        ++ leBytes (s.rd .sem (64 * f + cardF h.card 0x18 12 6)) 4
    | _, _ => List.replicate 32 0
  let ranges := padTo (p.words.map (fun w => leBytes w 8)).flatten 256 0
  let base := s.rd .watchBase f + p.markFirst
  let slots := (List.range p.markCount).map (fun i =>
    leBytes (s.rd .watchAvg (base + i)) 4
      ++ leBytes (s.rd .watchLast (base + i) % 2 ^ 31 + (if s.bit .watchSeeded (base + i) then 2 ^ 31 else 0)) 4)
  leBytes p.index 4 ++ heat ++ leBytes (p.param 16 26) 4 ++ leBytes (p.f bitA 64) 8 ++ leBytes s.now 8 ++ List.replicate 72 0
    ++ sems.flatten ++ ranges ++ slots.flatten

/-- MARK_RECORD (R798 to R800, R806): the entry is written into the slot that is not current, that slot becomes current, ATTEMPT is 0,
and the MARK ends. -/
def execMarkRecord (id : Nat) (s : State) : Host.Outcome State Fault Refusal :=
  done (match s.pour? id with
    | none => s
    | some p =>
      if p.opcode ≠ 0xF || p.stage ≠ .running || p.cancelled then s else
      let n := p.ladle
      let slot := 1 - s.rd .riserSlot n
      match s.put { rq := rqPour, flask := p.flask } none 0 (s.journalSlot n slot) (s.journalEntry p) [] with
      | .error code => s.faultPour p code 0
      | .ok s1 =>
        let mark := match p.heat with
          | some hp => hp.prog
          | none => p.index
        let s2 := (((s1.wr .riserSlot n slot).setBit .hasRiser n).wr .riserAttempt n 0).wr .riserMark n mark
        let heat := (Sp.get? s.heats n).map (fun h => { h with sections := h.sections.map (fun x => { x with record := none }) })
        let s3 := s2.onLadle n (fun r => { r with riserHeat := if p.heat.isSome then heat else none, flips := [], skipFlips := [] })
        s3.endOk p)

/-! ### Replay (R809 to R817) -/

/-- A pour that stands for a heat whose own read failed: the code, the card's tag and the place of the read. -/
def heatPour (n : Nat) (h : Heat) (sec code : Nat) : Pour :=
  { id := 0, flask := ladleFlask n, ladle := n, index := h.index,
    heat := some { pass := h.pass, sec := sec, prog := (h.sections[sec]?).elim 0 (·.pos) },
    word := BitVec.ofNat 1024 (0xC0 + (cardTag h.card <<< 960)), unit := .dispatcher, code := code }

/-- What faults a ladle's segment and is replayed: a pour, else the heat. -/
def State.transient (s : State) (n : Nat) : Option Pour :=
  match s.pours.find? (fun p => p.ladle = n && p.stage = .faulted && !p.cancelled && s.replays p) with
  | some p => some p
  | none =>
    if s.heatReplays n then (Sp.get? s.heats n).map (fun h => heatPour n h (s.rd .heatSection n) (h.stopCode.getD 0)) else none

/-- TRANSIENT_FAULT (R809, R812, R814): dispatch of the ladle stops and the pours since the riser point are cancelled. -/
def execTransientFault (n : Nat) (s : State) : Host.Outcome State Fault Refusal :=
  done (match s.transient n with
    | none => s
    | some p =>
      if s.bit .replaying n || s.bit .resetBusy (ladleFlask n) then s else
      let s1 := ((s.setBit .replaying n).wr .riserLastCode n p.code).onLadle n (fun r =>
        { r with replay := some p, replayWaiting := false, card := none, record := none, waits := [] })
      s1.cancelPours (fun q => q.ladle = n))

/-- The pieces of the output of a pour that it has not written: first byte in memory, offset in a buffer, and bytes. An array pour has written the
tiles of its drained passes, but those that it holds; a move or a FILL what its finished transfers and the pieces before those it holds
brought; DECODE and CROP the boxes before the one under way, NMS all or nothing, and a collective the chunks landed. The rows that a GATHER and the
pixels that a PASTE has not written stay as they were (R434; log entry 57). -/
def Pour.restOut (p : Pour) : List (Nat × Nat × Nat) :=
  let d := p.dOut
  let size := if d.src = srcBuffer then d.tb else d.mb
  let more {α : Type} (from_ n : Nat) (f : Nat → α) : List α := (List.range (n - from_)).map (fun i => f (from_ + i))
  let written (pieces : Nat) : Nat := if p.held.isEmpty then 0 else pieces - p.held.length
  let piece (w : Nat × Nat) (len : Nat) : Nat × Nat × Nat := (w.1, w.2, len)
  match p.opcode with
  | 6 =>
    if p.moveMode = 0 then more (p.progress + written (moveTilesMode.pieces p p.progress)) p.moveTiles (fun i => piece (p.tilePlace i) size)
    else if p.moveMode = 1 then more p.progress p.visitParts.length (fun i => piece (p.visitPlace i) (p.visitPart i).2)
    else (more p.progress (moveRegroupMode.count p) (fun i =>
      more (if i = p.progress then written p.rowTiles else 0) p.rowTiles (fun k => piece (p.rowPlace i k) size))).flatten
  | 7 => more p.progress p.fillParts.length (fun i => piece (p.fillPlace i) (64 * (p.fillPart i).2))
  | 0xA =>
    let blk := (p.parts[0]?).getD []
    let each (n : Nat) : List (Nat × Nat × Nat) := more p.progress p.n (fun i => (d.addr + n * i, 0, n))
    if p.subop = 1 then each 32 else if p.subop = 3 then each ((imagesOf blk).cropBytes d.elem)
    else if p.subop = 2 && p.progress = 0 then p.memoryOut.map (fun r => (r.1, 0, r.2)) else []
  | 0xB => p.empties.map (fun r => (r.1, 0, r.2))
  | 8 => []
  | _ =>
    let nr := ceilDiv p.nMax 32
    let tile (q : Pass) : Nat × Nat × Nat := (d.tileAddr nr (q.row0 / 32) (p.outCol q), d.tileOff nr (q.row0 / 32) (p.outCol q), size)
    (((passesOf p.tileShape).drop p.progress).filter (fun q => decide (q.row0 < p.m) && decide (q.col0 < p.n))).map tile
      ++ p.held.map (fun e => (0, e.2.headD 0, size))

/-- What a pour cancelled for a replay had not written becomes undefined (R553), and what it had written stands (R816). -/
def State.undefineRest (s : State) (p : Pour) : State :=
  let d := p.dOut
  if !p.writes || (p.isArray && p.noOut) then s else
  p.restOut.foldl (fun (s : State) w =>
    if decide (p.opcode < 8) && d.src = srcBuffer then
      (if p.isArray then [p.array] else meshSegment d.addr).foldl (fun (s : State) a => s.forgetStore a d.bufSel w.2.1 w.2.2) s
    else if decide (p.opcode < 8) && (d.src ≠ srcMemory || d.remote) then s
    else s.forgetMem w.1 w.2.2) s

/-- A pour of a heat has failed for good: the heat stops with the code, and its own record has the DETAIL of the pour's (R823). -/
def State.stopHeatWith (s : State) (n code detail : Nat) : State :=
  let s1 : State := match Sp.get? s.heats n with
    | some h => if h.stopCode.isNone then { s with heats := Sp.put s.heats n { h with readFault := some (code, [], detail) } } else s
    | none => s
  s1.stopHeat n code

/-- The segment has failed for good: the record and the contrail entry, and the ladle stops (R811, R812, R820, R822, R823). -/
def State.replayFails (s : State) (n : Nat) (p : Pour) (attempt : Nat) : State :=
  let detail := p.code + (attempt <<< 16)
  let s1 := (((s.clr .replaying n).count .replaysFailed 0).contrailAdd 0x05 p.flask cReplayFailed (leBytes n 4 ++ leBytes detail 4)).onLadle n
    (fun r => { r with replay := none, replayWaiting := false, skipFlips := [] })
  if p.opcode = 0xC0 then
    match Sp.get? s1.heats n, p.heat with
    | some h, some hp => s1.endHeat n h.index cReplayFailed hp.pass hp.sec (cardTag h.card) detail
    | _, _ => s1
  else
    let s2 := (s1.complete (p.record cReplayFailed detail)).stopLadle n cReplayFailed p.tag
    if p.heat.isSome then s2.stopHeatWith n cReplayFailed detail else s2.noteEnded n p.index

/-- REPLAY_CANCEL_DONE (R812, R816, R821 to R823): the cancelled pours have stopped, their writes on the way answered; the third failure of the
segment stops the ladle, and an earlier one raises ATTEMPT and is reported. -/
def execReplayCancelDone (n : Nat) (s : State) : Host.Outcome State Fault Refusal :=
  done (match (s.ladle n).replay with
    | none => s
    | some p =>
      if !s.bit .replaying n || (s.ladle n).replayWaiting || s.cancelFlies n then s else
      let s1 := s.dropCancelled n State.undefineRest
      let attempt := s1.rd .riserAttempt n
      if attempt = 2 then s1.replayFails n p 2
      else
        let hp : HeatPos := p.heat.getD { pass := 0, sec := 0, prog := 0 }
        let arg1 := attempt + 1 + (p.tag <<< 16)
        let mark := jField (s1.readJournal n).1 0 4
        let s2 := ((s1.wr .riserAttempt n (attempt + 1)).count .replays 0).event
          { event := 0x06, ladle := n, tag := p.tag, pass := p.heat.map (·.pass), arg0 := mark, arg1 := arg1, arg2 := hp.prog, code := p.code }
        (s2.contrailAdd 0x04 p.flask p.code (leBytes n 4 ++ leBytes mark 4 ++ leBytes arg1 4 ++ leBytes hp.prog 4)).onLadle n
          (fun r => { r with replayWaiting := true }))

/-- The condition that the replay of a fault waits for (R809); the descriptor of a COLL pour is the one that it was accepted with, or else the one of
its entry. -/
def State.replayCondition (s : State) (p : Pour) : Bool :=
  let armed := s.usedEntries.any (fun e => s.rd .entKind e = kCollPhase && s.rd .entState e = eArmed && s.rd .entFlask e = p.flask
    && bits (s.rd .entArg e) 0 16 = p.param 16 16 && bits (s.rd .entArg e) 16 16 = p.param 32 16)
  if p.code = cLinkLost then
    (if p.opcode = 0xB then
      (match p.parts[0]?.or ((s.collEntry p).map (fun e => (s.entry e).desc)) with
        | some d => (descPlanes d).all (fun k => !(s.upPorts (some k)).isEmpty)
        | none => !(s.upPorts none).isEmpty)
     else !(s.upPorts none).isEmpty)
  else if p.code = cSealMismatch then decide ((p.aux[0]?).getD 0 ≤ s.now)
  else if p.code = cCollDeferLimit || p.code = cCollAbandoned then armed
  else if p.code = cThermalStop then (List.range 16).all (fun k => s.rd .stackClass k ≠ 2)
  else true

/-- Restore the masked semaphores, PASS_SEM and the watch slots of an entry (R804, R807, R812). -/
def State.restoreValues (s : State) (n : Nat) (j : List Byte) : State :=
  let f := ladleFlask n
  let mask := jField j 0x28 8
  let s1 := (bitList mask 64).foldl (fun (s : State) i => s.semSet f i (jField j (0x80 + 4 * i) 4)) s
  let s2 := match (s.ladle n).riserHeat with
    | some h => s1.semSet f (cardF h.card 0x18 12 6) (jField j 0x20 4)
    | none => s1
  let w := jField j 0x24 4
  let base := s.rd .watchBase f + bits w 0 12
  (List.range (bits w 12 9)).foldl (fun (s : State) i =>
    let last := jField j (0x284 + 8 * i) 4
    ((s.wr .watchAvg (base + i) (jField j (0x280 + 8 * i) 4)).wr .watchLast (base + i) (last % 2 ^ 31)).wr .watchSeeded (base + i) (last / 2 ^ 31)) s2

/-- Put the heat and HEAD of a ladle back where the entry has them (R812, R817). -/
def State.restorePlace (s : State) (n : Nat) (j : List Byte) : State :=
  let gone : State := ({ s with heats := Sp.del s.heats n }).clr .heatStopPending n
  match (s.ladle n).riserHeat with
  | some h =>
    let storms := (Sp.get? s.heats n).elim h.storms (·.storms)
    ((({ gone with heats := Sp.put s.heats n { h with storms := storms } }).wr .heatPass n h.pass).wr .ladleHead n (h.index + 2))
  | none => gone.wr .ladleHead n (jField j 0 4 + 1)

/-- REPLAY_CONDITION_MET (R379, R809, R812): the entry is restored, held banks of the ladle's flask are released and its arrays' plane slots marked
empty, and dispatch resumes. -/
def execReplayConditionMet (n : Nat) (s : State) : Host.Outcome State Fault Refusal :=
  done (match (s.ladle n).replay with
    | none => s
    | some p =>
      if !s.bit .replaying n || !(s.ladle n).replayWaiting || !s.replayCondition p then s else
      let r := s.readJournal n
      let s1 := (r.2.restoreValues n r.1).restorePlace n r.1
      let f := ladleFlask n
      let s2 : State := { s1 with arrays := s1.arrays.map (fun e =>
        if s1.bit .arrayOwned e.1 && s1.rd .arrayOwnerFlask e.1 = f then
          (e.1, { e.2 with planes := [], held := if e.2.heldBy = n then none else e.2.held })
        else e) }
      let s3 := s2.clr .replaying n
      (if s2.rd .ladleState n = ladleStopped then s3.wr .ladleState n ladleActive else s3).onLadle n
        (fun x => { x with replay := none, replayWaiting := false, skipFlips := x.flips }))

/-- REPLAY_WAIT_TIMEOUT (R811): the wait has lasted longer than WAIT_LIMIT. -/
def execReplayWaitTimeout (n : Nat) (s : State) : Host.Outcome State Fault Refusal :=
  done (match (s.ladle n).replay with
    | none => s
    | some p =>
      if !s.bit .replaying n || !(s.ladle n).replayWaiting || s.replayCondition p then s
      else s.replayFails n p (s.rd .riserAttempt n))

end Sys2Proof.Machine
end

