-- ==== Sys2Proof/Machine/Ends.lean ====
section
/-!
DEFINITION. The dispatcher families NOP, WAIT, SIGNAL and FENCE, the landing of operands, and the ends of pours: completion, fault and
datapath parity (R44, R67, R68, R144, R163, R164, R179, R186, R191 to R195, R199 to R203, R231, R543, R1071).
-/
namespace Sys2Proof.Machine

/-! ### Dispatcher pours -/

/-- A dispatcher pour of an opcode and SUBOP ends OK once it may start and a condition holds. -/
def State.dispatcherEnds (s : State) (id op sub : Nat) (cond : Pour → Bool) : State :=
  match s.pour? id with
  | none => s
  | some p => if p.opcode = op && p.subop = sub && s.starts p && cond p then s.endOk p else s

/-- NOP (R144): its waits, signal and completion record. SUBOP is not read. -/
def execNop (id : Nat) (s : State) : Host.Outcome State Fault Refusal :=
  done (match s.pour? id with
    | none => s
    | some p => if p.opcode = 0 && s.starts p then s.endOk p else s)

/-- WAIT (R191). -/
def execWait (id : Nat) (s : State) : Host.Outcome State Fault Refusal :=
  done (s.dispatcherEnds id 0xC 0 (fun _ => true))

/-- SIGNAL with SUBOP 0x00 (R192). -/
def execSignal (id : Nat) (s : State) : Host.Outcome State Fault Refusal :=
  done (s.dispatcherEnds id 0xD 0 (fun _ => true))

/-- SIGNAL with SUBOP 0x01 (R192): after every earlier pour of its ladle. It holds its ladle as a FENCE does (log entry 58). -/
def execSignalAfterComplete (id : Nat) (s : State) : Host.Outcome State Fault Refusal :=
  done (s.dispatcherEnds id 0xD 1 s.fenceDrained)

/-- FENCE with SUBOP 0x00 (R193, R1078). -/
def execFence (id : Nat) (s : State) : Host.Outcome State Fault Refusal :=
  done (s.dispatcherEnds id 0xE 0 s.fenceDrained)

/-- FENCE with SUBOP 0x01 (R194, R1078): every pour that a ladle of the flask dispatched before it has ended, those of the other sections of its own
heat apart; one that faulted counts from POUR_FAULT on (log entry 58). -/
def execFenceFlask (id : Nat) (s : State) : Host.Outcome State Fault Refusal :=
  done (s.dispatcherEnds id 0xE 1 (fun p => !s.pours.any (fun q => q.flask = p.flask && decide (q.id < p.id) && !otherSection p q)))

/-! ### Operands -/

/-- OPERANDS_LANDED (R47, R163, R164): the operands of a loading pour have come over the mesh and are loaded from memory, once no running pour reads
where they land, and its passes run. -/
def execOperandsLanded (id : Nat) (s : State) : Host.Outcome State Fault Refusal :=
  done (match s.pour? id with
    | none => s
    | some p =>
      if p.stage ≠ .loading || p.cancelled || !p.isArray || !p.meshComplete || !s.banksFree p || s.loadsHeld p then s
      else if p.opcode = 1 then s.loadThen p State.mmRun
      else if p.opcode = 2 then s.loadThen p State.mmcStart
      else if p.opcode = 3 then s.windowThen p State.convRun
      else if p.opcode = 4 then s.windowThen p State.dwRun
      else s.loadThen p State.rowRun)

/-! ### Ends -/

/-- A pour has run, and every write of it has been accepted (R179, R1071). -/
def State.written (s : State) (p : Pour) : Bool :=
  p.stage = .ran && !p.cancelled && !s.tc2.any (fun q => q.pour = some p.id) && (!p.isArray || !s.sending p)

/-- Every write of a pour has been accepted and its slot has evaluated it (R179, R303, R1071). -/
def State.accepted (s : State) (p : Pour) : Bool := s.written p && (!p.watchEn || p.evaluated)

/-- A slot may not evaluate a pour yet: another pour that it has evaluated has not completed, since the slot's evaluations come in the order of
completion; or it has evaluated one of a higher array in this a-cycle, since those of one a-cycle come in ascending array index (R304). -/
def State.slotBusy (s : State) (p : Pour) : Bool :=
  (Sp.get? s.time.evals (s.watchSlot p)).any (fun a => decide (p.array < a))
  || s.pours.any (fun q => q.id ≠ p.id && q.watchEn && q.evaluated && s.watchSlot q = s.watchSlot p && s.written q && !q.zeroSize)

/-- WATCH_EVALUATE (R202, R301, R303, R304): the slot of a pour that has run, and that no write can fault any more, evaluates it, once, before
it completes. -/
def execWatchEvaluate (id : Nat) (s : State) : Host.Outcome State Fault Refusal :=
  done (match s.pour? id with
    | none => s
    | some p =>
      if s.written p && p.watchEn && !p.evaluated && !s.slotBusy p then
        let t := (s.evaluate p).onPour id (fun q => { q with evaluated := true })
        { t with time := { t.time with evals := Sp.put t.time.evals (s.watchSlot p) p.array } }
      else s)

/-- A pour ends: the arrays that it needed may become unowned (R543), and a pour that stood because of it goes on (R47). -/
def State.freeArrays (s : State) (p : Pour) : State := p.needsArrays.foldl (fun (s : State) a => (s.unownIdle a).goOn a) s

/-- POUR_COMPLETE (R179, R186, R543, R1071). -/
def execPourComplete (id : Nat) (s : State) : Host.Outcome State Fault Refusal :=
  done (match s.pour? id with
    | none => s
    | some p =>
      if s.accepted p then ((s.noteLive p).endOk p).freeArrays p else s)

/-- POUR_FAULT (R199 to R203, R231): a faulted pour ends with its record once its writes on the way are answered, and its ladle or heat stops; a
fault that the part replays is left to TRANSIENT_FAULT (R809). -/
def execPourFault (id : Nat) (s : State) : Host.Outcome State Fault Refusal :=
  done (match s.pour? id with
    | none => s
    | some p =>
      if p.stage ≠ .faulted || p.cancelled || s.replays p || s.flies p then s
      else
        let onArray := p.unit ≠ .dispatcher
        let s0 := s.sendBreak p
        let s1 := if onArray then s0.noteLive p else s0
        let s2 := s1.endPour p p.code p.detail
        if onArray then s2.freeArrays p else s2)

/-- DATAPATH_PARITY (R44, R67, R68, R203): the pour in progress on the array faults, and the fault is counted. A pour whose last sub-tile has
been drained has no fault of the datapath any more (log entry 57). -/
def execDatapathParity (a : Nat) (router : Bool) (s : State) : Host.Outcome State Fault Refusal :=
  done (if !s.ready || decide (512 ≤ a) then s else
    let active := s.pours.find? (fun p => p.unit = .array a && !p.zeroSize && !p.cancelled && (p.stage = .loading || p.stage = .running))
    let s1 := match active with
      | some p => s.stopArray p { code := cDatapathParity }
      | none => s
    s1.arrayParity a router)

end Sys2Proof.Machine
end

