-- ==== Sys2Proof/Machine/Enumerate.lean ====
section
/-!
DEFINITION. The brick enumerator: a pattern descriptor expanded into visit lists (R321 to R340).
-/
namespace Sys2Proof.Machine

/-! ### The pattern descriptor (R330, R331) -/

/-- The header of a pattern descriptor. -/
structure Pattern where
  w : Nat
  h : Nat
  t : Nat
  rt : Nat
  rh : Nat
  rw_ : Nat
  causal : Bool
  seq : Bool
  globalQuery : Bool
  stackLog2 : Nat
  headTiles : Nat
  elemBytes : Nat
  kvHeads : Nat
  visitMax : Nat
  globals : Nat
  qFirst : Nat
  qLast : Nat
  areaFirst : Nat
  areaLast : Nat
  localBase : Nat
  globalBase : Nat
  listBase : Nat
  stride : Nat
  /-- Every reserved field is zero, and GLOBAL_COUNT is 0 under GLOBAL_256. -/
  clean : Bool
deriving DecidableEq, Repr

/-- The header from its 64 bytes. -/
def patternOf (l : List Byte) : Pattern :=
  let f (byte lo w : Nat) : Nat := bits (leNat ((l.drop byte).take 8)) lo w
  { w := f 0 0 16, h := f 0 16 16, t := f 0 32 32, rt := f 8 0 8, rh := f 8 8 8, rw_ := f 8 16 8, causal := f 8 24 1 = 1,
    seq := f 8 25 1 = 1, globalQuery := f 8 26 1 = 1, stackLog2 := f 8 27 3, headTiles := f 8 32 4, elemBytes := f 8 36 1,
    kvHeads := if f 8 40 7 = 0 then 64 else f 8 40 7, visitMax := f 8 48 8,
    globals := if f 0x10 63 1 = 1 then 256 else f 8 56 8,
    qFirst := f 0x10 0 22, qLast := f 0x10 32 22, areaFirst := f 0x18 0 22, areaLast := f 0x18 32 22,
    localBase := f 0x20 0 44, globalBase := f 0x28 0 44, listBase := f 0x30 0 44, stride := f 0x38 0 32,
    clean := f 8 30 2 = 0 && f 8 37 3 = 0 && f 8 47 1 = 0 && f 0x10 22 10 = 0 && f 0x10 54 9 = 0 && f 0x18 22 10 = 0
      && f 0x18 54 10 = 0 && f 0x20 44 20 = 0 && f 0x28 44 20 = 0 && f 0x30 44 20 = 0 && f 0x38 32 32 = 0
      && !(f 0x10 63 1 = 1 && f 8 56 8 ≠ 0) }

/-- Bricks along bt, bh and bw (R321, R324, R326). -/
def Pattern.bt (d : Pattern) : Nat := if d.seq then ceilDiv d.t 32 else ceilDiv d.t 2
def Pattern.bh (d : Pattern) : Nat := if d.seq then 1 else ceilDiv d.h 4
def Pattern.bw (d : Pattern) : Nat := if d.seq then 1 else ceilDiv d.w 4

/-- Bricks of the grid; each holds 32 tokens. -/
def Pattern.bricks (d : Pattern) : Nat := d.bt * d.bh * d.bw

/-- B of R328. -/
def Pattern.brickBytes (d : Pattern) : Nat := 1024 * d.headTiles * (d.elemBytes + 1)

/-- The header checks of R337. -/
def Pattern.ok (d : Pattern) : Bool :=
  d.clean && decide (32 * d.bricks ≤ 2 ^ 27)
    && decide (1 ≤ d.headTiles) && decide (d.headTiles ≤ 8) && decide (1 ≤ d.visitMax) && decide (d.visitMax ≤ 128)
    && decide (d.stackLog2 ≤ 4)
    && decide (d.qFirst ≤ d.qLast) && decide (d.qLast < d.bricks) && decide (d.areaFirst ≤ d.areaLast) && decide (d.areaLast < d.bricks)
    && d.stride % 64 = 0 && decide (2 * d.kvHeads * d.brickBytes ≤ d.stride)
    && !(d.seq && (d.h ≠ 1 || d.w ≠ 1 || d.rh ≠ 0 || d.rw_ ≠ 0))
    && !(d.globalQuery && d.stackLog2 ≠ 0)

/-- A global entry (R331). -/
structure GlobalEntry where
  valid : Nat
  first : Nat
  last : Nat
deriving DecidableEq, Repr

def globalOf (x : Nat) : GlobalEntry := { valid := bits x 0 32, first := bits x 32 15, last := bits x 47 15 }

/-- The checks of a global entry (R337). -/
def globalOk (x : Nat) : Bool := bits x 62 2 = 0 && decide ((globalOf x).first ≤ (globalOf x).last)

/-! ### Lists (R332 to R336) -/

/-- A visit before it is written: record address, KEY_MASK, DIAG, brick, GLOBAL. -/
structure Visit where
  addr : Nat
  mask : Nat
  diag : Bool
  brick : Nat
  isGlobal : Bool
deriving DecidableEq, Repr

/-- The padding mask of a brick (R323, R325, R326). -/
def Pattern.padding (d : Pattern) (bt bh bw : Nat) : Nat :=
  bitMask ((List.range 32).filter (fun i =>
    if d.seq then decide (d.t ≤ 32 * bt + i)
    else decide (d.t ≤ 2 * bt + i / 16) || decide (d.h ≤ 4 * bh + i / 4 % 4) || decide (d.w ≤ 4 * bw + i % 4)))

/-- The bricks from `c` − radius to `hi` that lie in a padded extent. -/
def windowRange (c radius hi extent : Nat) : List Nat :=
  let lo := c - radius
  (List.range (min hi (extent - 1) + 1 - lo)).map (· + lo)

/-- A visit of a global brick. -/
def Pattern.globalVisit (d : Pattern) (g valid : Nat) : Visit :=
  { addr := d.globalBase + g * d.stride, mask := 2 ^ 32 - 1 - valid, diag := false, brick := g, isGlobal := true }

/-- The visits of grid query brick q in order, `none` where a window brick leaves the local area (R332). -/
def Pattern.gridVisits (d : Pattern) (gl : List GlobalEntry) (q : Nat) : List (Option Visit) :=
  let qt := q / (d.bh * d.bw)
  let qh := q / d.bw % d.bh
  let qw := q % d.bw
  let globals := (gl.zipIdx.filter (fun e => e.1.valid ≠ 0 && decide (e.1.first ≤ qt) && decide (qt ≤ e.1.last))).map
    (fun e => some (d.globalVisit e.2 e.1.valid))
  let cells := ((windowRange qt d.rt (if d.causal then qt else qt + d.rt) d.bt).map (fun bt =>
    ((windowRange qh d.rh (qh + d.rh) d.bh).map (fun bh =>
      (windowRange qw d.rw_ (qw + d.rw_) d.bw).map (fun bw => (bt, bh, bw)))).flatten)).flatten
  globals ++ cells.filterMap (fun c =>
    let mask := d.padding c.1 c.2.1 c.2.2
    let b := (c.1 * d.bh + c.2.1) * d.bw + c.2.2
    if mask = 2 ^ 32 - 1 then none
    else if b < d.areaFirst || decide (d.areaLast < b) then some none
    else some (some { addr := d.localBase + (b - d.areaFirst) * d.stride, mask := mask, diag := d.causal && c.1 = qt,
                      brick := b, isGlobal := false }))

/-- The visits of the list of global brick g (R333). -/
def Pattern.globalVisits (d : Pattern) (gl : List GlobalEntry) (g : Nat) : List (Option Visit) :=
  let me := (gl[g]?).getD { valid := 0, first := 0, last := 0 }
  (gl.zipIdx.filter (fun e => e.1.valid ≠ 0 && decide (e.1.first ≤ me.last) && decide (me.first ≤ e.1.last))).map
    (fun e => some (d.globalVisit e.2 e.1.valid))

/-- The 32 bytes of an entry (R335, R336); `j` is the stacked block. -/
def Pattern.entry (d : Pattern) (j : Nat) : Option Visit → List Byte
  | none => leBytes (32 * d.headTiles <<< 32) 8 ++ List.replicate 24 0
  | some v =>
    leBytes (32 + (32 <<< 16) + (32 * d.headTiles <<< 32)) 8
    ++ leBytes (v.mask + ((if v.diag then 1 else 0) <<< 32) + ((j * 32 / 2 ^ d.stackLog2) <<< 33) + (d.stackLog2 <<< 38)
        + ((if d.seq then 1 else 0) <<< 41)) 8
    ++ leBytes (v.addr % 2 ^ 44) 8 ++ leBytes (v.brick + ((if v.isGlobal then 1 else 0) <<< 22) + (1 <<< 23)) 8

/-- The steps of one list: an entry to write, or the code of a failure. -/
def Pattern.steps (d : Pattern) (vs : List (Option Visit)) : List (Except Nat (Option Visit)) :=
  let shown := (vs.take d.visitMax).map (fun v =>
    match v with
    | some x => Except.ok (some x)
    | none => Except.error cSegmentFault)
  let beyond : List (Except Nat (Option Visit)) :=
    match vs[d.visitMax]? with
    | some (some _) => [Except.error cShapeOverflow]
    | some none => [Except.error cSegmentFault]
    | none => []
  shown ++ beyond ++ List.replicate (d.visitMax - vs.length) (Except.ok none)

/-- Who the enumerator reads and writes for; ERR_LOG has no code of its own for it (log entry 33). -/
def enumWho (f : Nat) : Who := { rq := rqPattern, flask := f }

/-- Write the entries of list `num` from entry `v` on; the code of the failure, or 0 (R338, R340). -/
def State.writeList (f : Nat) (d : Pattern) (num j : Nat) : List (Except Nat (Option Visit)) → Nat → State → Nat × State
  | [], _, s => (0, s)
  | .error c :: _, _, s => (c, s)
  | .ok e :: r, v, s =>
    let a := d.listBase + (num * d.visitMax + v) * 32
    if !s.allowed f a 32 .write then (cSegmentFault, s) else
    match s.putBytes (enumWho f) none (s.hintOf f a 32 0 .write) a (d.entry j e) [] with
    | .error c => (c, s)
    | .ok s1 => State.writeList f d num j r (v + 1) s1

/-- Write lists in order, from a number on, until one fails. -/
def State.writeLists (f : Nat) (d : Pattern) : List (Nat × List (Option Visit)) → Nat → State → State
  | [], num, s => { s with enumPos := num, enumCode := cOK }
  | (j, vs) :: r, num, s =>
    match State.writeList f d num j (d.steps vs) 0 s with
    | (0, s1) => State.writeLists f d r (num + 1) s1
    | (c, s1) => { s1 with enumPos := num, enumCode := c }

/-- Every list of a descriptor in the order of R334, with its stacked block. -/
def Pattern.lists (d : Pattern) (gl : List GlobalEntry) : List (Nat × List (Option Visit)) :=
  ((List.range (d.qLast - d.qFirst + 1)).map (fun i =>
    let vs := d.gridVisits gl (d.qFirst + i)
    (List.range (2 ^ d.stackLog2)).map (fun j => (j, vs)))).flatten
  ++ (if d.globalQuery then (List.range d.globals).map (fun g => (0, d.globalVisits gl g)) else [])

/-- ENUMERATE (R332 to R340): a flask has the enumerator expand the descriptor at an address. A descriptor in the neighbour tier is
read once its words have come. -/
def execEnumerate (flask addr : Nat) (s : State) : Host.Outcome State Fault Refusal :=
  let f := flask
  let fail (s : State) (c : Nat) : State := { s with enumPos := 0, enumCode := c }
  done (
    if !s.ready || decide (64 ≤ f) || !s.bit .flaskEnabled f || s.bit .resetBusy f then s
    else if !s.allowed f addr 64 .read then fail s cSegmentFault
    else
      match s.fetch (enumWho f) none [{ hint := s.hintOf f addr 64 0 .read, key := addr, len := 64 }] with
      | .wait s1 => s1
      | .fail c s1 => fail s1 c
      | .got rs s1 =>
        let r : RdRes := (rs[0]?).getD { bytes := [] }
        let d := patternOf r.bytes
        let n := 8 * d.globals
        if r.code ≠ 0 then fail s1 r.code
        else if !d.ok then fail s1 cFormatInvalid
        else if n ≠ 0 && !s1.allowed f (addr + 64) n .read then fail s1 cSegmentFault
        else
          match s1.fetch (enumWho f) none [{ hint := s1.hintOf f (addr + 64) n 0 .read, key := addr + 64, len := n }] with
          | .wait s2 => { s with tc2 := s2.tc2, tc2Next := s2.tc2Next, ports := s2.ports }
          | .fail c s2 => fail s2 c
          | .got gs s2 =>
            let g : RdRes := (gs[0]?).getD { bytes := [] }
            let ws := (chunks 8 d.globals g.bytes).map leNat
            if g.code ≠ 0 then fail s2 g.code
            else if !ws.all globalOk then fail s2 cFormatInvalid
            else State.writeLists f d (d.lists (ws.map globalOf)) 0 s2)

end Sys2Proof.Machine
end

