-- ==== Sys2Proof/Machine/Pattern.lean ====
section
/-!
DEFINITION. The pattern engine: GATHER and FLIP (R405 to R437).
-/
namespace Sys2Proof.Machine

/-! ### GATHER: its record, its table and its checks (R422 to R432) -/

/-- TABLE, POOL, PIN_EN and PIN_GEN (R422). -/
def Pour.table (p : Pour) : Nat := p.param 16 8
def Pour.pool (p : Pour) : Nat := p.param 24 3
def Pour.pinEn (p : Pour) : Bool := p.param 27 1 = 1
def Pour.pinGen (p : Pour) : Nat := p.param 28 16

/-- POOL codes. -/
def poolNone : Nat := 0
def poolSum : Nat := 1
def poolMean : Nat := 2
def poolWsum : Nat := 3
def poolMax : Nat := 4

/-- ROW_ELEMS, ROW_BYTES and ROWS of a table (R406, R407). -/
def State.rowElems (s : State) (t : Nat) : Nat := 32 * s.rd .tableRowElems32 t
def State.rowBytes (s : State) (t : Nat) : Nat := s.rowElems t * (elemBits (s.rd .tableFormat t) / 8)
def State.tableRows (s : State) (t : Nat) : Nat := s.rd .tableRowsM1 t + 1

/-- The base of a slot. -/
def State.slotAddr (s : State) (t slot : Nat) : Nat := s.rd (slotBase slot) t <<< 12

/-- The current slot of a table (R411). -/
def State.currentSlot (s : State) (t : Nat) : Nat := if s.rd .tableStateA t = slCurrent then 0 else 1

/-- The slot that a GATHER binds to: the current one, or the one of its pinned generation that has not retired (R412, R416). -/
def State.bindTo (s : State) (p : Pour) : Option Nat :=
  if p.pinEn then
    [0, 1].find? (fun slot => s.rd (slotState slot) p.table ≠ slRetired && s.rd (slotGen slot) p.table = p.pinGen)
  else some (s.currentSlot p.table)

/-- The format rules of a GATHER (R96, R296, R423 to R426, R429). -/
def State.gatherOk (s : State) (p : Pour) : Bool :=
  let o := p.dOut
  !p.watchEn && p.subop = 0 && p.tileShape = 0 && decide (p.pool ≤ 4) && p.dA.src = srcMemory
    && (p.pool = poolNone || p.dB.src = srcMemory)
    && o.src = srcMemory && decide (3 ≤ o.fmt) && decide (o.fmt ≤ 6) && powerScale o.outer
    && decide (p.kMax ≤ 2 ^ 24) && (p.pool ≠ poolNone || (p.mMax = p.kMax && p.m = p.k && o.fmt = s.rd .tableFormat p.table))
    && p.nMax = s.rowElems p.table

/-- The checks of a GATHER at its start, but for its slot: the code of the first that fails, or 0. -/
def State.checkGather (s : State) (p : Pour) : Nat :=
  if !s.bit .tableValid p.table then cFormatInvalid
  else if !s.gatherOk p then cFormatInvalid
  else if s.rd .tableOwner p.table ≠ p.flask then cSegmentFault
  else if p.overflows then cShapeOverflow
  else if p.n ≠ s.rowElems p.table then cFormatInvalid
  else cOK

/-! ### GATHER: its work (R425 to R429, R433, R434) -/

/-- Who the pattern engine reads and writes for. -/
def Pour.patternWho (p : Pour) : Who := { rq := rqPattern, flask := p.flask }

/-- 32-bit words of bytes. -/
def words32 (l : List Byte) : List Nat := (chunks 4 (l.length / 4) l).map leNat

/-- Bag offsets are legal (R427). -/
def offsetsOk (k : Nat) : Nat → List Nat → Bool
  | _, [] => true
  | lo, x :: r => decide (lo ≤ x) && decide (x ≤ k) && offsetsOk k x r

/-- The indices of bag b: from its offset to that of the next (R427); with POOL NONE its own. -/
def Pour.bagStart (p : Pour) (b : Nat) : Nat := if p.pool = poolNone then b else if b < p.m then p.words.getD b 0 else p.k

/-- One index as a bag reads it: nothing for a skip, else its weight and its row as a number. -/
abbrev BagItem := Option (Val × Nat)

/-- The code of element e of a row given as a number. -/
def rowCode (fmt row e : Nat) : Nat := bits row (e * elemBits fmt) (elemBits fmt)

/-- Element e of a bag, before conversion (R429). -/
def bagElem (pool fmt : Nat) (items : List BagItem) (e : Nat) : Val :=
  let rows := items.filterMap id
  let step (acc : Val) (x : Val × Nat) : Val :=
    let v := elemVal fmt (rowCode fmt x.2 e)
    if pool = poolWsum then fma x.1 v acc else if pool = poolMax then acc.max v else rnd (acc.add v)
  if rows.isEmpty then .zero
  else
    let acc := rows.foldl step (if pool = poolMax then .inf true else .zero)
    if pool = poolMean then divRnd acc (.ofNat rows.length) else acc

/-- A tile of bags as the destination holds it: pooled and converted, or with POOL NONE the copied codes. Lines beyond M are zero. -/
def Pour.bagTile (p : Pour) (fmt : Nat) (bags : List (List BagItem)) (c : Nat) : List Byte :=
  let o := p.dOut
  if p.pool = poolNone then
    packTile o.fmt false ((List.range 32).map (fun i => (List.range 32).map (fun j =>
      match ((bags[i]?).getD [])[0]? with
      | some (some x) => rowCode fmt x.2 (32 * c + j)
      | _ => 0))) []
  else
    (convertTile { o with stoch := false, block16 := false, colBlocks := false } 0
      ((List.range 32).map (fun i => (List.range 32).map (fun j =>
        match bags[i]? with
        | some items => bagElem p.pool fmt items (32 * c + j)
        | none => .zero)))).1

/-- Gather the bags of tile row r: its indices and weights, their rows, and the tiles of the row in order (R428, R429, R433). -/
def State.gatherRow (s : State) (p : Pour) (t slot r : Nat) : Part :=
  let lo := p.bagStart (32 * r)
  let last := min (32 * r + 32) p.m
  let hi := if p.pool = poolNone then last else p.bagStart last
  let n := hi - lo
  let read (s : State) (hint a len : Nat) : Span := { hint := s.hintOf p.flask a len hint .read, key := a, len := len }
  let qs := [read s p.dA.hint (p.dA.addr + 4 * lo) (4 * n)]
    ++ (if p.pool = poolWsum then [read s 0 (p.biasAddr + 4 * lo) (4 * n)] else [])
  match s.fetch p.patternWho (some p.id) qs with
  | .wait s1 => .wait s1 p
  | .fail code s1 => .fault { code := code } s1 p
  | .got rs s1 =>
    let idx := words32 (((rs[0]?).getD ({ bytes := [] } : RdRes)).bytes)
    let ws := fp32s n (((rs[1]?).getD ({ bytes := [] } : RdRes)).bytes)
    match loadStop qs rs with
    | some x => .fault x s1 p
    | none =>
      let used := idx.filter (· ≠ 0xFFFFFFFF)
      if used.any (fun i => decide (s.tableRows t ≤ i)) then .fault { code := cFormatInvalid } s1 p else
      let rowQs := used.map (fun i => read s1 0 (s.slotAddr t slot + i * s.rowBytes t) (s.rowBytes t))
      match s1.fetch p.patternWho (some p.id) rowQs with
      | .wait s2 => .wait { s with tc2 := s2.tc2, tc2Next := s2.tc2Next, ports := s2.ports } p
      | .fail code s2 => .fault { code := code } s2 p
      | .got rows s2 =>
        match loadStop rowQs rows with
        | some x => .fault x s2 p
        | none =>
          -- the rows in the order of the indices, skips among them
          let nums := rows.map (fun x => leNat x.bytes)
          let items : List BagItem := (idx.zipIdx.foldl (fun (acc : List BagItem × List Nat) e =>
            if e.1 = 0xFFFFFFFF then (acc.1 ++ [none], acc.2)
            else (acc.1 ++ [some ((ws[e.2]?).getD .zero, acc.2.headD 0)], acc.2.tail)) ([], nums)).1
          let bags := (List.range (last - 32 * r)).map (fun i =>
            let b := 32 * r + i
            let a := p.bagStart b
            let z := if p.pool = poolNone then b + 1 else p.bagStart (b + 1)
            (items.drop (a - lo)).take (z - a))
          let o := p.dOut
          let nr := ceilDiv p.nMax 32
          -- a tile that is refused ends the row; those accepted before it stand (R434, R962)
          let wr := (List.range nr).foldl (fun (acc : State × Nat) c =>
            if acc.2 ≠ 0 then acc else
            let a := o.tileAddr nr r c
            match acc.1.putBytes p.patternWho (some p.id) (s.hintOf p.flask a o.tb o.hint .write) a (p.bagTile (s.rd .tableFormat t) bags c) [] with
            | .error code => (acc.1, code)
            | .ok s3 => (s3, 0)) (s2, 0)
          if wr.2 ≠ 0 then .fault { code := wr.2 } wr.1 p else .next wr.1 p

/-- A running GATHER has met a fault: it is kept with the pour until GATHER_END (R412, R434). -/
def State.failGather (s : State) (id : Nat) (x : Stop) : State :=
  s.onPour id (fun q => { q with code := x.code, detail := x.detail, failed := x.failed })

/-- Tile rows of a running GATHER from its progress on. A row follows once every write of the one before it has been accepted, so that no row
stands after one that was refused (R433, R434). -/
def State.gatherRows (s : State) (p : Pour) (t slot : Nat) : Nat → Nat → State
  | 0, i => s.onPour p.id (fun q => { q with progress := i })
  | n + 1, i =>
    if s.tc2.any (fun q => q.pour = some p.id && q.op = 0x82) then s.onPour p.id (fun q => { q with progress := i }) else
    match s.gatherRow p t slot i with
    | .next s1 _ => State.gatherRows s1 p t slot n (i + 1)
    | .wait s1 _ => s1.onPour p.id (fun q => { q with progress := i })
    | .fault x s1 _ => s1.failGather p.id x

/-- Go on with a bound GATHER: its offsets first, every one of them before any output (R427), then its tile rows in ascending order. -/
def State.gatherGo (s : State) (p : Pour) (t slot : Nat) : State :=
  let rows (s : State) (p : Pour) : State := s.gatherRows p t slot (ceilDiv p.m 32 - p.progress) p.progress
  if p.code ≠ 0 then s
  else if !p.parts.isEmpty then rows s p
  else if p.pool = poolNone then
    rows (s.onPour p.id (fun q => { q with parts := [[]] })) p
  else
    let q : Span := { hint := s.hintOf p.flask p.dB.addr (4 * p.m) p.dB.hint .read, key := p.dB.addr, len := 4 * p.m }
    match s.fetch p.patternWho (some p.id) [q] with
    | .wait s1 => s1
    | .fail code s1 => s1.failGather p.id { code := code }
    | .got rs s1 =>
      match loadStop [q] rs with
      | some x => s1.failGather p.id x
      | none =>
        let off := words32 (((rs[0]?).getD ({ bytes := [] } : RdRes)).bytes)
        if off.headD 0 ≠ 0 || !offsetsOk p.k 0 off then s1.failGather p.id { code := cFormatInvalid }
        else rows (s1.onPour p.id (fun q => { q with parts := [[]], words := off })) { p with words := off }

/-- The GATHERs that the engine runs (R436). -/
def State.gathers (s : State) : Nat := (s.unitPours .pattern).countP (fun q => q.stage = .running)

/-- GATHER (R156, R162, R412, R416, R427 to R434): the engine starts it, binding it to a slot, or goes on with it once words of another part
have come. One without bags is checked in full and ends. -/
def execGather (id : Nat) (s : State) : Host.Outcome State Fault Refusal :=
  done (match s.pour? id with
    | none => s
    | some p =>
      if p.opcode ≠ 8 || p.cancelled || p.unit ≠ .pattern then s
      else if p.stage = .running then
        (match p.aux with
          | [t, slot] => s.gatherGo p t slot
          | _ => s)
      else if !s.starts p || decide (16 ≤ s.gathers) then s
      else
        let t := p.table
        let c := s.checkGather p
        if c ≠ 0 then s.faultPour p c 0
        else
          match s.bindTo p with
          | none => s.faultPour p cTableVersionRetired 0
          | some slot =>
            if !(s.asPour id).allowed p.flask (s.slotAddr t slot) (s.tableRows t * s.rowBytes t) .read then s.faultPour p cSegmentFault 0
            else if p.m = 0 then s.onPour id (fun q => { q with stage := .ran, evaluated := true })
            else
              let s1 := s.wr (slotInflight slot) t (s.rd (slotInflight slot) t + 1)
              let p1 : Pour := { p with stage := .running, begun := true, aux := [t, slot] }
              (s1.onPour id (fun _ => p1)).gatherGo p1 t slot)

/-- GATHER_END (R412, R414, R415): a GATHER that has written its last tile row, or met a fault, leaves its slot. -/
def execGatherEnd (id : Nat) (s : State) : Host.Outcome State Fault Refusal :=
  done (match s.pour? id with
    | none => s
    | some p =>
      let beyond := p.code ≠ 0 || (!p.parts.isEmpty && p.progress = ceilDiv p.m 32)
      if p.opcode ≠ 8 || p.cancelled || p.stage ≠ .running || !beyond || s.tc2.any (fun q => q.pour = some id) then s
      else
        match p.aux with
        | [t, slot] =>
          (s.unbindSlot t slot).onPour id (fun q => { q with stage := if q.code = 0 then .ran else .faulted, evaluated := true })
        | _ => s)

/-! ### FLIP (R413, R420, R423, R430) -/

/-- FLIP (R413): it has held its ladle as a FENCE, and now enters the queue of the pattern engine. -/
def execFlip (id : Nat) (s : State) : Host.Outcome State Fault Refusal :=
  done (match s.pour? id with
    | none => s
    | some p =>
      if p.opcode = 9 && p.unit = .dispatcher && p.stage = .queued && !p.cancelled && s.fenceDrained p && s.queueRoom .pattern then
        { s with pours := s.pours.filter (fun q => q.id ≠ id) ++ [{ p with unit := .pattern }] }
      else s)

/-- The source of a pour: 3 for its ladle, else the section of its heat. -/
def Pour.source (p : Pour) : Nat := (p.heat.map (·.sec)).getD 3

/-- The other slot becomes current with the next generation, and the old one retiring (R413, R414). -/
def State.switchTable (s : State) (t : Nat) : State :=
  let old := s.currentSlot t
  let new := 1 - old
  let gen := s.rd (slotGen old) t
  let s1 := ((s.wr (slotState new) t slCurrent).wr (slotGen new) t (if gen = 0xFFFF then 1 else gen + 1)).wr (slotState old) t slRetiring
  s1.retireSlot t old

/-- FLIP_SWITCH (R413, R420): at the head of the queue, the other slot has retired; the FLIP completes at the switch. One that a failed
attempt of the segment completed, known by its record, switches nothing. -/
def execFlipSwitch (id : Nat) (s : State) : Host.Outcome State Fault Refusal :=
  done (match s.pour? id with
    | none => s
    | some p =>
      let t := p.table
      let src := p.source
      if p.opcode ≠ 9 || p.unit ≠ .pattern || !s.starts p then s
      else if p.watchEn || p.subop ≠ 0 || p.tileShape ≠ 0 then s.faultPour p cFormatInvalid 0
      else if p.index ∈ Sp.getD (s.ladle p.ladle).skipFlips src [] then
        (s.onLadle p.ladle (fun r => { r with skipFlips := Sp.modify r.skipFlips src [] (List.erase · p.index) })).endOk p
      else if !s.bit .tableValid t then s.faultPour p cFormatInvalid 0
      else if s.rd .tableOwner t ≠ p.flask then s.faultPour p cSegmentFault 0
      else if p.overflows then s.faultPour p cShapeOverflow 0
      else if s.rd (slotState (1 - s.currentSlot t)) t ≠ slRetired then s
      else
        ((s.switchTable t).onLadle p.ladle (fun r => { r with flips := Sp.modify r.flips src [] (p.index :: ·) })).endOk p)

end Sys2Proof.Machine
end

