-- ==== Sys2Proof/Machine/Scrub.lean ====
section
/-!
DEFINITION. Patrol scrub and the end of a loan (R623, R624, R649 to R655).
-/
namespace Sys2Proof.Machine

/-! ### The pages of a stack and of its base die -/

/-- The areas of the stack tier in ascending order: first byte, pages of each stack, and the stacks (R568, R570). -/
def State.stackAreas (s : State) : List (Nat × Nat × List Nat) :=
  (0, (s.stackGiB - s.rd .pinReserve) <<< 18, List.range 16)
    :: (s.pinWindows.map (fun w => (w.1, (w.2.1 / w.2.2.length) >>> 12, w.2.2)))

/-- The local address of the n-th page, counted from `first` on, that an area lays in a stack: of each 32 pages a stack, those of it in
ascending order. -/
def State.areaPage (s : State) (first wide stack n : Nat) : Nat :=
  let block := first + n / 32 * 32 * wide * 4096
  ((((List.range (32 * wide)).map (fun i => block + 4096 * i)).filter (fun a => s.channelOf a / 64 = stack))[n % 32]?).getD block

/-- The local address of page `n` of a stack, its pages numbered by ascending local address (log entry 32); `none` beyond its end. -/
def State.stackPage (s : State) (stack n : Nat) : Option Nat :=
  (s.stackAreas.foldl
    (fun (acc : Option Nat × Nat) w =>
      match acc with
      | (some a, k) => (some a, k)
      | (none, k) =>
        if stack ∉ w.2.2 then (none, k)
        else if k < w.2.1 then (some (s.areaPage w.1 w.2.2.length stack k), k)
        else (none, k - w.2.1)) (none, n)).1

/-- The pages of a stack. -/
def State.stackPages (s : State) : Nat := s.stackGiB <<< 18

/-- Fast-tier granules of a base die (R565), as local addresses: the n-th in ascending order. -/
def State.fastGranule (s : State) (die n : Nat) : Nat :=
  0x080000000000 +
    (if s.bit .fastInterleave then (die / 4) * (s.fastBytes / 4) + (4 * n + die % 4) * 2048 else (16 * n + die) * 2048)

/-- A page is one that scrub visits (R650): a valid segment covers it, or its GiB of the stack tier is LENT. -/
def State.scrubbed (s : State) (page : Nat) : Bool :=
  (csrRow s.csr .segValid).any (fun e =>
    e.2.toNat = 1 && decide (s.rd .segBase e.1 ≤ page) && decide (page + 4096 ≤ s.rd .segLimit e.1 + 1))
  || (tierOf page = 0 && s.bit .lent (page >>> 30))

/-- Read the words of a visited range: corrected ones are written back, the others counted and logged (R651). -/
def State.scrubRead (s : State) (a len : Nat) : State :=
  if s.scrubbed (a / 4096 * 4096) then (s.readRequest { rq := rqScrub } (a / 8) (len / 8)).2 else s

/-- The next 4 KiB of the SRAM of a base die, two granules of the fast tier (R649). Lines that the memory-side cache holds are read with
their stack pages (log entry 32). -/
def State.scrubSram (s : State) (die : Nat) : State :=
  let pages := s.fastBytes / 16 / 4096
  if pages = 0 then s else
  let n := Sp.getD s.sramPos die 0
  let s1 := [2 * n, 2 * n + 1].foldl (fun (s : State) g => s.scrubRead (s.fastGranule die g) 2048) s
  { s1 with sramPos := Sp.put s1.sramPos die ((n + 1) % pages) }

/-- SCRUB_PAGE (R649 to R655): one page of a stack and of its base die's SRAM. A page that no segment and no loan covers is passed
over. -/
def execScrubPage (stack : Nat) (s : State) : Host.Outcome State Fault Refusal :=
  done (
    if !s.scrubOpen.any (fun e => e.2.testBit stack) || decide (16 ≤ stack) then s
    else if s.rd .stackClass stack ≠ 0 then s.setBit .scrubSkipped
    else
      let n := s.rd .scrubPos stack
      let s1 := match s.stackPage stack n with
        | some a => s.scrubRead a 4096
        | none => s
      let s2 := if n + 1 < s.stackPages then s1.wr .scrubPos stack (n + 1)
        else (s1.wr .scrubPos stack 0).wr .scrubPasses stack (s1.rd .scrubPasses stack + 1)
      s2.scrubSram stack)

/-! ### Loans -/

/-- The words of a range become undefined. -/
def Store.forgetRange (st : Store) (a len : Nat) : Store :=
  { st with cells := st.cells.filter (fun e => decide (e.1 < a) || decide (a + len ≤ e.1)),
            marks := st.marks.filter (fun e => decide (8 * e.1 < a) || decide (a + len ≤ 8 * e.1)) }

/-- A lent GiB is served no longer: its deadline of D + 20 µs has passed (R623). -/
def State.loanOver (s : State) (g : Nat) : Bool :=
  match Sp.get? s.loanEnds g with
  | some d => decide (d + 20000 ≤ s.now)
  | none => false

/-- LOAN_DEADLINE (R623, R624, R859): the GiB is the lender's again, with undefined values, and BAY of HOST_INT_CAUSE sets. -/
def execLoanDeadline (g : Nat) (s : State) : Host.Outcome State Fault Refusal :=
  done (
    if s.bit .lent g && s.loanOver g then
      ({ (s.clr .lent g) with loanEnds := Sp.del s.loanEnds g, mem := s.mem.forgetRange (g <<< 30) (2 ^ 30) }).cause causeBay
    else s)

end Sys2Proof.Machine
end

