-- ==== Sys2Proof/Machine/Tc2.lean ====
section
/-!
DEFINITION. Reads and writes over TC2: the requests that the part serves and the responses that it takes (R596, R617 to R624, R694 to R703,
R710, R1070).
-/
namespace Sys2Proof.Machine

/-! ### Serving (R694 to R700) -/

/-- Who a request from another part reads or writes for. -/
def PktHdr.who (h : PktHdr) : Who := { rq := rqFabric, flask := h.flask, device := h.src }

/-- The STATUS with which a request for a range is refused, or 0: a lent GiB serves its borrower until its deadline (R618, R623), any other
address is served under a segment of the flask that grants the remote right (R596), and a stack in its drain class serves neither (R1070).
A range that R694 or R695 does not allow, or that is no local memory, has no such segment. -/
def State.refusal (s : State) (h : PktHdr) (len : Nat) (r : Right) : Nat :=
  let g := h.addr >>> 30
  let form := h.addr % 8 = 0 && len % 8 = 0 && decide (8 ≤ len) && decide (len ≤ 4096) && decide (h.addr % 4096 + len ≤ 4096)
    && !farKey h.addr && s.present h.addr len
  if !form then cSegmentFault
  else if tierOf h.addr = 0 && s.bit .lent g then
    (if s.rd .lentDevice g ≠ h.src || s.loanOver g then cBayRevoked else if s.drains h.addr len then cThermalStop else cOK)
  else if !s.allowed h.flask h.addr len r then cSegmentFault
  else if s.drains h.addr len then cThermalStop
  else cOK

/-- The hint under which a request is served: that of the segment that allows it, and for a bay the default (R573, R584). -/
def State.servedHint (s : State) (h : PktHdr) (len : Nat) (r : Right) : Nat :=
  if tierOf h.addr = 0 && s.bit .lent (h.addr >>> 30) then 0 else s.hintOf h.flask h.addr len 0 r

/-- The 64-byte word map of failed words (R699). -/
def wordMap (failed : List (Nat × Bool)) : List Byte := leBytes (bitMask (failed.map (·.1))) 64

/-- RD_REQ (R694, R696, R698 to R700). -/
def execRdReq (port : Nat) (s : State) : Host.Outcome State Fault Refusal :=
  done (match s.takePacket port 2 [0x80] with
    | none => s
    | some (p, s0) =>
      let h := pktHdr p
      let len := if h.arg < 2 ^ 13 && h.len = 0 then h.arg else 0
      let c := s0.refusal h len .remoteRead
      if c ≠ 0 then s0.respond h 0x81 c 0 []
      else
        let r := s0.readLocal h.who (s0.servedHint h len .remoteRead) h.addr len
        if r.1.code = 0 then r.2.respond h 0x81 cOK 0 r.1.bytes
        else r.2.respond h 0x81 r.1.code r.1.detail (r.1.bytes ++ wordMap r.1.failed))

/-- WR_REQ (R695 to R697, R700). -/
def execWrReq (port : Nat) (s : State) : Host.Outcome State Fault Refusal :=
  done (match s.takePacket port 2 [0x82] with
    | none => s
    | some (p, s0) =>
      let h := pktHdr p
      let c := s0.refusal h h.len .remoteWrite
      if c ≠ 0 then s0.respond h 0x83 c 0 []
      else (s0.writeLocal (s0.servedHint h h.len .remoteWrite) h.addr (pktPayload p) []).respond h 0x83 cOK 0 [])

/-! ### Requests that end (R620, R701, R702) -/

/-- A request of a pour ends with a code, and the pour faults with it at the place where it stands. The blocks of a tile that is refused are not
counted (R120, R203). -/
def State.failPour (s : State) (id code : Nat) : State :=
  match s.pour? id with
  | none => s
  | some p =>
    if p.stage = .queued || p.stage = .released then s
    else if p.stage = .faulted then s.onPour id (fun q => { q with due := [] })
    else if p.isArray then s.stopArray { p with due := [] } { code := code }
    else if p.opcode = 8 && p.stage = .running then s.failGather id { code := code }
    else
      match s.colls.find? (fun c => c.2.pour = id) with
      | some c => s.endColl c.1 code true
      | none => s.faultPour p code 0

/-- The owner of a read still waits for its words. -/
def State.wanted (s : State) (q : Tc2Req) : Bool :=
  match q.pour with
  | some id => (s.pour? id).isSome
  | none => true

/-- Stage an outcome for the words of a read: code and data by word. An entry that waits for its descriptor may now have it (R745). -/
def State.stage (s : State) (q : Tc2Req) (f : Nat → Nat × BitVec 64) : State :=
  if !s.wanted q then s else
  let key := (q.dest[0]?).getD 0 / 8
  let owner := (q.dest[1]?).getD 0
  let s1 : State := { s with staged := (List.range (q.len / 8)).foldl (fun m i => Sp.put m (stageKey owner (key + i)) (f i)) s.staged }
  if q.pour.isNone then s1.reserveWaiting else s1

/-- What the end of a request with a code and without data means for its requester: a read's words are lost with the code, and a write
faults its pour or stops its heat. -/
def State.lost (s : State) (q : Tc2Req) (code : Nat) : State :=
  if q.op = 0x80 then s.stage q (fun _ => (3, BitVec.ofNat 64 code))
  else
    match q.pour, q.ladle with
    | some id, _ => s.failPour id code
    | none, some n => s.heatWriteLost n code
    | none, none => q.host.elim s (fun h => s.ringHeld h.1)

/-- The requests held back leave as far as R701 allows; with no port UP they end with LINK_LOST (R708). -/
def State.refill : Nat → State → State
  | 0, s => s
  | n + 1, s =>
    if decide (16384 ≤ s.waiting.length) then s else
    match s.tc2.find? (fun q => q.hold.isSome) with
    | none => s
    | some q =>
      match s.sendTc2 q (q.hold.getD []) with
      | none => State.refill n (State.lost { s with tc2 := s.tc2.erase q } q cLinkLost)
      | some (s1, q1) => State.refill n { s1 with tc2 := s1.tc2.erase q ++ [q1] }

/-- The state with a request gone, and with the requests that R701 held back sent as far as it allows. -/
def State.endRequest (s : State) (q : Tc2Req) : State :=
  let s1 : State := { s with tc2 := s.tc2.erase q }
  State.refill s1.tc2.length s1

/-- A request ends with a code and without data (R618, R620, R696, R1070). -/
def State.loseRequest (s : State) (q : Tc2Req) (code : Nat) : State := (s.endRequest q).lost q code

/-- End with LINK_LOST every request that satisfies a test, those held back apart (R715, R717). -/
def State.loseRequests (s : State) (test : Tc2Req → Bool) : State :=
  (s.waiting.filter test).foldl (fun s q => s.loseRequest q cLinkLost) s

/-- TC2_RESPONSE_TIMEOUT (R620): the request with a sequence number has had no response for 100 µs. -/
def execTc2ResponseTimeout (r : Nat) (s : State) : Host.Outcome State Fault Refusal :=
  done (match s.waiting.find? (fun q => q.seq = r) with
    | none => s
    | some q => s.loseRequest q cLinkLost)

/-! ### Responses (R698 to R703, R710) -/

/-- The request that a response answers (R702). -/
def State.answered (s : State) (h : PktHdr) (op : Nat) : Option Tc2Req :=
  s.waiting.find? (fun q => q.device = h.src && q.tag = h.tag && q.seq = h.seq && q.op = op)

/-- The destination of a part of a move becomes undefined. -/
def State.forgetMove (s : State) (p : Pour) (addr off len : Nat) : State :=
  let d := p.dOut
  if d.src = srcBuffer then (meshSegment d.addr).foldl (fun (s : State) a => s.forgetStore a d.bufSel off len) s
  else if d.remote then s else s.forgetMem addr len

/-- What a pour of an array loads from a range of another part becomes undefined, with the lines of its window, whose slots then hold nothing. -/
def State.forgetLoads (s : State) (p : Pour) (key len : Nat) : State :=
  let s1 := ((s.operandLoads p).filter (fun l => overlap l.span.key l.span.len key len)).foldl (fun (s : State) l =>
    s.forgetStore p.array l.sel l.off (match l.desc with
      | some d => l.tiles * d.tb
      | none => l.span.len)) s
  if p.opcode ≠ 3 && p.opcode ≠ 4 then s1 else
  let lines := ((s.loadedPlanes p).map (fun kt => ((List.range p.geo.kh).map (fun kh => (kt, kh))))).flatten
  let reached := lines.filter (fun e => (p.lineCells e.1 e.2).any (fun c => overlap (p.cellAddr c) (p.lineTiles * p.dA.mb) key len))
  let s2 := reached.foldl (fun (s : State) e => s.forgetStore p.array 3 (p.lineAt e.1 e.2) p.lineBytes) s1
  s2.onArray p.array (fun r => { r with planes := r.planes.filter (fun e => e.1 ∉ reached.map (fun x => p.slotOf x.1)) })

/-- The part of a conditioning copy of a ladle's heat that a range of another part brings becomes undefined. -/
def State.forgetCopies (s : State) (n key len : Nat) : State :=
  match Sp.get? s.heats n with
  | none => s
  | some h =>
    let c := h.card
    let f := ladleFlask n
    let rowAddr := cardTable c + 64 * h.pass
    if h.stage ≠ .passBlock then s else
    match s.fetch { rq := rqHeat, flask := f, ladle := some n } none [{ hint := s.hintOf f rowAddr 64 0 .read, key := rowAddr, len := 64 }] with
    | .got rs _ =>
      let ptr (i : Nat) : Nat := leNat ((((rs[0]?).getD ({ bytes := [] } : RdRes)).bytes.drop (0x10 + 8 * i)).take 8)
      ((List.range 4).filter (fun i => overlap (ptr i) (cardBytes c i) key len)).foldl (fun (s : State) i =>
        let lo := max key (ptr i)
        let dest := cardDest c i + (lo - ptr i)
        if farKey dest then s else s.forgetMem dest (min (key + len) (ptr i + cardBytes c i) - lo)) s
    | _ => s

/-- In Low-latency mode the destination words that the bytes of a response without a good E2E_CRC reached are undefined (R709, R710): the tile,
the copy or the rows that a move has under way, what a pour of an array loads from the range of the request, or a conditioning copy. -/
def State.spoilDest (s : State) (q : Tc2Req) : State :=
  match q.pour.bind s.pour? with
  | none => q.ladle.elim s (fun n => s.forgetCopies n ((q.dest[0]?).getD 0) q.len)
  | some p =>
    let o := p.dOut
    if p.opcode = 6 && p.stage = .running then
      let key := (q.dest[0]?).getD 0
      let mv := if p.moveMode = 0 then moveTilesMode else if p.moveMode = 1 then moveVisitMode else moveRegroupMode
      let size := if p.moveMode = 1 then (p.visitPart p.progress).2 else if o.src = srcBuffer then o.tb else o.mb
      let reached (k : Nat) : Bool := p.moveMode ≠ 0 ||
        (let from_ := p.moveFrom (p.progress + k)
         overlap (if p.dA.remote then remoteKey p.dA.device from_ else from_) p.dA.mb key q.len)
      ((List.range (mv.pieces p p.progress)).filter reached).foldl (fun (s : State) k =>
        let w := mv.place p p.progress k
        s.forgetMove p w.1 w.2 size) s
    else if p.isArray && p.stage = .loading then s.forgetLoads p ((q.dest[0]?).getD 0) q.len
    else s

/-- RD_RESP (R698, R699, R702, R703, R710). -/
def execRdResp (port : Nat) (s : State) : Host.Outcome State Fault Refusal :=
  done (match s.takePacket port 2 [0x81] with
    | none => s
    | some (p, s0) =>
      let h := pktHdr p
      match s0.answered h 0x80, pktCrcOk p with
      | none, false => s0.count .e2eErr 0
      | none, true => s0.count .staleResp 0
      | some q, false => (s0.spoilDest q).loseRequest q cLinkLost
      | some q, true =>
        let pay := pktPayload p
        let word (i : Nat) : BitVec 64 :=
          if 8 * i + 8 ≤ pay.length then BitVec.ofNat 64 (leNat ((pay.drop (8 * i)).take 8)) else s0.free i
        if h.status = cOK then (s0.endRequest q).stage q (fun i => (0, word i))
        else if h.status = cUeRead || h.status = cPoisonRead then
          let bad := leNat ((pay.drop q.len).take 64)
          (s0.endRequest q).stage q (fun i =>
            if bad.testBit i then (if h.status = cUeRead then 1 else 2, 0) else (0, word i))
        else s0.loseRequest q h.status)

/-- A write has been accepted elsewhere. With the last write of a tile of an array pour the tile's blocks are counted, also where the pour has
faulted or is cancelled meanwhile (R120, R203), and a pour that waited for it goes on; a doorbell that waited for a host write acts (R851). -/
def State.writeAccepted (s : State) (q : Tc2Req) : State :=
  match q.pour.bind s.pour? with
  | some p =>
    if !p.isArray || s.flies p then s
    else
      let c := countDue s p
      (c.1.onPour p.id (fun _ => c.2)).goOn p.array
  | none => q.host.elim s (fun h => s.ringHeld h.1)

/-- WR_ACK (R697, R702). -/
def execWrAck (port : Nat) (s : State) : Host.Outcome State Fault Refusal :=
  done (match s.takePacket port 2 [0x83] with
    | none => s
    | some (p, s0) =>
      let h := pktHdr p
      match s0.answered h 0x82 with
      | none => s0.count .staleResp 0
      | some q => if h.status = cOK then (s0.endRequest q).writeAccepted q else s0.loseRequest q h.status)

end Sys2Proof.Machine
end

