-- ==== Sys2Proof/Machine/Port.lean ====
section
/-!
DEFINITION. The Daxpel ports: flits and their retry, credits, the delivery of packets, bring-up and loss, optical power and lasers (R666 to
R693, R704 to R721, R724).
-/
namespace Sys2Proof.Machine

/-- States of a port (R711). -/
def ptDisabled : Nat := 0
def ptTraining : Nat := 1
def ptInit : Nat := 2
def ptUp : Nat := 3
def ptRetrainWait : Nat := 4
def ptFailed : Nat := 5

/-- DOWN_CAUSE codes (R714). -/
def dnLos : Nat := 1
def dnFecLock : Nat := 2
def dnSilence : Nat := 3
def dnRetryLimit : Nat := 4
def dnSymbolErrors : Nat := 5
def dnLaser : Nat := 6
def dnPlane : Nat := 7
def dnTrainTimeout : Nat := 8
def dnDisabled : Nat := 9

/-- KIND codes (R671). -/
def kdIdle : Nat := 0
def kdData : Nat := 1
def kdNak : Nat := 2
def kdTime : Nat := 3
def kdInit : Nat := 4

/-- The part's receive buffers in flits, by class (R683), and the least a peer may advertise (R722). -/
def rxBuffers : List Nat := [32, 1024, 896, 96]
def minCredits : List Nat := [16, 512, 512, 32]

/-! ### Bring-up and loss (R711 to R717) -/

/-- LANE_FAULT of a port: its lanes in LOS and those above the symbol error ratio of R714. -/
def State.faultLanes (s : State) (port : Nat) : State :=
  s.wr .laneFault port ((s.port port).noisy ||| bitMask ((List.range 4).filter (fun l => s.bit .laneLos (4 * port + l))))

/-- Every index of a port exists. -/
def State.isState (s : State) (port st : Nat) : Bool := decide (port < 32) && s.rd .portState port = st

/-- Enter a state in which nothing is sent: the eighth entry to RETRAIN_WAIT without UP goes to FAILED (R711). -/
def State.restPort (s : State) (port st : Nat) : State :=
  let n := s.rd .failedTrainings port + 1
  let s1 := if st = ptRetrainWait then s.wr .failedTrainings port (min n 8) else s
  let st1 := if st = ptRetrainWait && decide (8 ≤ n) then ptFailed else st
  (s1.onPort port (fun r => { sent := r.sent, lineOn := st1 = ptRetrainWait, noisy := r.noisy })).wr .portState port st1

/-- A read response of which the port has received a part, in Low-latency mode: its payload bytes reached the destination as they arrived
(R709). -/
def State.spoilPart (s : State) (port : Nat) : State :=
  let p := Sp.getD (s.port port).rxStream 2 []
  if s.rd .fabMode ≠ 0 || decide (p.length ≤ 32) then s else
  match s.answered (pktHdr p) 0x80 with
  | some q => if (pktHdr p).op = 0x81 then s.spoilDest { q with len := min q.len (p.length - 32) } else s
  | none => s

/-- A port leaves UP (R709, R714, R715, R717, R787, R458). -/
def State.leaveUp (s0 : State) (port st cause : Nat) : State :=
  let s := s0.spoilPart port
  let plane := s.rd .portPlane port
  let s1 := ((s.restPort port st).wr .downCause port cause).wr .downEvents port (min 255 (s.rd .downEvents port + 1))
  let s2 := s1.loseRequests (fun q => q.plane = plane)
  let s3 := (s2.raise .portEvent 0 causeFabric).contrailAdd 0x03 0 0
    (leBytes port 4 ++ leBytes cause 4 ++ leBytes (s2.rd .laneFault port) 4)
  (s3.timePortLost port).collPortLost plane

/-- A condition takes a port out of UP, or ends TRAINING or INIT in RETRAIN_WAIT or FAILED, and its cause is recorded; any other change
to a state of rest records none (R711, R714). -/
def State.dropPort (s : State) (port st cause : Nat) : State :=
  if s.isState port ptUp then s.leaveUp port st cause
  else if (s.isState port ptTraining || s.isState port ptInit) && st ≠ ptDisabled then (s.restPort port st).wr .downCause port cause
  else s.restPort port st

/-- Enter TRAINING, with the lasers on; a laser that still reports FAULT takes the port on to FAILED (R711). -/
def State.trainPort (s : State) (port : Nat) : State :=
  let s1 := (s.onPort port (fun r => { sent := r.sent, lineOn := true, noisy := r.noisy })).wr .portState port ptTraining
  if s1.bit .laserFault port then s1.dropPort port ptFailed dnLaser else s1

/-- A loss condition of a port that is UP (R714). -/
def State.loss (s : State) (port cause : Nat) : State :=
  if s.isState port ptUp then s.leaveUp port ptRetrainWait cause else s

/-- Enter UP with the credits of the peer's INIT (R684, R713). -/
def State.enterUp (s : State) (port : Nat) : State :=
  ((s.onPort port (fun r =>
    { sent := r.sent, lineOn := true, noisy := r.noisy, credit := (r.initCredits.zipIdx).map (fun e => (e.2, e.1)) })).wr .failedTrainings port 0).wr
    .portState port ptUp

/-- INIT ends once a good INIT has come and eight have been sent (R711). -/
def State.initDone (s : State) (port : Nat) : State :=
  let r := s.port port
  if s.isState port ptInit && r.initGood && decide (8 ≤ r.initsSent) then s.enterUp port else s

/-- PORT_CFG_WRITE (R704, R711). The port changes state once the part has enabled its ports (R724). -/
def execPortCfgWrite (port : Nat) (value : Word32) (s : State) : Host.Outcome State Fault Refusal :=
  let v := value.toNat
  let old := s.rd .portEnable port
  let new := bits v 0 1
  done (if !s.bar0Up || decide (32 ≤ port) then s else
    let s1 := (if old = 0 then s.wr .portPlane port (bits v 1 3) else s).wr .portEnable port new
    if !s.ready then s1
    else if new = 0 then (if s.isState port ptDisabled then s1 else s1.dropPort port ptDisabled dnDisabled)
    else if old = 0 && (s.isState port ptDisabled || s.isState port ptFailed) then s1.trainPort port
    else s1)

/-- TRAINING_COMPLETE (R711): every lane is free of LOS and of errors; a port with a lane in LOS stays in TRAINING. -/
def execTrainingComplete (port : Nat) (s : State) : Host.Outcome State Fault Refusal :=
  done (if s.isState port ptTraining && !(List.range 4).any (fun l => s.bit .laneLos (4 * port + l)) then
    ((s.onPort port (fun r => { sent := r.sent, lineOn := true })).wr .laneFault port 0).wr .portState port ptInit else s)

/-- TRAIN_TIMEOUT (R711, R714). -/
def execTrainTimeout (port : Nat) (s : State) : Host.Outcome State Fault Refusal :=
  done (if s.isState port ptTraining || s.isState port ptInit then s.dropPort port ptRetrainWait dnTrainTimeout else s)

/-- RETRAIN_WAIT_END (R711). -/
def execRetrainWaitEnd (port : Nat) (s : State) : Host.Outcome State Fault Refusal :=
  done (if s.isState port ptRetrainWait then s.trainPort port else s)

/-- LOS (R714): some lanes have been in LOS for 2 µs. -/
def execLos (port lanes : Nat) (s : State) : Host.Outcome State Fault Refusal :=
  let ls := bitList lanes 4
  done (if decide (32 ≤ port) || ls.isEmpty then s else
    ((ls.foldl (fun s l => s.setBit .laneLos (4 * port + l)) s).faultLanes port).loss port dnLos)

/-- FEC_LOCK (R714). -/
def execFecLock (port : Nat) (s : State) : Host.Outcome State Fault Refusal := done (s.loss port dnFecLock)

/-- SILENCE (R714). -/
def execSilence (port : Nat) (s : State) : Host.Outcome State Fault Refusal := done (s.loss port dnSilence)

/-- SYMBOL_ERRORS (R714). -/
def execSymbolErrors (port lanes : Nat) (s : State) : Host.Outcome State Fault Refusal :=
  let ls := bitList lanes 4
  done (if decide (32 ≤ port) || ls.isEmpty then s else
    ((s.onPort port (fun r => { r with noisy := r.noisy ||| bitMask ls })).faultLanes port).loss port dnSymbolErrors)

/-- PORT_DOWN (R716, R717, R787). -/
def execPortDown (port : Nat) (s : State) : Host.Outcome State Fault Refusal :=
  done (match s.takePacket port 0 [0x08] with
    | none => s
    | some (p, s1) =>
      let w := pktWord p 0
      let plane := (pktHdr p).plane
      if bits w 12 1 = 0 then s1
      else (s1.loseRequests (fun q => q.device = bits w 0 12 && q.plane = plane)).collMemberLost plane (bits w 0 12))

/-! ### Optical power and lasers (R718 to R721) -/

/-- Set a lane or laser flag, and POWER_EVENT with it. -/
def State.powerFlag (s : State) (k : FKind) (i : Nat) (on : Bool) : State :=
  if on then (s.setBit k i).raise .fabPowerEvent 0 causeFabric else s

/-- LANE_POWER_SAMPLE (R665, R718, R719): a flag is set when the power crosses its threshold; LOS follows the power with its two
limits. `power` is in 0.01 dBm. -/
def execLanePowerSample (lane : Nat) (power : Int) (s : State) : Host.Outcome State Fault Refusal :=
  done (if decide (128 ≤ lane) then s else
    let old := toInt 16 (s.rd .rxPower lane)
    let new := max (-1200) (min 500 power)
    let warn := toInt 16 (s.rd .rxLowWarn)
    let alarm := toInt 16 (s.rd .rxLowAlarm)
    let s1 := s.wr .rxPower lane (ofInt 16 new)
    let s2 := if power < -1200 then (s1.setBit .laneLos lane).faultLanes (lane / 4)
      else if -1000 < power && s1.bit .laneLos lane then (s1.clr .laneLos lane).faultLanes (lane / 4)
      else s1
    ((s2.powerFlag .laneLowWarn lane (decide (new < warn) && decide (warn ≤ old))).powerFlag .laneLowAlarm lane
      (decide (new < alarm) && decide (alarm ≤ old))).powerFlag .laneHighAlarm lane (decide (400 < new) && decide (old ≤ 400)))

/-- LASER_SAMPLE (R711, R714, R721): bias in mA and output power in 0.1 dBm; a FAULT takes every port but a DISABLED one to FAILED. -/
def execLaserSample (port bias : Nat) (power : Int) (fault : Bool) (s : State) : Host.Outcome State Fault Refusal :=
  done (if decide (32 ≤ port) then s else
    let s1 := ((s.wr .laserBias port bias).wr .laserTxPower port (ofInt 8 power)).wr .laserFault port (if fault then 1 else 0)
    let s2 := s1.powerFlag .laserAged port (decide (power ≤ Config.laserMade port - 10))
    if fault && !s2.isState port ptDisabled && !s2.isState port ptFailed then s2.dropPort port ptFailed dnLaser else s2)

/-! ### Receiving flits (R674 to R686, R692, R693, R709, R710, R712) -/

/-- ACK and CREDIT fields of a flit that the port acts on (R676, R684): an ACK that covers a flit of the replay buffer frees it and those
before it. -/
def PortRt.header (r : PortRt) (f : Flit) : PortRt :=
  let covers := f.ackValid && r.replay.any (fun e => e.1 = f.ack)
  let after (l : List (Nat × Flit)) : List (Nat × Flit) := (l.dropWhile (fun e => e.1 ≠ f.ack)).tail
  let kept := if covers then after r.replay else r.replay
  let news : List (Nat × Nat) := [(0, f.creditTc0), (1, f.creditTc1), (2, f.creditTc2), (3, f.creditTc3)]
  { r with
    replay := kept,
    resend := if covers then r.resend.filter (fun e => kept.any (fun k => k.1 = e.1)) else r.resend,
    resends := if covers then [] else r.resends,
    credit := news.foldl (fun m e => Sp.modify m e.1 0 (· + (e.2 + 4096 - Sp.getD r.creditSeen e.1 0) % 4096)) r.credit,
    creditSeen := news.foldl (fun m e => Sp.put m e.1 (e.2 % 4096)) r.creditSeen }

/-- The packets that have come whole in a byte stream, and the bytes left: a packet is its 32 bytes of header and LENGTH bytes. -/
def splitPackets : Nat → List Byte → List (List Byte) × List Byte
  | 0, l => ([], l)
  | fuel + 1, l =>
    let n := 32 + pktField l 0 48 16
    if l.length < 32 || decide (l.length < n) then ([], l)
    else
      let r := splitPackets fuel (l.drop n)
      (l.take n :: r.1, r.2)

/-- The part takes packets of an opcode (R691, R752). -/
def takesOp (op : Nat) : Bool := op ∈ [0x06, 0x07, 0x08, 0x41, 0x42, 0x44, 0x45, 0x46, 0x47, 0x49, 0x80, 0x81, 0x82, 0x83, 0xC0]

/-- A packet has come whole in a class's stream: discarded under R692 or R693, or kept for its command. One that no part acts on is
discarded as well, a TC1 packet without an open context counted (R757). -/
def State.deliver (s : State) (port tc : Nat) (p : List Byte) : State :=
  let op := (pktHdr p).op
  let drop (s : State) : State := s.onPort port (fun r => r.free tc p.length)
  if s.badPacket port tc p || op ∈ [1, 2, 3] then (drop s).count .badPkt 0
  else if !pktCrcOk p && !(s.rd .fabMode = 0 && op = 0x81) then (drop s).count .e2eErr 0
  else if takesOp op then s.onPort port (fun r => { r with inbox := r.inbox ++ [p] })
  else if tc = 1 && (s.collOf p).isNone then (drop s).count .staleColl 0
  else drop s

/-- A DATA flit that is not accepted: the first one after an accepted DATA flit calls for a NAK (R677, R678). -/
def PortRt.discardFlit (r : PortRt) : PortRt := if r.nakArmed then { r with nakArmed := false, nakDue := true } else r

/-- The FEC codewords that were corrected in a received flit are counted in PORT_FEC_CORR, whatever the port does with the flit. -/
def State.fecCorr (s : State) (port n : Nat) : State := if n = 0 || decide (32 ≤ port) then s else s.count .portFecCorr port n

/-- DATA_FLIT (R675 to R680, R684, R686, R692, R693). -/
def execDataFlit (port : Nat) (flit : Flit) (s0 : State) : Host.Outcome State Fault Refusal :=
  let s := s0.fecCorr port flit.fecCorrected
  done (if !s.isState port ptUp then s else
    let s1 := s.onPort port (fun r => r.header flit)
    let r := s1.port port
    if flit.seq ≠ r.rxSeq then s1.onPort port PortRt.discardFlit
    else
      let tc := flit.tc % 4
      let x := splitPackets (r.rxStream.length + 16) (Sp.getD r.rxStream tc [] ++ flit.payload)
      let s2 := s1.onPort port (fun r => { r with
        rxSeq := (r.rxSeq + 1) % 4096, nakArmed := true, rxAny := true, unackedRx := r.unackedRx + 1,
        ackDue := r.ackDue || decide (256 ≤ r.unackedRx + 1),
        rxFlits := Sp.modify r.rxFlits tc [] (· ++ [flit.payload.length]), rxStream := Sp.put r.rxStream tc x.2 })
      x.1.foldl (fun s p => s.deliver port tc p) s2)

/-- IDLE_FLIT (R684). -/
def execIdleFlit (port : Nat) (flit : Flit) (s0 : State) : Host.Outcome State Fault Refusal :=
  let s := s0.fecCorr port flit.fecCorrected
  done (if s.isState port ptUp then s.onPort port (fun r => r.header flit) else s)

/-- Resend from a place of the replay buffer on, unless one of these flits has been resent eight times without an advance of ACK (R679,
R681, R714). -/
def State.resendFrom (s : State) (port : Nat) (l : List (Nat × Flit)) : State :=
  if l.isEmpty then s
  else if l.any (fun e => decide (8 ≤ Sp.getD (s.port port).resends e.1 0)) then s.loss port dnRetryLimit
  else s.onPort port (fun r => { r with resend := l })

/-- NAK_FLIT (R679, R684). -/
def execNakFlit (port : Nat) (flit : Flit) (s0 : State) : Host.Outcome State Fault Refusal :=
  let s := s0.fecCorr port flit.fecCorrected
  done (if s.isState port ptUp then
    let s1 := s.onPort port (fun r => r.header flit)
    s1.resendFrom port ((s1.port port).replay.dropWhile (fun e => e.1 ≠ flit.seq))
  else s)

/-- RETRY_TIMEOUT (R681): no ACK has advanced for 20 µs. -/
def execRetryTimeout (port : Nat) (s : State) : Host.Outcome State Fault Refusal :=
  done (if s.isState port ptUp then s.resendFrom port (s.port port).replay else s)

/-- ACK_TIMER (R680): the last accepted DATA flit is acknowledged again, whatever has been acknowledged before. -/
def execAckTimer (port : Nat) (s : State) : Host.Outcome State Fault Refusal :=
  done (if s.isState port ptUp then s.onPort port (fun r => { r with ackDue := r.ackDue || r.rxAny }) else s)

/-- TIME_FLIT (R456, R674, R692, R693): one time message, kept with its arrival time. -/
def execTimeFlit (port : Nat) (flit : Flit) (s0 : State) : Host.Outcome State Fault Refusal :=
  let s := s0.fecCorr port flit.fecCorrected
  let p := flit.payload
  let op := (pktHdr p).op
  done (if !s.isState port ptUp then s else
    let s1 := s.onPort port (fun r => r.header flit)
    if s1.badPacket port 0 p || p.length ≠ 32 + (pktHdr p).len || op = 0 || decide (3 < op) then s1.count .badPkt 0
    else if !pktCrcOk p then s1.count .e2eErr 0
    else if op = 2 then s1
    else s1.onPort port (fun r => { r with timeIn := r.timeIn ++ [(p, s1.now)] }))

/-- A field of an INIT flit's payload (R712). -/
def initField (l : List Byte) (byte n : Nat) : Nat := leNat ((l.drop byte).take n)

/-- INIT_FLIT (R684, R711, R712): one that names another plane takes the port to FAILED; a good one gives the credits. -/
def execInitFlit (port : Nat) (flit : Flit) (s0 : State) : Host.Outcome State Fault Refusal :=
  let s := s0.fecCorr port flit.fecCorrected
  let l := flit.payload
  let plane := bits (initField l 0 2) 12 3
  let credits := [initField l 4 2, initField l 6 2, initField l 8 2, initField l 0xA 2]
  done (if !s.isState port ptInit && !s.isState port ptUp then s
    else if plane ≠ s.rd .portPlane port then s.dropPort port ptFailed dnPlane
    else if s.isState port ptInit && initField l 0xC 1 = 1 && (credits.zip minCredits).all (fun e => decide (e.2 ≤ e.1)) then
      (s.onPort port (fun r => { r with initGood := true, initCredits := credits })).initDone port
    else s)

/-- CORRUPT_FLIT (R674, R677, R678): a flit that the port does not act on is counted, and after an accepted flit a NAK follows. A reserved
KIND with a good CRC is counted nowhere. -/
def execCorruptFlit (port : Nat) (why : CorruptKind) (s0 : State) : Host.Outcome State Fault Refusal :=
  let s := s0.fecCorr port why.corrected
  done (if decide (32 ≤ port) then s else
    let s1 := match why with
      | .crc _ => s.count .portCrcErr port
      | .fec n _ => s.wr .portFecUncorr port (min 0xFFFFFFFF (s.rd .portFecUncorr port + n))
      | .reservedKind _ => s
    if s1.isState port ptUp then s1.onPort port PortRt.discardFlit else s1)

/-! ### Sending flits (R668, R672, R673, R675, R676, R685, R687, R707, R709) -/

/-- A flit with the ACK and CREDIT fields that the port would send now; the ACK that was due has gone with it. -/
def PortRt.stamp (r : PortRt) (f : Flit) : Flit × PortRt :=
  ({ f with ackValid := r.ackDue, ack := (r.rxSeq + 4095) % 4096, creditTc0 := Sp.getD r.freed 0 0, creditTc1 := Sp.getD r.freed 1 0,
            creditTc2 := Sp.getD r.freed 2 0, creditTc3 := Sp.getD r.freed 3 0 },
   if r.ackDue then { r with ackDue := false, unackedRx := 0 } else r)

/-- An empty flit. -/
def plainFlit : Flit :=
  { tc := 0, startValid := false, ackValid := false, startOff := 0, seq := 0, ack := 0, creditTc0 := 0, creditTc1 := 0, creditTc2 := 0,
    creditTc3 := 0, payload := [] }

/-- Send a flit of a kind. -/
def PortRt.emit (r : PortRt) (kind : Nat) (f : Flit) : PortRt :=
  let x := r.stamp f
  { x.2 with sent := r.sent ++ [(kind, x.1)] }

/-- Bits [95:0] of the header of a flit of a kind (R671). -/
def flitHeader (kind : Nat) (f : Flit) : Nat :=
  kind + (f.tc <<< 3) + ((if f.startValid then 1 else 0) <<< 5) + ((if f.ackValid then 1 else 0) <<< 6) + (f.payload.length <<< 8)
    + (f.startOff <<< 16) + (f.seq <<< 24) + (f.ack <<< 36) + (f.creditTc0 <<< 48) + (f.creditTc1 <<< 60) + (f.creditTc2 <<< 72)
    + (f.creditTc3 <<< 84)

/-- The 256 bytes of a flit on the line, its LINK_CRC over all of them but its own four (R670 to R672). -/
def flitBytes (kind : Nat) (f : Flit) : List Byte :=
  let head := leBytes (flitHeader kind f) 12
  let data := padTo f.payload 240 0
  head ++ leBytes (crc32c (head ++ data)) 4 ++ data

/-- What a port has put on the line, flit by flit. -/
def PortRt.wire (r : PortRt) : List (List Byte) := r.sent.map (fun e => flitBytes e.1 e.2)

/-- The packets of a class after some bytes of them have left: those left, and the bytes of the first one already sent. -/
def dropSent : List (List Byte) → Nat → List (List Byte) × Nat
  | [], _ => ([], 0)
  | p :: r, n => if p.length ≤ n then dropSent r (n - p.length) else (p :: r, n)

/-- Bytes of a class that wait. -/
def PortRt.ready (r : PortRt) (tc : Nat) : Nat := ((Sp.getD r.txStream tc []).map List.length).sum - Sp.getD r.txOffset tc 0

/-- A DATA flit of a class may leave (R676, R685, R709): in Throughput mode a flit that is not full waits until its class has had no new
packet for 64 a-cycles, 14 flit slots. -/
def PortRt.mayData (r : PortRt) (throughput : Bool) (tc : Nat) : Bool :=
  decide (0 < r.ready tc) && decide (0 < Sp.getD r.credit tc 0) && decide (r.replay.length < 2048)
    && (!throughput || decide (240 ≤ r.ready tc) || decide (14 ≤ Sp.getD r.quiet tc 0))

/-- Send the next DATA flit of a class (R675, R676, R684). -/
def PortRt.sendData (r : PortRt) (tc : Nat) : PortRt :=
  let pkts := Sp.getD r.txStream tc []
  let off := Sp.getD r.txOffset tc 0
  let n := min 240 (r.ready tc)
  let left := dropSent pkts (off + n)
  let first := if off = 0 then 0 else (pkts.headD []).length - off
  let starts := (off = 0 || decide (1 < pkts.length)) && decide (first < n)
  let f : Flit := { plainFlit with
    tc := tc, startValid := starts, startOff := if starts then first else 0, seq := r.txSeq, payload := ((pkts.flatten).drop off).take n }
  let r1 := { r with
    txSeq := (r.txSeq + 1) % 4096, credit := Sp.modify r.credit tc 0 (· - 1), replay := r.replay ++ [(r.txSeq, f)],
    txStream := Sp.put r.txStream tc left.1, txOffset := Sp.put r.txOffset tc left.2 }
  r1.emit kdData f

/-- The class that weighted round robin serves next among TC1 to TC3 (R687): the lowest that may send and has not had its weight in this
round; a round ends when none of those that may send has any left. -/
def PortRt.robin (r : PortRt) (weight : Nat → Nat) (may : Nat → Bool) : Option (Nat × Sp Nat) :=
  let open_ := [1, 2, 3].filter may
  match open_.find? (fun t => decide (Sp.getD r.rrServed t 0 < weight t)) with
  | some t => some (t, Sp.modify r.rrServed t 0 (· + 1))
  | none => open_.head?.map (fun t => (t, [(t, 1)]))

/-- The INIT flit of a port (R712). -/
def State.initFlit (s : State) (port : Nat) : Flit :=
  { plainFlit with
    payload := leBytes (s.rd .fabDevice + (s.rd .portPlane port <<< 12)) 4 ++ (rxBuffers.map (fun n => leBytes n 2)).flatten
      ++ leBytes 1 4 }

/-- FLIT_SLOT (R668, R673, R687, R711): the flit of one slot. -/
def execFlitSlot (port : Nat) (s : State) : Host.Outcome State Fault Refusal :=
  let r := s.port port
  let idle (r : PortRt) : PortRt := r.emit kdIdle plainFlit
  done (
    if s.isState port ptTraining then s.onPort port idle
    else if s.isState port ptInit then
      (if r.initSlot = 0 then
        (s.onPort port (fun r => { (r.emit kdInit (s.initFlit port)) with initsSent := r.initsSent + 1, initSlot := 1 })).initDone port
      else s.onPort port (fun r => { idle r with initSlot := (r.initSlot + 1) % 4 }))
    else if !s.isState port ptUp then s
    else
      let may := r.mayData (s.rd .fabMode = 1)
      let weight (t : Nat) : Nat := max 1 (s.rd (if t = 1 then .wTc1 else if t = 2 then .wTc2 else .wTc3))
      -- a slot without a new packet has passed for every class
      let aged := { r with quiet := [0, 1, 2, 3].map (fun t => (t, min 14 (Sp.getD r.quiet t 0 + 1))) }
      let put (x : PortRt) : State := s.onPort port (fun _ => x)
      if r.nakDue then put ({ aged with nakDue := false }.emit kdNak { plainFlit with seq := r.rxSeq })
      else
        match r.timeOut, r.resend with
        | n + 1, _ =>
          let x := s.leaveDelayReq port
          x.2.onPort port (fun _ => { aged with timeOut := n }.emit kdTime { plainFlit with startValid := true, payload := x.1 })
        | 0, e :: rest =>
          (put ({ aged with resend := rest, resends := Sp.modify r.resends e.1 0 (· + 1) }.emit kdData e.2)).count .portRetry port
        | 0, [] =>
          if may 0 then put (aged.sendData 0)
          else
            match r.robin weight may with
            | some (t, served) => put ({ aged with rrServed := served }.sendData t)
            | none => put (idle aged))

end Sys2Proof.Machine
end

