-- ==== Sys2Proof/Machine/Region.lean ====
section
/-!
DEFINITION. The region units: DECODE, NMS, CROP and PASTE (R384 to R404).
-/
namespace Sys2Proof.Machine

/-! ### Acceptance (R384 to R388, R395) -/

/-- A region pour may go on: it starts on an idle unit, or is under way. -/
def State.regionMay (s : State) (p : Pour) : Bool :=
  p.opcode = 0xA && !p.cancelled && p.unit ≠ .dispatcher
    && (p.stage = .running || (s.starts p && !s.pours.any (fun q => q.unit = p.unit && q.stage = .running)))

/-- BF16 or FP32. -/
def imageFmt (f : Nat) : Bool := f = fmtBf16 || f = fmtFp32

/-- The form of a region pour (R296, R384 to R386): the descriptors of its operation name MEMORY. The FORMAT of anchors names a format (R131), and
the block, which says whether they are used, is checked for FP32. -/
def Pour.regionOk (p : Pour) : Bool :=
  let a := p.dA
  let b := p.dB
  let o := p.dOut
  !p.watchEn && p.tileShape = 0 && p.kMax = 0 && a.src = srcMemory && o.src = srcMemory
    && (match p.subop with
      | 1 => p.mMax = 1 && b.src = srcMemory && fmtOk b.fmt && a.fmt = fmtFp32 && o.fmt = fmtFp32
      | 2 => decide (1 ≤ p.mMax) && decide (p.mMax ≤ 1024) && a.fmt = fmtFp32 && o.fmt = fmtFp32
      | 3 => p.mMax = 1 && decide (p.nMax ≤ 4096) && b.src = srcMemory && imageFmt a.fmt && b.fmt = fmtFp32 && imageFmt o.fmt
      | 4 => p.mMax = 1 && decide (p.nMax ≤ 4096) && b.src = srcMemory && imageFmt a.fmt && b.fmt = fmtFp32 && imageFmt o.fmt
      | _ => false)

/-- The value of the FP32 word of a block. -/
def blockVal (blk : List Byte) (off : Nat) : Val := ofBits (BitVec.ofNat 32 (blockWord blk off))

/-- Bytes 0x20 to 0x3F of a block are reserved. -/
def blockTail (blk : List Byte) : Bool := (blk.drop 0x20).all (· = 0)

/-- The geometry of a block is in range (R388). An image has at least one pixel (log entry 35). -/
def Images.ok (g : Images) : Bool :=
  decide (1 ≤ g.cw) && decide (g.cw ≤ 512) && decide (1 ≤ g.ch) && decide (g.ch ≤ 512) && decide (1 ≤ g.c) && decide (g.c ≤ 16)
    && g.w ≠ 0 && g.h ≠ 0

/-- The fields of a parameter block are in range (R388, R395). -/
def Pour.blockOk (p : Pour) (blk : List Byte) : Bool :=
  blockTail blk &&
  (match p.subop with
    | 1 => decide (blockWord blk 0x1C < 4)
        && ((blockWord blk 0x1C).testBit 0 || p.dB.fmt = fmtFp32)
    | 2 =>
      let iou := blockVal blk 0
      !iou.isNan && !iou.lt .zero && !(Val.ofNat 1).lt iou
        && decide (1 ≤ blockWord blk 8) && decide (blockWord blk 8 ≤ 4096) && decide (blockWord blk 0x0C ≤ 1)
        && (blk.drop 0x10).all (· = 0) && (blockWord blk 0x0C = 0 || p.mMax = 1)
    | 3 => (imagesOf blk).ok && blockWord blk 4 = 0
    | 4 =>
      let f := blockVal blk 4
      (imagesOf blk).ok && !f.special && !f.lt .zero
    | _ => false)

/-! ### Box records (R389) -/

/-- A box record. -/
structure BoxRec where
  x0 : Val
  y0 : Val
  x1 : Val
  y1 : Val
  score : Val
  cls : Nat
  image : Nat
  source : Nat
  bytes : List Byte
deriving DecidableEq, Repr

def boxOf (l : List Byte) : BoxRec :=
  { x0 := blockVal l 0, y0 := blockVal l 4, x1 := blockVal l 8, y1 := blockVal l 0x0C, score := blockVal l 0x10,
    cls := bits (blockWord l 0x14) 0 16, image := bits (blockWord l 0x14) 16 16, source := blockWord l 0x18, bytes := l }

/-- The span of a record of 32 bytes, or of another size, of a descriptor. -/
def State.recSpan (s : State) (p : Pour) (d : Desc) (a len : Nat) : Span :=
  { hint := s.hintOf p.flask a len d.hint .read, key := a, len := len }

/-- The bytes of the i-th range read. -/
def gotBytes (rs : List RdRes) (i : Nat) : List Byte := ((rs[i]?).getD ({ bytes := [] } : RdRes)).bytes

/-- Read ranges in a second step of a transfer; on a wait the first step's reads are undone, and only the requests stay. -/
def State.fetchThen (s0 s : State) (p : Pour) (qs : List Span) (go : List RdRes → State → Part) : Part :=
  match s.fetch p.runnerWho (some p.id) qs with
  | .wait s1 => .wait { s0 with tc2 := s1.tc2, tc2Next := s1.tc2Next, ports := s1.ports } p
  | .fail code s1 => .fault { code := code } s1 p
  | .got rs s1 => go rs s1

/-- Read ranges and go on unless a word failed. -/
def State.readThen (s0 s : State) (p : Pour) (qs : List Span) (go : List RdRes → State → Part) : Part :=
  s0.fetchThen s p qs (fun rs s1 =>
    match loadStop qs rs with
    | some x => .fault x s1 p
    | none => go rs s1)

/-- The words of another part that a piece at an address covers in part are read, to be merged (R634): the spans before and after it. -/
def State.edgeSpans (s : State) (p : Pour) (a len : Nat) : List Span :=
  let lead := a % 8
  let tail := (8 - (a + len) % 8) % 8
  if farKey a then [s.recSpan p p.dOut (a - lead) lead, s.recSpan p p.dOut (a + len) tail] else []

/-- A piece at an address as it is written: with the bytes around it that `edges` brought. -/
def mergedPiece (a : Nat) (data : List Byte) (edges : List RdRes) : Nat × List Byte :=
  (if farKey a then a - a % 8 else a, gotBytes edges 0 ++ data ++ gotBytes edges 1)

/-- The pour holds pieces, each with its address, and the stop of a read that failed behind them. -/
def Pour.holdsAt (p : Pour) (pieces : List (Nat × List Byte)) (x : Option Stop := none) : Pour :=
  { p.holds (pieces.map (fun e => (e.2, []))) x with words := pieces.map (·.1) }

/-- A transfer of a region unit that has made one piece: the words that it covers in part are merged, and it is held for its write. -/
def State.onePiece (s0 s : State) (p : Pour) (a : Nat) (data : List Byte) : Part :=
  s0.readThen s p (s.edgeSpans p a data.length) (fun rs s1 => .next s1 (p.holdsAt [mergedPiece a data rs]))

/-! ### DECODE (R393) -/

def half : Val := .fin false 1 (-1)

/-- x · 2^-1 exactly, subtracted or added with one rounding. -/
def minusHalf (c w : Val) : Val := rnd (c.add (w.mul half).neg)
def plusHalf (c w : Val) : Val := rnd (c.add (w.mul half))

/-- The corners that DECODE gives (R393). -/
def decodeBox (blk : List Byte) (v : BoxRec) (a : List Val) : List Val :=
  let flags := blockWord blk 0x1C
  let at_ (i : Nat) : Val := (a[i]?).getD .zero
  let d0 := rnd (v.x0.mul (blockVal blk 0))
  let d1 := rnd (v.y0.mul (blockVal blk 4))
  let d2 := rnd (v.x1.mul (blockVal blk 8))
  let d3 := rnd (v.y1.mul (blockVal blk 0x0C))
  let clamp := blockVal blk 0x10
  let c : Val × Val × Val × Val :=
    if flags.testBit 0 then (d0, d1, d2, d3)
    else (rnd (fma d0 (at_ 2) (at_ 0)), rnd (fma d1 (at_ 3) (at_ 1)),
          rnd ((at_ 2).mul (fexp (d2.min clamp))), rnd ((at_ 3).mul (fexp (d3.min clamp))))
  let clip (x hi : Val) : Val := if flags.testBit 1 then (x.max .zero).min hi else x
  let w := blockVal blk 0x14
  let h := blockVal blk 0x18
  [clip (minusHalf c.1 c.2.2.1) w, clip (minusHalf c.2.1 c.2.2.2) h, clip (plusHalf c.1 c.2.2.1) w, clip (plusHalf c.2.1 c.2.2.2) h]

/-- Decode box n: SCORE, CLASS and IMAGE are copied, and SOURCE is n. -/
def State.decodePart (s : State) (p : Pour) (blk : List Byte) (n : Nat) : Part :=
  let anchors := !(blockWord blk 0x1C).testBit 0
  let qs := [s.recSpan p p.dA (p.dA.addr + 32 * n) 32] ++ (if anchors then [s.recSpan p p.dB (p.dB.addr + 16 * n) 16] else [])
  s.readThen s p qs (fun rs s1 =>
    let raw := gotBytes rs 0
    let out := fp32Bytes (decodeBox blk (boxOf raw) (fp32s 4 (gotBytes rs 1))) ++ (raw.drop 0x10).take 8 ++ leBytes n 4 ++ leBytes 0 4
    s.onePiece s1 p (p.dOut.addr + 32 * n) out)

/-! ### NMS (R394 to R397) -/

/-- A comes before B in the order of the sort: SCORE descending, then SOURCE ascending. -/
def nmsBefore (a b : BoxRec) : Bool := b.score.lt a.score || (!a.score.lt b.score && decide (a.source < b.source))

/-- Insert a record behind those that come before it or are its equals. -/
def nmsInsert (x : BoxRec) : List BoxRec → List BoxRec
  | [] => [x]
  | y :: r => if nmsBefore x y then x :: y :: r else y :: nmsInsert x r

/-- The records in order; equals keep their input order. -/
def nmsSort (l : List BoxRec) : List BoxRec := l.foldl (fun acc x => nmsInsert x acc) []

/-- The area of a box, as the pseudocode rounds it. -/
def boxArea (a : BoxRec) : Val :=
  rnd (((rnd (a.x1.add a.x0.neg)).max .zero).mul ((rnd (a.y1.add a.y0.neg)).max .zero))

/-- The intersection over union of two boxes (R394). -/
def iou (a b : BoxRec) : Val :=
  let iw := (rnd ((a.x1.min b.x1).add (a.x0.max b.x0).neg)).max .zero
  let ih := (rnd ((a.y1.min b.y1).add (a.y0.max b.y0).neg)).max .zero
  let inter := rnd (iw.mul ih)
  let un := rnd ((rnd ((boxArea a).add (boxArea b))).add inter.neg)
  if un.isNan || inter.isNan then .nan
  else if Val.zero.lt un then divRnd inter un else .zero

/-- Keep boxes of a sorted list: each kept one suppresses the later ones that overlap it beyond the limit. -/
def nmsKeep (limit : Val) : Nat → List BoxRec → List BoxRec
  | 0, _ => []
  | _ + 1, [] => []
  | n + 1, b :: r => b :: nmsKeep limit n (r.filter (fun x => !limit.lt (iou b x)))

/-- The boxes that NMS keeps of class c. -/
def nmsClass (blk : List Byte) (c : Nat) (l : List BoxRec) : List BoxRec :=
  let agnostic := blockWord blk 0x0C = 1
  let least := blockVal blk 4
  let mine := l.filter (fun b => (agnostic || b.cls = c) && !b.score.isNan && !least.isNan && !b.score.lt least)
  nmsKeep (blockVal blk 0) (blockWord blk 8) (nmsSort mine)

/-- The bytes that NMS writes: the counts and the slots (R397). -/
def nmsOut (blk : List Byte) (m : Nat) (l : List BoxRec) : List Byte :=
  let keep := blockWord blk 8
  let kept := (List.range m).map (fun c => nmsClass blk c l)
  padTo (kept.map (fun k => leBytes k.length 4)).flatten (nmsCounts m) 0
  ++ (kept.map (fun k => padTo (k.map (fun b => b.bytes.take 0x1C ++ leBytes 0 4)).flatten (32 * keep) 0)).flatten

/-- NMS in one part: it writes only after its last read (R404). -/
def State.nmsPart (s : State) (p : Pour) (blk : List Byte) (_ : Nat) : Part :=
  s.readThen s p [s.recSpan p p.dA p.dA.addr (32 * p.n)] (fun rs s1 =>
    let l := (chunks 32 p.n (gotBytes rs 0)).map boxOf
    s.onePiece s1 p p.dOut.addr (nmsOut blk p.m l))

/-! ### Bilinear samples (R398) -/

/-- ⌊x⌋ of a finite value. -/
def floorVal : Val → Int
  | .fin neg m e =>
    let n : Int := if neg then -(m : Int) else m
    if 0 ≤ e then n * (pow2 e.toNat : Nat) else n / (pow2 (-e).toNat : Nat)
  | _ => 0

/-- A coordinate clamped to an axis of n pixels. -/
def clampIdx (n : Nat) (i : Int) : Nat := (max 0 (min i (n - 1 : Int))).toNat

/-- The two pixels that a coordinate falls between, and the fraction: an infinite or NaN coordinate gives a NaN fraction. -/
def sampleAt (n : Nat) (x : Val) : Nat × Nat × Val :=
  match x with
  | .fin neg m e =>
    let j := floorVal (.fin neg m e)
    (clampIdx n j, clampIdx n (j + 1), rnd ((Val.fin neg m e).add (.ofDy ⟨-j, 0⟩)))
  | .inf false => (n - 1, n - 1, .nan)
  | _ => (0, 0, .nan)

/-- a + f · (b − a) as the pseudocode rounds it. -/
def lerp (f a b : Val) : Val := rnd (fma f (rnd (b.add a.neg)) a)

/-- The bilinear sample of four pixels. -/
def bilinear (fy fx p00 p01 p10 p11 : Val) : Val := lerp fy (lerp fx p00 p01) (lerp fx p10 p11)

/-- The value of channel ch of a pixel's bytes. -/
def pixelVal (fmt : Nat) (l : List Byte) (ch : Nat) : Val :=
  let e := elemBits fmt / 8
  elemVal fmt (leNat ((l.drop (ch * e)).take e))

/-- The bytes of a pixel from its channels. -/
def pixelBytes (fmt : Nat) (l : List Val) : List Byte :=
  (l.map (fun v => leBytes ((fpOf fmt).ofVal .nearest v) (elemBits fmt / 8))).flatten

/-- A coordinate n + 1/2 of a pixel centre. -/
def centre (n : Nat) : Val := .fin false (2 * n + 1) (-1)

/-- The four corners of a box are finite. -/
def BoxRec.finite (b : BoxRec) : Bool := !b.x0.special && !b.y0.special && !b.x1.special && !b.y1.special

/-- The pixel of a table of pixels read, at row and column. -/
def pixelOf (tbl : List ((Nat × Nat) × List Byte)) (i j : Nat) : List Byte :=
  match tbl.find? (fun e => e.1 = (i, j)) with
  | some e => e.2
  | none => []

/-- The pixels, as row and column, that samples touch. -/
def touched (rows cols : List (Nat × Nat × Val)) : List (Nat × Nat) :=
  let ends (l : List (Nat × Nat × Val)) : List Nat := ((l.map (fun x => [x.1, x.2.1])).flatten).eraseDups
  ((ends rows).map (fun i => (ends cols).map (fun j => (i, j)))).flatten

/-- The pixels that samples touch, in the order of the samples. -/
def touchedBy (l : List ((Nat × Nat × Val) × (Nat × Nat × Val))) : List (Nat × Nat) :=
  ((l.map (fun e => [(e.1.1, e.2.1), (e.1.1, e.2.2.1), (e.1.2.1, e.2.1), (e.1.2.1, e.2.2.1)])).flatten).eraseDups

/-- The samples of a window of rows and columns: the pixels of each, by rows. -/
def sampleAll (fmt c : Nat) (tbl : List ((Nat × Nat) × List Byte)) (rows cols : List (Nat × Nat × Val)) : List (List (List Val)) :=
  rows.map (fun r => cols.map (fun k => (List.range c).map (fun ch =>
    let at_ (i j : Nat) : Val := pixelVal fmt (pixelOf tbl i j) ch
    bilinear r.2.2 k.2.2 (at_ r.1 k.1) (at_ r.1 k.2.1) (at_ r.2.1 k.1) (at_ r.2.1 k.2.1))))

/-! ### CROP (R398, R399) -/

/-- The pixel address of an image (R390). -/
def Images.pixel (g : Images) (d : Desc) (n y x : Nat) : Nat := d.addr + n * g.stride + y * g.pitch + x * g.c * d.elem

/-- The coordinate of crop pixel u along an axis (R398). -/
def cropCoord (lo hi : Val) (size u : Nat) : Val :=
  let sc := divRnd (rnd (hi.add lo.neg)) (.ofNat size)
  minusHalf (rnd (fma (centre u) sc lo)) (.ofNat 1)

/-- Crop box n. -/
def State.cropPart (s : State) (p : Pour) (blk : List Byte) (n : Nat) : Part :=
  let g := imagesOf blk
  let a := p.dA
  let o := p.dOut
  let put (s1 : State) (data : List Byte) : Part := s.onePiece s1 p (o.addr + n * g.cropBytes o.elem) data
  s.readThen s p [s.recSpan p p.dB (p.dB.addr + 32 * n) 32] (fun rs s1 =>
    let b := boxOf (gotBytes rs 0)
    let all (v : Val) : List Byte := (List.replicate (g.cw * g.ch) (pixelBytes o.fmt (List.replicate g.c v))).flatten
    if !b.finite then put s1 (all .nan)
    else if g.count ≤ b.image then put s1 (all .zero)
    else
      let cols := (List.range g.cw).map (fun u => sampleAt g.w (cropCoord b.x0 b.x1 g.cw u))
      let rows := (List.range g.ch).map (fun v => sampleAt g.h (cropCoord b.y0 b.y1 g.ch v))
      let px := touched rows cols
      s.readThen s1 p (px.map (fun e => s1.recSpan p a (g.pixel a b.image e.1 e.2) (g.c * a.elem))) (fun rs s2 =>
        let tbl := px.zip (rs.map (·.bytes))
        put s2 (((sampleAll a.fmt g.c tbl rows cols).flatten.map (pixelBytes o.fmt)).flatten)))

/-! ### PASTE (R400, R401) -/

/-- The coordinate in a crop of pixel x of an image (R401). -/
def pasteCoord (lo hi : Val) (size x : Nat) : Val :=
  let k := divRnd (.ofNat size) (rnd (hi.add lo.neg))
  minusHalf (rnd ((rnd ((centre x).add lo.neg)).mul k)) (.ofNat 1)

/-- The distances of a pixel centre from the two sides along an axis, the smaller of them. -/
def sideDist (lo hi : Val) (x : Nat) : Val := (rnd ((centre x).add lo.neg)).min (rnd (hi.add (centre x).neg))

/-- The pixels of an axis whose centre lies in [lo, hi). -/
def inSide (lo hi : Val) (n : Nat) : List Nat :=
  (List.range n).filter (fun x => !lo.isNan && !(centre x).lt lo && (centre x).lt hi)

/-- The pixel that PASTE writes (R401). -/
def pastePixel (feather : Val) (fmt : Nat) (d : Val) (samples : List Val) (old : List Byte) : List Byte :=
  let alpha := if feather.isZero then Val.ofNat 1 else (divRnd d feather).min (.ofNat 1)
  pixelBytes fmt (samples.zipIdx.map (fun e =>
    let img := pixelVal fmt old e.2
    rnd (fma alpha (rnd (e.1.add img.neg)) img)))

/-- The pieces of a pasted box, a row of pixels each, up to the first pixel whose reads failed, with its stop. -/
def pasteRows : List (Nat × List (List Byte × Option Stop)) → List (Nat × List Byte) × Option Stop
  | [] => ([], none)
  | (a, cells) :: r =>
    let good := cells.takeWhile (fun c => c.2.isNone)
    match (cells.drop good.length).head?.bind (·.2) with
    | some x => (if good.isEmpty then [] else [(a, (good.map (·.1)).flatten)], some x)
    | none =>
      let rest := pasteRows r
      ((a, (good.map (·.1)).flatten) :: rest.1, rest.2)

/-- The byte that pieces hold at an address, the last of them that covers it. -/
def pieceByte (l : List (Nat × List Byte)) (a : Nat) : Option Byte :=
  l.reverse.findSome? (fun e => if e.1 ≤ a then e.2[a - e.1]? else none)

/-- The rows of an image on another part as they are sent, in whole words (R634): around and behind the pixels of a row stand the bytes that earlier
rows of the box have written there, else those read. `old` gives the bytes read. -/
def wholeRows (old : Nat → Byte) : List (Nat × List Byte) → List (Nat × List Byte) → List (Nat × List Byte)
  | acc, [] => acc
  | acc, (a, data) :: r =>
    let lo := a - a % 8
    let hi := ceilDiv (a + data.length) 8 * 8
    let byte (x : Nat) : Byte := (if a ≤ x then data[x - a]? else none).getD ((pieceByte acc x).getD (old x))
    wholeRows old (acc ++ [(lo, (List.range (hi - lo)).map (fun i => byte (lo + i)))]) r

/-- Paste crop n into its image, by rows and then columns (log entry 35). A request that is refused ends the box before the first pixel that needs
it, and the pixels before it are written (R404, R962). -/
def State.pastePart (s : State) (p : Pour) (blk : List Byte) (n : Nat) : Part :=
  let g := imagesOf blk
  let a := p.dA
  let o := p.dOut
  s.readThen s p [s.recSpan p p.dB (p.dB.addr + 32 * n) 32] (fun rs s1 =>
    let b := boxOf (gotBytes rs 0)
    if g.count ≤ b.image then .next s1 (p.holdsAt []) else
    let xs := inSide b.x0 b.x1 g.w
    let ys := inSide b.y0 b.y1 g.h
    if xs.isEmpty || ys.isEmpty then .next s1 (p.holdsAt []) else
    let cols := xs.map (fun x => sampleAt g.cw (pasteCoord b.x0 b.x1 g.cw x))
    let rows := ys.map (fun y => sampleAt g.ch (pasteCoord b.y0 b.y1 g.ch y))
    let cells := (rows.map (fun r => cols.map (fun k => (r, k)))).flatten
    let px := (ys.map (fun y => xs.map (fun x => (y, x)))).flatten
    let rowAddr (y : Nat) : Nat := g.pixel o b.image y (xs.headD 0)
    let srcQ (k : Nat) : List Span := (touchedBy (cells.take k)).map (fun e =>
      s1.recSpan p a (a.addr + n * g.cropBytes a.elem + (e.1 * g.cw + e.2) * g.c * a.elem) (g.c * a.elem))
    let pxQ (k : Nat) : List Span := (px.take k).map (fun e => s1.recSpan p o (g.pixel o b.image e.1 e.2) (g.c * o.elem))
    let edgeQ (k : Nat) : List Span :=
      ((ys.take (ceilDiv k xs.length)).map (fun y => s1.edgeSpans p (rowAddr y) (xs.length * g.c * o.elem))).flatten
      ++ (match (px.take k).getLast? with
        | some e => s1.edgeSpans p (g.pixel o b.image e.1 e.2) (g.c * o.elem)
        | none => [])
    let qs (k : Nat) : List Span := srcQ k ++ pxQ k ++ edgeQ k
    match s1.fetchMost p.runnerWho (some p.id) qs cells.length 0 with
    | (0, code, _) => .fault { code := code } s1 p
    | (_, _, .wait s2) => .wait { s with tc2 := s2.tc2, tc2Next := s2.tc2Next, ports := s2.ports } p
    | (_, _, .fail code s2) => .fault { code := code } s2 p
    | (k, code, .got rs s2) =>
      let src := touchedBy (cells.take k)
      let tbl := src.zip (rs.map (·.bytes))
      let bad := src.zip (((srcQ k).zip rs).map (fun e => loadStop [e.1] [e.2]))
      let olds := (rs.drop src.length).take k
      let samples := (sampleAll a.fmt g.c tbl rows cols).flatten
      let stopOf (i : Nat) : Option Stop :=
        if k ≤ i then some { code := code } else
        let here : List Stop := match cells[i]? with
          | some (r, c) => (bad.filter (fun e => (e.1.1 = r.1 || e.1.1 = r.2.1) && (e.1.2 = c.1 || e.1.2 = c.2.1))).filterMap (·.2)
          | none => []
        here.head?.or (loadStop (((pxQ k)[i]?).toList) ((olds[i]?).toList))
      let cell (yi xi : Nat) : List Byte × Option Stop :=
        let i := yi * xs.length + xi
        let dist := (sideDist b.x0 b.x1 ((xs[xi]?).getD 0)).min (sideDist b.y0 b.y1 ((ys[yi]?).getD 0))
        (pastePixel (blockVal blk 4) o.fmt dist ((samples[i]?).getD []) (((olds[i]?).getD ({ bytes := [] } : RdRes)).bytes), stopOf i)
      let whole := pasteRows (ys.zipIdx.map (fun e => (rowAddr e.1, (List.range xs.length).map (cell e.2))))
      let read : List (Nat × List Byte) := ((qs k).map (·.key)).zip (rs.map (·.bytes))
      let pieces := if farKey o.addr then wholeRows (fun x => (pieceByte (read.drop src.length) x).getD 0) [] whole.1 else whole.1
      .next s2 (p.holdsAt pieces whole.2))

/-! ### Running -/

/-- The output ranges of a region pour for its run-time extents, an image row each for PASTE. -/
def Pour.regionOut (p : Pour) (blk : List Byte) : List (Nat × Nat) :=
  let g := imagesOf blk
  match p.subop with
  | 1 => [(p.dOut.addr, 32 * p.n)]
  | 4 => ((List.range g.count).map (fun n => (List.range g.h).map (fun y => (g.pixel p.dOut n y 0, g.w * g.c * p.dOut.elem)))).flatten
  | _ => ((p.regionRangesAt blk p.m p.n).filter (fun r => r.right = .write)).map (fun r => (r.addr, r.len))

/-- What a region pour reads for its run-time extents, the images that PASTE reads in place apart (R392). -/
def Pour.regionIn (p : Pour) (blk : List Byte) : List (Nat × Nat) :=
  let records (d : Desc) : List (Nat × Nat) := [(d.addr, 32 * p.n)]
  let ranges := (p.regionRangesAt blk p.m p.n).filter (fun r => r.right = .read)
  (p.biasAddr, 64) :: ((if p.subop = 4 then ranges.take 1 else ranges).map (fun r => (r.addr, r.len)))
  ++ (if p.subop = 1 || p.subop = 2 then records p.dA else records p.dB)

/-- The output of a region pour overlaps what it reads: all of it is undefined (R392). -/
def Pour.regionClash (p : Pour) (blk : List Byte) : Bool :=
  (p.regionIn blk).any (fun i => (p.regionOut blk).any (fun o => overlap i.1 i.2 o.1 o.2))

/-- An undefined output, written as free values. -/
def State.clashPart (s : State) (p : Pour) (blk : List Byte) : Part :=
  let outs := p.regionOut blk
  s.fetchThen s p ((outs.map (fun r => s.edgeSpans p r.1 r.2)).flatten) (fun rs s1 =>
    .next s1 (p.holdsAt (outs.zipIdx.map (fun e =>
      mergedPiece e.1.1 (s1.freeBytes (0x700000 + e.1.1) e.1.2) ((rs.drop (2 * e.2)).take 2)))))

/-- The transfers of a region pour: a box each, or the whole of an NMS, whose pieces go to the addresses that the pour holds. -/
def regionMove (part : Pour → List Byte → State → Nat → Part) : Move :=
  let blk (p : Pour) : List Byte := (p.parts[0]?).getD []
  { count := fun p => if p.subop = 2 || p.regionClash (blk p) then 1 else p.n,
    read := fun s p n => if p.regionClash (blk p) then s.clashPart p (blk p) else part p (blk p) s n,
    pieces := fun p _ => p.words.length,
    most := fun p => if p.regionClash (blk p) then (p.regionOut (blk p)).length else (imagesOf (blk p)).h + 1,
    place := fun p _ k => (p.words.getD k 0, 0) }

/-- Accept a region pour: its form, its extents, its parameter block and the ranges that the block gives (R156, R162, R172, R384 to R388). A
pour without work is checked in full and ends. -/
def State.acceptRegion (s : State) (p : Pour) (go : State → Pour → State) : State :=
  if !p.regionOk then s.faultPour p cFormatInvalid 0
  else if p.overflows then s.faultPour p cShapeOverflow 0
  else
    let q : Span := { hint := s.hintOf p.flask p.biasAddr 64 0 .read, key := p.biasAddr, len := 64 }
    match s.fetch p.runnerWho (some p.id) [q] with
    | .wait s1 => s1
    | .fail c s1 => s1.faultPour p c 0
    | .got rs s1 =>
      let blk := gotBytes rs 0
      match loadStop [q] rs with
      | some x => s1.faultPour p x.code x.detail x.failed
      | none =>
        if !p.blockOk blk then s1.faultPour p cFormatInvalid 0
        else if (p.regionRanges blk).any (fun r => !(s1.asPour p.id).allowed p.flask r.addr r.len r.right) then s1.faultPour p cSegmentFault 0
        else if p.zeroSize then s1.onPour p.id (fun q => { q with stage := .ran, evaluated := true })
        else go s1 { p with stage := .running, begun := true, parts := [blk] }

/-- A region unit takes a pour up or goes on with it. -/
def State.runRegion (s : State) (id : Nat) (mine : Pour → Bool) (part : Pour → List Byte → State → Nat → Part) : State :=
  match s.pour? id with
  | none => s
  | some p =>
    if !s.regionMay p || !mine p then s
    else if p.stage = .running then s.runParts (regionMove part) p
    else s.acceptRegion p (fun s1 q => s1.runParts (regionMove part) q)

/-- DECODE (R393), and a REGION pour whose SUBOP names no operation, which faults when its unit accepts it (R384). -/
def execDecode (id : Nat) (s : State) : Host.Outcome State Fault Refusal :=
  done (s.runRegion id (fun p => p.subop ≠ 2 && p.subop ≠ 3 && p.subop ≠ 4) (fun p blk s n => s.decodePart p blk n))

/-- NMS (R394). -/
def execNms (id : Nat) (s : State) : Host.Outcome State Fault Refusal :=
  done (s.runRegion id (fun p => p.subop = 2) (fun p blk s n => s.nmsPart p blk n))

/-- CROP (R398). -/
def execCrop (id : Nat) (s : State) : Host.Outcome State Fault Refusal :=
  done (s.runRegion id (fun p => p.subop = 3) (fun p blk s n => s.cropPart p blk n))

/-- PASTE (R401). -/
def execPaste (id : Nat) (s : State) : Host.Outcome State Fault Refusal :=
  done (s.runRegion id (fun p => p.subop = 4) (fun p blk s n => s.pastePart p blk n))

end Sys2Proof.Machine
end

