-- ==== Sys2Proof/Machine/Secure.lean ====
section
/-!
DEFINITION. The secure mailboxes and the secure command set: certificates and evidence, firmware, debug, retirement, the contrail
commands and the traffic generators (R905 to R943, R1020, R1021, R1037 to R1041), and the end of a mailbox command.
-/
namespace Sys2Proof.Machine

/-! ### Return codes (R943) -/

def secUnknownCmd : Nat := 0x0201
def secBadArg : Nat := 0x0202
def secAuthFail : Nat := 0x0203
def secRollback : Nat := 0x0204
def secState : Nat := 0x0205
def secFlaskActive : Nat := 0x0206
def secNotPermitted : Nat := 0x0207
def secFlashError : Nat := 0x0208
def secKeysExhausted : Nat := 0x0209

/-! ### SEC_BUF (R937, R938) -/

/-- BUF_DATA_ACCESS (R937): a read or a write of 4 bytes at BUF_PTR, which then advances. -/
def execBufDataAccess (value : Option Word32) (s : State) : Host.Outcome State Fault Refusal :=
  let p := s.rd .bufPtr
  let s1 := match value with
    | some v => s.bufPut p (leBytes v.toNat 4)
    | none => s.send (.data (s.bufBytes p 4) false)
  done (if s.island then s1.wr .bufPtr 0 ((p + 4) % 32768) else s)

/-! ### Taking a secure command (R936, R939) -/

/-- The secure command that is taken next: the two channels in turn; none while one runs. -/
def State.nextSecure (s : State) : Option BoxCmd :=
  if s.mbox.secRunning.isSome || !(s.start.imageRuns || s.phase = .recovery) then none else
  let a := s.posted .secPf1
  let b := s.posted .secMgmt
  if s.mbox.secLast = 0 then b.or a else a.or b

/-- Run a secure command of a box when it is the one taken next and has this code. `rec` marks a command that recovery accepts: in
recovery no other is answered (R911). A RETIRED part answers GET_CERT alone, whatever the source (R935). A request register that the command
does not name is not looked at (log entry 23). An error changes nothing (R941) but what the
command returns for it. -/
def State.runSecure (s : State) (box : Box) (code : Nat) (p m rec : Bool) (fields : List (Nat × Nat))
    (f : BoxCmd → State → CmdResult) : State :=
  match s.nextSecure with
  | none => s
  | some c =>
    if c.box ≠ box || c.cmd ≠ code || (s.phase = .recovery && !rec) then s else
    let r : CmdResult :=
      if s.sec.lifecycle = 0xF && code ≠ 0x01 then failCmd s secRetired
      else if !(if box = .secPf1 then p else m) then failCmd s secNotPermitted
      else if fields.any (fun e => c.d e.1 &&& (2 ^ 32 - 1 - e.2) ≠ 0) then failCmd s secBadArg
      else f c s
    let s1 := if r.1 = 0 then r.2.2.chain (0x100 + code) (c.d 0) else r.2.2
    let c1 : BoxCmd := { c with done := true, rc := r.1, resp := r.2.1.map (fun e => (e.1, BitVec.ofNat 32 e.2)) }
    { s1 with mbox := { s1.mbox with secRunning := some c1, secLast := if box = .secPf1 then 0 else 1 } }

/-- The codes of the secure command set (R939, R1037). -/
def knownSecure (c : Nat) : Bool := (decide (0x01 ≤ c) && decide (c ≤ 0x0D)) || (decide (0x10 ≤ c) && decide (c ≤ 0x12))

/-- TGEN_RUN ends: each stack that it reports failed writes one TGEN_FAIL entry (R1041). -/
def State.endTgen (s : State) (c : BoxCmd) : State :=
  if c.cmd ≠ 0x10 || c.rc ≠ 0 then s else
  (bitList (respReg c 1) 16).foldl (fun (s : State) st =>
    let r := Sp.getD s.tgen st (0, 0, 0)
    s.contrailAdd 0x0E 0 0 (leBytes st 4 ++ leBytes r.1 8 ++ leBytes r.2.1 4 ++ leBytes r.2.2 4)) s

/-- MBOX_COMMAND_END (R864, R867, R873, R879, R940): the command that has run is answered; a posted command with no code of its set is
taken and answered so. -/
def execMboxCommandEnd (secure : Bool) (s : State) : Host.Outcome State Fault Refusal :=
  done (
    if secure then
      match s.mbox.secRunning with
      | some c => ({ s.endTgen c with mbox := { s.mbox with secRunning := none } }).publish c
      | none =>
        match s.nextSecure with
        | none => s
        | some c =>
          if knownSecure c.cmd || s.phase = .recovery then s
          else
            ({ s with mbox := { s.mbox with secLast := if c.box = Box.secPf1 then 0 else 1 } }).publish
              { c with rc := if s.sec.lifecycle = 0xF then secRetired else secUnknownCmd }
    else
      match s.mbox.running with
      | some c => if c.done then ({ s with mbox := { s.mbox with running := none } }).publish c else s
      | none =>
        match s.nextCommand with
        | none => s
        | some c =>
          if knownCommand c.cmd then s
          else
            ({ s with mbox := { s.mbox with lastTaken := boxPlace c.box } }).publish
              { c with rc := if s.phase = Phase.recovery then mbNotReady else if s.sec.lifecycle = 0xF then secRetired else mbUnknownCmd })

/-! ### Certificates and evidence (R918 to R926) -/

/-- GET_CERT (R939). -/
def execGetCert (box : Box) (s : State) : Host.Outcome State Fault Refusal :=
  done (s.runSecure box 0x01 true true true [(0, 3)] (fun c s =>
    if c.d 0 = 3 then failCmd s secBadArg
    else
      let cert := (Config.certificate (c.d 0)).take 32768
      okCmd (s.bufPut 0 cert) [(0, cert.length)]))

/-- The fixed part of an evidence record, bytes 0x000 to 0x11F (R924). A configuration record that no READY has fixed yet, in a
start-up, is a free value (log entry 27). -/
def State.evidence (s : State) (nonce : List Byte) : List Byte :=
  let config := if s.sec.config = [] then Config.random s.fresh else Config.sha384 s.sec.config
  leBytes 0x56455758 4 ++ leBytes 1 2 ++ leBytes s.sec.lifecycle 1 ++ leBytes 0xB1 1 ++ leBytes s.fff 4
    ++ leBytes s.sec.svn 1 ++ leBytes s.sec.tokenSvn 1 ++ leBytes s.sec.unlockCount 2 ++ padTo s.sec.serial 16 0 ++ padTo nonce 48 0
    ++ leBytes (if s.timeLock then s.now else 0) 8 ++ leBytes s.sec.bootCount.toNat 8
    ++ padTo (Config.sha384 Config.bootRom) 48 0 ++ padTo (Config.sha384 (s.bankBytes s.start.runBank 0 0x70)) 48 0
    ++ padTo config 48 0 ++ padTo s.sec.events 48 0

/-- GET_EVIDENCE (R921, R922, R924, R928): the advanced HSS index is written before the signature leaves. -/
def execGetEvidence (box : Box) (s : State) : Host.Outcome State Fault Refusal :=
  done (s.runSecure box 0x02 true true false [] (fun _ s =>
    if s.sec.lifecycle = 1 then failCmd s secState
    else if 2 ^ 40 ≤ s.sec.hssIndex then failCmd s secKeysExhausted
    else
      let body := s.evidence (s.bufBytes 0 48)
      let digest := Config.sha384 body
      let record := body ++ padTo (Config.ecdsaSign s.sec.ecdsaKey s.fresh digest) 96 0
        ++ padTo (Config.hssSign s.sec.hssKey s.sec.hssIndex digest) 5716 0
      okCmd (({ s with sec := { s.sec with hssIndex := s.sec.hssIndex + 1, hssCopy := s.sec.hssIndex + 1 } }).bufPut 0 record) [(0, 6100)]))

/-! ### Firmware (R912 to R917, R942) -/

/-- A unit of the NOR from one number on up to another fails to program (R943). -/
def SecRt.norFails (x : SecRt) (first count : Nat) : Bool := x.badUnits.any (fun u => decide (first ≤ u) && decide (u < first + count))

/-- FW_BEGIN (R916, R943): the idle bank is erased, and marked invalid until FW_VERIFY passes on it. -/
def execFwBegin (box : Box) (s : State) : Host.Outcome State Fault Refusal :=
  done (s.runSecure box 0x03 true true true [] (fun _ s =>
    match s.idleBank with
    | some b =>
      if s.sec.lifecycle = 1 then failCmd s secState
      else if s.sec.norFails (4096 * b) 4096 then failCmd s secFlashError
      else
        let x : SecRt := { s.sec with
          bank := s.sec.bank.filter (fun e => e.1 / 4096 ≠ b)
          verified := none
          unverified := b :: s.sec.unverified.filter (fun x => x ≠ b) }
        okCmd { s with sec := x } [(0, b)]
    | none => failCmd s secState))

/-- FW_WRITE (R916, R943): D1 bytes of SEC_BUF at a 32 KiB unit of the idle bank. -/
def execFwWrite (box : Box) (s : State) : Host.Outcome State Fault Refusal :=
  done (s.runSecure box 0x04 true true true [] (fun c s =>
    if 4096 ≤ c.d 0 || c.d 1 < 4 || 32768 < c.d 1 then failCmd s secBadArg
    else
      match s.idleBank with
      | some b =>
        let u := 4096 * b + c.d 0
        if s.sec.lifecycle = 1 then failCmd s secState
        else if s.sec.norFails u 1 then failCmd s secFlashError
        else
          let old := Sp.getD s.sec.bank u (List.replicate 32768 0xFF)
          let new := s.bufBytes 0 (c.d 1) ++ old.drop (c.d 1)
          okCmd { s with sec := { s.sec with bank := Sp.put s.sec.bank u new, verified := none } }
      | none => failCmd s secState))

/-- FW_VERIFY (R907): D0 is the first failing step; RC by what failed (log entry 28). -/
def execFwVerify (box : Box) (s : State) : Host.Outcome State Fault Refusal :=
  done (s.runSecure box 0x05 true true true [] (fun _ s =>
    match s.idleBank with
    | some b =>
      let step := s.imageCheck b
      if s.sec.lifecycle = 1 then failCmd s secState
      else if step = 0 then okCmd { s with sec := { s.sec with verified := some b, unverified := s.sec.unverified.filter (fun x => x ≠ b) } } [(0, 0)]
      else (if step = 6 then secRollback else if step ≤ 2 then secBadArg else secAuthFail, [(0, step)], s)
    | none => failCmd s secState))

/-- The contrail ARG of a firmware entry: command, bank, counters 0 and 1. -/
def State.firmwareEntry (s : State) (cmd bank : Nat) : State :=
  s.contrailAdd 0x0B 0 0 (leBytes cmd 4 ++ leBytes bank 4 ++ leBytes s.sec.svn 4 ++ leBytes s.sec.tokenSvn 4)

/-- FW_ACTIVATE (R913, R942). -/
def execFwActivate (box : Box) (s : State) : Host.Outcome State Fault Refusal :=
  done (s.runSecure box 0x06 true true true [] (fun _ s =>
    match s.idleBank with
    | some b =>
      if s.sec.verified = some b then okCmd (({ s with sec := s.sec.setRecord s.sec.preferred (some b) }).firmwareEntry 0x06 b)
      else failCmd s secState
    | none => failCmd s secState))

/-- FW_COMMIT (R914, R917, R943): the running image's bank becomes PREFERRED; with ADVANCE the counters are raised first. -/
def execFwCommit (box : Box) (s : State) : Host.Outcome State Fault Refusal :=
  done (s.runSecure box 0x07 true true false [(0, 1)] (fun c s =>
    let b := s.start.runBank
    let h := s.bankBytes b 0 16
    let svn := leNat ((h.drop 8).take 1)
    let floor := leNat ((h.drop 9).take 1)
    if !s.start.imageRuns then failCmd s secState
    else if c.d 0 = 1 && (decide (64 < svn) || decide (64 < floor)) then failCmd s secRollback
    else if s.sec.badFuses && c.d 0 = 1 && (decide (s.sec.svn < svn) || decide (s.sec.tokenSvn < floor)) then failCmd s secFlashError
    else
      let x := s.sec.setRecord b s.sec.trial
      let x1 : SecRt := { x with
        svn := if c.d 0 = 1 then max x.svn svn else x.svn
        tokenSvn := if c.d 0 = 1 then max x.tokenSvn floor else x.tokenSvn }
      okCmd (({ s with sec := x1 }).firmwareEntry 0x07 b) [(0, x1.svn), (1, x1.tokenSvn)]))

/-! ### Lifecycle, debug and retirement (R927 to R935) -/

/-- A lifecycle change: its contrail entry and its event (R926, R927, R1012). -/
def State.setLifecycle (s : State) (new : Nat) : State :=
  ((s.contrailAdd 0x0A 0 0 (leBytes s.sec.lifecycle 4 ++ leBytes new 4)).chain 0x0A new |> fun s =>
    { s with sec := { s.sec with lifecycle := new } })

/-- DEBUG_CHALLENGE (R930). -/
def execDebugChallenge (box : Box) (s : State) : Host.Outcome State Fault Refusal :=
  done (s.runSecure box 0x08 true true false [] (fun _ s =>
    let nonce := padTo (Config.random s.fresh) 48 0
    okCmd (({ s with sec := { s.sec with challenge := some (nonce, s.now) } }).bufPut 0 nonce)))

/-- A flask is ENABLED, a GiB is LENT or a bay is MAPPED (R931, R1038). -/
def State.flaskActive (s : State) : Bool :=
  (List.range 64).any (fun f => s.bit .flaskEnabled f) || (List.range 1536).any (fun g => s.bit .lent g)
    || (List.range 4096).any (fun b => s.rd .bayState b = 1)

/-- What R933 clears before a scope opens: every array store and bank, and the cache, whose dirty lines are written back. -/
def State.clearForDebug (s : State) : State :=
  { s with
    arrays := (List.range 512).map (fun a => (a, (s.array a).cleared))
    mem := s.cache.foldl (fun m d => d.2.foldl (fun m l => if l.dirty then m.writeBack l.line else m) m) s.mem
    cache := [] }

/-- DEBUG_UNLOCK (R930 to R933, R1032). The challenge is spent in every case. -/
def execDebugUnlock (box : Box) (s : State) : Host.Outcome State Fault Refusal :=
  done (s.runSecure box 0x09 true true false [] (fun _ s0 =>
    let s : State := { s0 with sec := { s0.sec with challenge := none } }
    let t := s.bufBytes 0 3052
    let f (off n : Nat) : List Byte := (t.drop off).take n
    let digest := Config.sha384 (t.take 0x80)
    let scope := leNat (f 0x54 4)
    let nonceOk := match s0.sec.challenge with
      | some (n, at0) => n = f 0x20 48 && decide (s.now < at0 + 60000000000)
      | none => false
    let zeros := (f 0x04 12).all (· = 0) && (f 0x51 3).all (· = 0) && (f 0x58 40).all (· = 0)
    if s.sec.lifecycle ≠ 2 then failCmd s secState
    else if s.flaskActive then failCmd s secFlaskActive
    else if leNat (f 0 4) ≠ 0x4B545758 || !zeros || decide (4 ≤ scope) then failCmd s secBadArg
    else if !Config.ecdsaVerify keyDebug digest (f 0x80 96) || !Config.lmsVerify keyDebug digest (t.drop 0xE0)
        || f 0x10 16 ≠ padTo s.sec.serial 16 0 || !nonceOk || decide (leNat (f 0x50 1) < s.sec.tokenSvn) then failCmd s secAuthFail
    else
      let s1 := s.clearForDebug.setLifecycle 3
      let n := s1.sec.unlockCount + 1
      let s2 : State := { s1 with sec := { s1.sec with scope := scope, unlockCount := n } }
      okCmd (s2.contrailAdd 0x09 0 0 (leBytes scope 4 ++ leBytes n 4))))

/-- RETIRE_ARM (R939). -/
def execRetireArm (box : Box) (s : State) : Host.Outcome State Fault Refusal :=
  done (s.runSecure box 0x0A false true false [] (fun _ s =>
    let code := padTo (Config.random s.fresh) 16 0
    let w (i : Nat) : Nat := leNat ((code.drop (4 * i)).take 4)
    okCmd { s with sec := { s.sec with retireCode := some (code, s.now) } } [(0, w 0), (1, w 1), (2, w 2), (3, w 3)]))

/-- RETIRE (R927, R935, R939, R943). -/
def execRetire (box : Box) (s : State) : Host.Outcome State Fault Refusal :=
  done (s.runSecure box 0x0B false true false [] (fun c s =>
    let given := leBytes (c.d 0) 4 ++ leBytes (c.d 1) 4 ++ leBytes (c.d 2) 4 ++ leBytes (c.d 3) 4
    let armed := match s.sec.retireCode with
      | some (code, at0) => code = given && decide (s.now < at0 + 10000000000)
      | none => false
    if s.sec.lifecycle ≠ 2 && s.sec.lifecycle ≠ 3 then failCmd s secState
    else if !armed then failCmd s secAuthFail
    else if s.sec.badFuses then failCmd s secFlashError
    else
      let s1 := s.setLifecycle 0xF
      okCmd { s1 with sec := { s1.sec with scope := 0, hssIndex := 0, hssCopy := 0, retireCode := none, secret := List.replicate 32 0xFF } }))

/-- LIFECYCLE_PRODUCTION (R927, R943). -/
def execLifecycleProduction (box : Box) (s : State) : Host.Outcome State Fault Refusal :=
  done (s.runSecure box 0x0C false true false [] (fun _ s =>
    if s.sec.lifecycle ≠ 1 then failCmd s secState
    else if s.sec.badFuses then failCmd s secFlashError
    else okCmd (s.setLifecycle 2)))

/-! ### The contrail commands (R1020, R1021, R1037) -/

/-- CONTRAIL_CLEAR (R1020, R1021): the request must name the newest first-fault entry, in the ring alone when the region was full (R1018); one
that still waits in the queue makes it fail. -/
def execContrailClear (box : Box) (s : State) : Host.Outcome State Fault Refusal :=
  done (s.runSecure box 0x0D true true false [] (fun c s =>
    let n := s.contrail.ffCount
    let newest := s.contrail.newestFault
    if n = 0 || s.contrail.queue.any (fun e => firstFaultKind e.kind) || leNat (newest.take 8) ≠ c.d2 0
        || leNat ((newest.drop 124).take 4) ≠ c.d 2 then failCmd s secBadArg
    else
      okCmd (({ s with contrail := { s.contrail with first := [], ffCount := 0, newestFault := [] } }).contrailAdd 0x0C 0 0 (leBytes n 4))))

/-- CONTRAIL_READ (R1037). -/
def execContrailRead (box : Box) (s : State) : Host.Outcome State Fault Refusal :=
  done (s.runSecure box 0x12 true true true [(0, 0x8007FFFF)] (fun c s =>
    let n := c.d 1
    if n = 0 || 256 < n then failCmd s secBadArg
    else
      let entries := (List.range n).map (fun i => s.contrail.slot (bits (c.d 0) 31 1) (bits (c.d 0) 0 19 + i))
      okCmd (s.bufPut 0 entries.flatten) [(0, n)]))

/-! ### Traffic generators (R1037 to R1041) -/

/-- What a run found in one stack: failed-channel mask, corrected and uncorrectable words. -/
def stackFinding (results : List ChannelTest) (mib st : Nat) : Nat × Nat × Nat :=
  let mine := results.filter (fun t => t.stack = st && decide (t.channel < 64))
  (bitMask (failedChannels results mib st), (mine.map (·.corrected)).sum, (mine.map (·.uncorrectable)).sum)

/-- TGEN_RUN (R1037 to R1041): `results` is what the checkers found. -/
def execTgenRun (box : Box) (results : List ChannelTest) (s : State) : Host.Outcome State Fault Refusal :=
  done (s.runSecure box 0x10 true true false [(0, 0xFFFFF)] (fun c s =>
    let chosen := bitList (c.d 0) 16
    let mib := c.d 2
    if !s.ready then failCmd s secState
    else if s.flaskActive then failCmd s secFlaskActive
    else if chosen = [] || decide (4 ≤ bits (c.d 0) 16 4) || mib = 0 || decide (s.stackGiB * 16 < mib) then failCmd s secBadArg
    else
      let s1 := s.forgetWhere (s.tested chosen mib)
      let stopped := chosen.filter (fun st => s.rd .stackClass st = 2)
      let failed := chosen.filter (fun st => !(stopped.contains st) && (stackFinding results mib st).1 ≠ 0)
      let passed := chosen.filter (fun st => !(stopped.contains st) && !(failed.contains st))
      let s2 := chosen.foldl (fun (s : State) st =>
        let r := stackFinding results mib st
        let t : State := { s with tgen := Sp.put s.tgen st r }
        (t.wr .tgenFailed st (popcount r.1 64)).wr .tgenResult st
          (if stopped.contains st then 3 else if failed.contains st then 2 else 1)) s1
      okCmd s2 [(0, bitMask passed), (1, bitMask failed), (2, bitMask stopped)]))

/-- TGEN_RESULT (R1037). -/
def execTgenResult (box : Box) (s : State) : Host.Outcome State Fault Refusal :=
  done (s.runSecure box 0x11 true true false [(0, 0xF)] (fun c s =>
    let r := Sp.getD s.tgen (c.d 0) (0, 0, 0)
    okCmd s [(0, r.1), (1, r.1 >>> 32), (2, r.2.1), (3, r.2.2)]))

end Sys2Proof.Machine
end

