-- ==== Sys2Proof/Machine/Dispatch.lean ====
section
/-!
DEFINITION. The one arm of every command: a direct call of its meaning.
-/
namespace Sys2Proof.Machine

def exec (i : Instr) (s : State) : Host.Outcome State Fault Refusal :=
  match i with
  | .vin50Rise straps => Sys2Proof.Machine.execVin50Rise straps s
  | .vin50Fall => Sys2Proof.Machine.execVin50Fall s
  | .undervoltageShutdown => Sys2Proof.Machine.execUndervoltageShutdown s
  | .overvoltageShutdown => Sys2Proof.Machine.execOvervoltageShutdown s
  | .bootRomCheckDone => Sys2Proof.Machine.execBootRomCheckDone s
  | .startCondition => Sys2Proof.Machine.execStartCondition s
  | .powerPhaseEnd ok => Sys2Proof.Machine.execPowerPhaseEnd ok s
  | .identityPhaseEnd ok => Sys2Proof.Machine.execIdentityPhaseEnd ok s
  | .recordPhaseEnd ok => Sys2Proof.Machine.execRecordPhaseEnd ok s
  | .selftestPhaseEnd arrays routers srams => Sys2Proof.Machine.execSelftestPhaseEnd arrays routers srams s
  | .stackQualificationEnd stack results => Sys2Proof.Machine.execStackQualificationEnd stack results s
  | .configPhaseEnd => Sys2Proof.Machine.execConfigPhaseEnd s
  | .perstNAssert => Sys2Proof.Machine.execPerstNAssert s
  | .perstNDeassert => Sys2Proof.Machine.execPerstNDeassert s
  | .flrPf0 => Sys2Proof.Machine.execFlrPf0 s
  | .flrVf v => Sys2Proof.Machine.execFlrVf v s
  | .vfEnableClear => Sys2Proof.Machine.execVfEnableClear s
  | .bar2Read fn off len => Sys2Proof.Machine.execBar2Read fn off len s
  | .bar2Write fn off data relaxed => Sys2Proof.Machine.execBar2Write fn off data relaxed s
  | .doorbell fn page value => Sys2Proof.Machine.execDoorbell fn page value s
  | .registerWrite port off be value => Sys2Proof.Machine.execRegisterWrite port off be value s
  | .rcCounterRead port off len => Sys2Proof.Machine.execRcCounterRead port off len s
  | .almanacNowLoRead fn => Sys2Proof.Machine.execAlmanacNowLoRead fn s
  | .semWrite n value => Sys2Proof.Machine.execSemWrite n value s
  | .cqHeadWrite f value => Sys2Proof.Machine.execCqHeadWrite f value s
  | .eqHeadWrite f value => Sys2Proof.Machine.execEqHeadWrite f value s
  | .ladleHeadWrite n value => Sys2Proof.Machine.execLadleHeadWrite n value s
  | .resume n => Sys2Proof.Machine.execResume n s
  | .abort n => Sys2Proof.Machine.execAbort n s
  | .abortCancelDone n => Sys2Proof.Machine.execAbortCancelDone n s
  | .flaskReset f => Sys2Proof.Machine.execFlaskReset f s
  | .flaskResetDone f => Sys2Proof.Machine.execFlaskResetDone f s
  | .hostIntWrite enable value => Sys2Proof.Machine.execHostIntWrite enable value s
  | .timeCfgWrite value => Sys2Proof.Machine.execTimeCfgWrite value s
  | .tickLoadArm delay => Sys2Proof.Machine.execTickLoadArm delay s
  | .almanacEntryArm e high value => Sys2Proof.Machine.execAlmanacEntryArm e high value s
  | .almanacEntryFree e high value => Sys2Proof.Machine.execAlmanacEntryFree e high value s
  | .watchAvgWrite n value => Sys2Proof.Machine.execWatchAvgWrite n value s
  | .tableRegisterWrite n reg be value => Sys2Proof.Machine.execTableRegisterWrite n reg be value s
  | .groupEntryWrite g word value => Sys2Proof.Machine.execGroupEntryWrite g word value s
  | .portCfgWrite port value => Sys2Proof.Machine.execPortCfgWrite port value s
  | .ctSelWrite mgmt value => Sys2Proof.Machine.execCtSelWrite mgmt value s
  | .ctDataRead => Sys2Proof.Machine.execCtDataRead s
  | .bufDataAccess value => Sys2Proof.Machine.execBufDataAccess value s
  | .probeCfgWrite value => Sys2Proof.Machine.execProbeCfgWrite value s
  | .errLogHeadWrite value => Sys2Proof.Machine.execErrLogHeadWrite value s
  | .mboxGo box value => Sys2Proof.Machine.execMboxGo box value s
  | .mboxCommandEnd secure => Sys2Proof.Machine.execMboxCommandEnd secure s
  | .getInfo box => Sys2Proof.Machine.execGetInfo box s
  | .flaskEnable box => Sys2Proof.Machine.execFlaskEnable box s
  | .flaskDisable box => Sys2Proof.Machine.execFlaskDisable box s
  | .setAllot box => Sys2Proof.Machine.execSetAllot box s
  | .watchAllot box => Sys2Proof.Machine.execWatchAllot box s
  | .segWrite box => Sys2Proof.Machine.execSegWrite box s
  | .segRead box => Sys2Proof.Machine.execSegRead box s
  | .almanacArm box => Sys2Proof.Machine.execAlmanacArm box s
  | .almanacFree box => Sys2Proof.Machine.execAlmanacFree box s
  | .tableWrite box => Sys2Proof.Machine.execTableWrite box s
  | .groupWrite box => Sys2Proof.Machine.execGroupWrite box s
  | .lend box => Sys2Proof.Machine.execLend box s
  | .loanEnd box => Sys2Proof.Machine.execLoanEnd box s
  | .mapBay box => Sys2Proof.Machine.execMapBay box s
  | .revokeBay box => Sys2Proof.Machine.execRevokeBay box s
  | .unmapBay box => Sys2Proof.Machine.execUnmapBay box s
  | .setModes box => Sys2Proof.Machine.execSetModes box s
  | .getPower box => Sys2Proof.Machine.execGetPower box s
  | .cfgRead box => Sys2Proof.Machine.execCfgRead box s
  | .cfgWrite box => Sys2Proof.Machine.execCfgWrite box s
  | .start box => Sys2Proof.Machine.execStart box s
  | .stop box => Sys2Proof.Machine.execStop box s
  | .getStartup box => Sys2Proof.Machine.execGetStartup box s
  | .getCert box => Sys2Proof.Machine.execGetCert box s
  | .getEvidence box => Sys2Proof.Machine.execGetEvidence box s
  | .fwBegin box => Sys2Proof.Machine.execFwBegin box s
  | .fwWrite box => Sys2Proof.Machine.execFwWrite box s
  | .fwVerify box => Sys2Proof.Machine.execFwVerify box s
  | .fwActivate box => Sys2Proof.Machine.execFwActivate box s
  | .fwCommit box => Sys2Proof.Machine.execFwCommit box s
  | .debugChallenge box => Sys2Proof.Machine.execDebugChallenge box s
  | .debugUnlock box => Sys2Proof.Machine.execDebugUnlock box s
  | .retireArm box => Sys2Proof.Machine.execRetireArm box s
  | .retire box => Sys2Proof.Machine.execRetire box s
  | .lifecycleProduction box => Sys2Proof.Machine.execLifecycleProduction box s
  | .contrailClear box => Sys2Proof.Machine.execContrailClear box s
  | .contrailRead box => Sys2Proof.Machine.execContrailRead box s
  | .tgenRun box results => Sys2Proof.Machine.execTgenRun box results s
  | .tgenResult box => Sys2Proof.Machine.execTgenResult box s
  | .mboxWord port => Sys2Proof.Machine.execMboxWord port s
  | .mboxWordTake => Sys2Proof.Machine.execMboxWordTake s
  | .tapReset => Sys2Proof.Machine.execTapReset s
  | .idcode => Sys2Proof.Machine.execIdcode s
  | .samplePreload cells => Sys2Proof.Machine.execSamplePreload cells s
  | .extest => Sys2Proof.Machine.execExtest s
  | .clamp => Sys2Proof.Machine.execClamp s
  | .highz => Sys2Proof.Machine.execHighz s
  | .bypass code => Sys2Proof.Machine.execBypass code s
  | .powerMeasurement volts amps watts => Sys2Proof.Machine.execPowerMeasurement volts amps watts s
  | .temperatureSample stackTemps dies engines => Sys2Proof.Machine.execTemperatureSample stackTemps dies engines s
  | .thermalClassExit unit => Sys2Proof.Machine.execThermalClassExit unit s
  | .beacon port => Sys2Proof.Machine.execBeacon port s
  | .delayResp port => Sys2Proof.Machine.execDelayResp port s
  | .tickInMarker => Sys2Proof.Machine.execTickInMarker s
  | .acquiringTimeout => Sys2Proof.Machine.execAcquiringTimeout s
  | .beaconSilence => Sys2Proof.Machine.execBeaconSilence s
  | .tickInSilence => Sys2Proof.Machine.execTickInSilence s
  | .holdoverLimit => Sys2Proof.Machine.execHoldoverLimit s
  | .collPhase e => Sys2Proof.Machine.execCollPhase e s
  | .slice e => Sys2Proof.Machine.execSlice e s
  | .scrub e => Sys2Proof.Machine.execScrub e s
  | .telemetry e => Sys2Proof.Machine.execTelemetry e s
  | .bayDeadline e => Sys2Proof.Machine.execBayDeadline e s
  | .heatGate e => Sys2Proof.Machine.execHeatGate e s
  | .entryWindowClose e => Sys2Proof.Machine.execEntryWindowClose e s
  | .deferLeadCheck e => Sys2Proof.Machine.execDeferLeadCheck e s
  | .shift port => Sys2Proof.Machine.execShift port s
  | .groupAbort port => Sys2Proof.Machine.execGroupAbort port s
  | .scrubPage stack => Sys2Proof.Machine.execScrubPage stack s
  | .ladleRecordDispatch n => Sys2Proof.Machine.execLadleRecordDispatch n s
  | .heatCard n => Sys2Proof.Machine.execHeatCard n s
  | .heatPassStart n => Sys2Proof.Machine.execHeatPassStart n s
  | .passBlockReady n => Sys2Proof.Machine.execPassBlockReady n s
  | .heatSectionDispatch n sec => Sys2Proof.Machine.execHeatSectionDispatch n sec s
  | .heatEnd n => Sys2Proof.Machine.execHeatEnd n s
  | .pourWaitRelease p => Sys2Proof.Machine.execPourWaitRelease p s
  | .nop p => Sys2Proof.Machine.execNop p s
  | .mm p => Sys2Proof.Machine.execMm p s
  | .mmc p => Sys2Proof.Machine.execMmc p s
  | .conv p => Sys2Proof.Machine.execConv p s
  | .dw p => Sys2Proof.Machine.execDw p s
  | .row p => Sys2Proof.Machine.execRow p s
  | .tiles p => Sys2Proof.Machine.execTiles p s
  | .visit p => Sys2Proof.Machine.execVisit p s
  | .regroup p => Sys2Proof.Machine.execRegroup p s
  | .fill p => Sys2Proof.Machine.execFill p s
  | .gather p => Sys2Proof.Machine.execGather p s
  | .gatherEnd p => Sys2Proof.Machine.execGatherEnd p s
  | .flip p => Sys2Proof.Machine.execFlip p s
  | .flipSwitch p => Sys2Proof.Machine.execFlipSwitch p s
  | .decode p => Sys2Proof.Machine.execDecode p s
  | .nms p => Sys2Proof.Machine.execNms p s
  | .crop p => Sys2Proof.Machine.execCrop p s
  | .paste p => Sys2Proof.Machine.execPaste p s
  | .coll p => Sys2Proof.Machine.execColl p s
  | .wait p => Sys2Proof.Machine.execWait p s
  | .signal p => Sys2Proof.Machine.execSignal p s
  | .signalAfterComplete p => Sys2Proof.Machine.execSignalAfterComplete p s
  | .fence p => Sys2Proof.Machine.execFence p s
  | .fenceFlask p => Sys2Proof.Machine.execFenceFlask p s
  | .mark p => Sys2Proof.Machine.execMark p s
  | .markRecord p => Sys2Proof.Machine.execMarkRecord p s
  | .enumerate flask addr => Sys2Proof.Machine.execEnumerate flask addr s
  | .operandsLanded p => Sys2Proof.Machine.execOperandsLanded p s
  | .bankRelease a bank => Sys2Proof.Machine.execBankRelease a bank s
  | .meshTileArrive a => Sys2Proof.Machine.execMeshTileArrive a s
  | .emptyMarkerArrive a => Sys2Proof.Machine.execEmptyMarkerArrive a s
  | .breakArrive a => Sys2Proof.Machine.execBreakArrive a s
  | .creditArrive a => Sys2Proof.Machine.execCreditArrive a s
  | .watchEvaluate p => Sys2Proof.Machine.execWatchEvaluate p s
  | .pourComplete p => Sys2Proof.Machine.execPourComplete p s
  | .pourFault p => Sys2Proof.Machine.execPourFault p s
  | .heldCompletionWrite f => Sys2Proof.Machine.execHeldCompletionWrite f s
  | .datapathParity a router => Sys2Proof.Machine.execDatapathParity a router s
  | .arrayParkSave a => Sys2Proof.Machine.execArrayParkSave a s
  | .arrayTakeOwner a => Sys2Proof.Machine.execArrayTakeOwner a s
  | .arrayRestoreDone a => Sys2Proof.Machine.execArrayRestoreDone a s
  | .transientFault n => Sys2Proof.Machine.execTransientFault n s
  | .replayCancelDone n => Sys2Proof.Machine.execReplayCancelDone n s
  | .replayConditionMet n => Sys2Proof.Machine.execReplayConditionMet n s
  | .replayWaitTimeout n => Sys2Proof.Machine.execReplayWaitTimeout n s
  | .rdReq port => Sys2Proof.Machine.execRdReq port s
  | .wrReq port => Sys2Proof.Machine.execWrReq port s
  | .rdResp port => Sys2Proof.Machine.execRdResp port s
  | .wrAck port => Sys2Proof.Machine.execWrAck port s
  | .tc2ResponseTimeout r => Sys2Proof.Machine.execTc2ResponseTimeout r s
  | .loanDeadline g => Sys2Proof.Machine.execLoanDeadline g s
  | .dataFlit port flit => Sys2Proof.Machine.execDataFlit port flit s
  | .idleFlit port flit => Sys2Proof.Machine.execIdleFlit port flit s
  | .nakFlit port flit => Sys2Proof.Machine.execNakFlit port flit s
  | .timeFlit port flit => Sys2Proof.Machine.execTimeFlit port flit s
  | .initFlit port flit => Sys2Proof.Machine.execInitFlit port flit s
  | .flitSlot port => Sys2Proof.Machine.execFlitSlot port s
  | .ackTimer port => Sys2Proof.Machine.execAckTimer port s
  | .retryTimeout port => Sys2Proof.Machine.execRetryTimeout port s
  | .trainingComplete port => Sys2Proof.Machine.execTrainingComplete port s
  | .trainTimeout port => Sys2Proof.Machine.execTrainTimeout port s
  | .retrainWaitEnd port => Sys2Proof.Machine.execRetrainWaitEnd port s
  | .los port lanes => Sys2Proof.Machine.execLos port lanes s
  | .fecLock port => Sys2Proof.Machine.execFecLock port s
  | .silence port => Sys2Proof.Machine.execSilence port s
  | .symbolErrors port lanes => Sys2Proof.Machine.execSymbolErrors port lanes s
  | .lanePowerSample lane power => Sys2Proof.Machine.execLanePowerSample lane power s
  | .laserSample port bias power fault => Sys2Proof.Machine.execLaserSample port bias power fault s
  | .portDown port => Sys2Proof.Machine.execPortDown port s
  | .grant port => Sys2Proof.Machine.execGrant port s
  | .refuse port => Sys2Proof.Machine.execRefuse port s
  | .reserveTimeout e plane => Sys2Proof.Machine.execReserveTimeout e plane s
  | .chunk c plane => Sys2Proof.Machine.execChunk c plane s
  | .result port => Sys2Proof.Machine.execResult port s
  | .pass port => Sys2Proof.Machine.execPass port s
  | .reduceChunkDone c plane => Sys2Proof.Machine.execReduceChunkDone c plane s
  | .poison port => Sys2Proof.Machine.execPoison port s
  | .seal port => Sys2Proof.Machine.execSeal port s
  | .sealWaitEnd c plane => Sys2Proof.Machine.execSealWaitEnd c plane s
  | .verdict port => Sys2Proof.Machine.execVerdict port s
  | .verdictTimeout c plane => Sys2Proof.Machine.execVerdictTimeout c plane s
  | .contrailEntryWrite => Sys2Proof.Machine.execContrailEntryWrite s
  | .flrPf1 => Sys2Proof.Machine.execFlrPf1 s
  | .mbTimeout => Sys2Proof.Machine.execMbTimeout s
  | .vfEnableSet numVfs => Sys2Proof.Machine.execVfEnableSet numVfs s
  | .pcieLinkUp gen width => Sys2Proof.Machine.execPcieLinkUp gen width s
  | .dynamicAddressAssignment addr => Sys2Proof.Machine.execDynamicAddressAssignment addr s
  | .privateScanInstruction code => Sys2Proof.Machine.execPrivateScanInstruction code s
  | .corruptFlit port why => Sys2Proof.Machine.execCorruptFlit port why s

end Sys2Proof.Machine
end

