-- ==== Sys2Proof/Safety.lean ====
section
/-!
DEFINITION. What counts as a safe step and a safe state: the terms in which claims about the whole machine are written.
-/
namespace Sys2Proof.Machine

/-- A step is safe when it ends in a next state: neither a fault nor a refusal. -/
def Safe (s : State) : Prop := ∃ t, step s = .next t

/-- The outputs of the part agree with its state: the level of the part-event source is HOST_INT_CAUSE AND HOST_INT_EN (R860), no
message that may leave is held back (R985), and ALERT_N is low exactly while an alert is pending and the standby island is up
(R902). -/
structure OutputsDriven (s : State) : Prop where
  level : s.host.irqLevel = s.maskedCause
  held : ∀ v ∈ s.host.held, s.sendable v = false
  alert : s.pins.alertN = !(s.alert && s.island)

/-- The Yilpa controller takes the command `c` of a box next, it has this code, and nothing that stands before every command refuses
it: the part is not in recovery and not RETIRED, and the request carries no bit outside the command's fields, each a register and a mask. -/
structure Takes (s : State) (box : Box) (code : Nat) (fields : List (Nat × Nat)) (c : BoxCmd) : Prop where
  next : s.nextCommand = some c
  sender : c.box = box
  code : c.cmd = code
  recovery : s.phase ≠ .recovery
  lifecycle : s.sec.lifecycle ≠ 0xF
  fields : c.inFields fields = true

/-- The secure command `c` of a box is taken next, with this code, by a part that is neither in recovery nor RETIRED. -/
structure TakesSecure (s : State) (box : Box) (code : Nat) (c : BoxCmd) : Prop where
  next : s.nextSecure = some c
  sender : c.box = box
  code : c.cmd = code
  recovery : s.phase ≠ .recovery
  lifecycle : s.sec.lifecycle ≠ 0xF

/-- The command `c` has run and ends OK with these response registers; MBOX_COMMAND_END will publish them. -/
def Answered (t : State) (c : BoxCmd) (resp : List (Nat × Nat)) : Prop :=
  t.mbox.running = some { c with done := true, rc := 0, resp := resp.map (fun e => (e.1, BitVec.ofNat 32 e.2)) }

/-- The secure command `c` has run and ends OK with these response registers. -/
def AnsweredSecure (t : State) (c : BoxCmd) (resp : List (Nat × Nat)) : Prop :=
  t.mbox.secRunning = some { c with done := true, rc := 0, resp := resp.map (fun e => (e.1, BitVec.ofNat 32 e.2)) }

/-- Between two states nothing has changed but the mailboxes and the outputs of the part. -/
def OnlyMailbox (s t : State) : Prop := t = { s with mbox := t.mbox, host := t.host, pins := t.pins, probe := t.probe, fresh := t.fresh }

/-- The pour `p` has ended OK between two states: it is gone, its signal has been performed and no other semaphore has changed; a pour
that asks for no record leaves the memory and the ring as they were, and one that asks for a record has it written at the ring's TAIL where
the ring has room and no record is held before it, or else held. -/
structure EndedOk (s t : State) (p : Pour) : Prop where
  gone : t.pour? p.id = none
  signal : p.signals = true → t.rd .sem (64 * p.flask + p.signalSem)
    = (if p.signalOp = 0 then s.rd .sem (64 * p.flask + p.signalSem) + p.signalValue else p.signalValue) % 2 ^ 32
  others : ∀ i, (p.signals = true → i ≠ 64 * p.flask + p.signalSem) → t.rd .sem i = s.rd .sem i
  silent : p.completeEn = false → t.mem = s.mem ∧ t.heldCq = s.heldCq ∧ ∀ f, t.rd .cqTail f = s.rd .cqTail f
  record : p.completeEn = true → Sp.getD s.heldCq (ladleFlask p.ladle) [] = [] → s.cqRoom (ladleFlask p.ladle) = true →
    t.rd .cqTail (ladleFlask p.ladle) = (s.rd .cqTail (ladleFlask p.ladle) + 1) % 2 ^ 32 ∧ t.heldCq = s.heldCq
      ∧ t.mem = (s.writeLocal 0 (s.ringSlot .cqBaseLo .cqBaseHi .cqSizeLog2 .cqTail (ladleFlask p.ladle))
          ((p.record cOK (s.detailOf p p.detail)).bytes
            (ringPhase (s.rd .cqTail (ladleFlask p.ladle)) (s.rd .cqSizeLog2 (ladleFlask p.ladle))) s.now) []).mem
  holdsBack : p.completeEn = true → s.cqRoom (ladleFlask p.ladle) = false → t.mem = s.mem
    ∧ Sp.get? t.heldCq (ladleFlask p.ladle)
        = some (Sp.getD s.heldCq (ladleFlask p.ladle) [] ++ [p.record cOK (s.detailOf p p.detail)])
    ∧ t.bit .cqFull (ladleFlask p.ladle) = true
  ladle : ∀ n, t.rd .ladleState n = s.rd .ladleState n ∧ t.rd .ladleHead n = s.rd .ladleHead n

/-- The state as a pour of an array passes c1: the pour has begun, its issue is paid and its credits are granted. -/
def State.beginArray (s : State) (p : Pour) : State := ((s.onPour p.id (fun _ => p)).charge p).grantAll p

/-- A pour of an array that may reach c0, passes every check of c1 and has the work of one pass, whose operands all lie in its buffers, whose
bank is free, the way of whose output is clear and of which no write and no block is outstanding; `p` is the pour as it stands after c1. -/
structure StartsResident (s : State) (id op : Nat) (spans : State → Pour → List Span) (p : Pour) : Prop where
  pour : ∃ p0, s.pour? id = some p0 ∧ p = { p0 with begun := true } ∧ s.arrayMay p0 = true ∧ s.checkArray p0 = 0
  opcode : p.opcode = op
  work : 1 ≤ p.m ∧ 1 ≤ p.n ∧ p.tileShape = 0
  fresh : p.progress = 0 ∧ p.due = [] ∧ p.held = [] ∧ p.empties = []
  way : s.wayClear p = true
  resident : spans (s.onPour id (fun _ => p)) p = [] ∧ ∀ e ∈ p.meshNeeds, e.items = 0
  bank : s.banksFree p = true

/-- A move or a region pour takes `n` steps one after the other, none of which waits or faults, from a state and the pour as it stands to
`u` and `q`. -/
def StepsTo (mv : Move) : Nat → State → Pour → State → Pour → Prop
  | 0, s, p, u, q => u = s ∧ q = p
  | n + 1, s, p, u, q => (p.progress < mv.count p ∨ p.held ≠ []) ∧
      ∃ s1 p1, s.moveStep p p.progress mv = .next s1 p1 ∧ StepsTo mv n s1 p1 u q

/-- What `cmd` does with the steps of a move or a region pour that stands as `p0` in the state `s1`: where the steps come to an end it has run;
where one has to wait it keeps what the steps before did; where one faults it ends with that fault, and what the steps before wrote stands. -/
def GoesThrough (s : State) (cmd : Instr) (mv : Move) (s1 : State) (p0 : Pour) : Prop :=
  ∀ (n : Nat) (u : State) (q : Pour), StepsTo mv n s1 p0 u q → n < mv.steps p0 → q.id = p0.id →
    (mv.count q ≤ q.progress → q.held = [] → (u.pour? p0.id).isSome = true → ∃ t, exec cmd s = .next t ∧ t.mem = u.mem ∧ t.arrays = u.arrays
      ∧ t.csr = u.csr ∧ t.pour? p0.id = some { q with stage := .ran, evaluated := true })
    ∧ (∀ (v : State) (q1 : Pour), (q.progress < mv.count q ∨ q.held ≠ []) → u.moveStep q q.progress mv = .wait v q1 → q1.id = p0.id →
      (v.pour? p0.id).isSome = true → ∃ t, exec cmd s = .next t ∧ t.mem = v.mem ∧ t.arrays = v.arrays ∧ t.csr = v.csr ∧ t.tc2 = v.tc2
        ∧ t.pour? p0.id = some q1)
    ∧ (∀ (x : Stop) (v : State) (q1 : Pour), (q.progress < mv.count q ∨ q.held ≠ []) → u.moveStep q q.progress mv = .fault x v q1 →
      q1.id = p0.id → (v.pour? p0.id).isSome = true → ∃ t, exec cmd s = .next t ∧ t.mem = v.mem ∧ t.arrays = v.arrays ∧ t.csr = v.csr
        ∧ t.pour? p0.id = some { q1 with stage := .faulted, code := x.code, detail := x.detail, failed := x.failed })

/-- Every register field holds a value of its width. -/
def RegistersInWidth (s : State) : Prop := ∀ row ∈ s.csr, ∀ e ∈ row.2, e.2.toNat < 2 ^ row.1.info.width

/-- The memory of the stack tier and the fast tier is in its one canonical form. -/
def MemoryCanonical (s : State) : Prop := s.mem.wf = true

end Sys2Proof.Machine
end

