-- ==== Sys2Proof/Certificates/Slice0/Obligations.lean ====
section
/-!
DEFINITION. The statements for the provers. Where a statement says that a command answers a next state `t`, the hypotheses are on
the state and the operands alone, and what it does not name of `t` may change only in the parts that the statement lists.
-/
open Sys2Proof Sys2Proof.Machine

/-! ### The queue, reset and the outputs -/

/-- A step takes the command at the front of the queue and runs it on the state with the rest of the queue. Every step answers a next
state: no command of this block faults or is refused, and with nothing waiting an a-cycle passes (log entry 1: the model's choice). In READY it
takes the clock on by 5/9 ns, in parts of 9,000,000, and by the learned rate, and by 1,000 such parts more or less while an offset is slewed, one
nanosecond in 9,000 a-cycles, unless the clock is held; every array earns DUTY / 256 of issue credit up to its ceiling; and the probe mux counts
the a-cycle, or at the falling edge of PROBE_CLK, every 4, 8, 16 or 32 of them, gives its lands the signals of a public group. -/
def Obligations.StepTakesTheFront : Prop :=
  (∀ (s : State) (c : Instr) (rest : List Instr), s.pending = c :: rest → step s = exec c { s with pending := rest })
  ∧ (∀ s : State, Safe s)
  ∧ (∀ s : State, s.pending = [] → step s = .next (settle s.cycle))
  ∧ (∀ s : State, s.pending = [] → s.ready = false → ∃ t, step s = .next t ∧ t.time = s.time ∧ t.arrays = s.arrays ∧ t.mem = s.mem)
  ∧ (∀ s : State, s.pending = [] → s.ready = true →
    let f : Int := (s.time.frac : Int) + 5000000 + s.time.rate + 1000 * s.time.slew.sign
    0 ≤ f → ∃ t, step s = .next t ∧ t.time.slew = s.time.slew - s.time.slew.sign
      ∧ (s.time.stopUntil = none → 9000000 * (t.time.now : Int) + t.time.frac = 9000000 * (s.time.now : Int) + f)
      ∧ (s.time.stopUntil ≠ none → t.time.now = s.time.now)
      ∧ t.arrays = s.arrays.map (fun e => (e.1, { e.2 with credit := min 16777216 (e.2.credit + s.rd .duty) }))
      ∧ (s.bit .probeEnable = true →
        (s.probe.count + 1 < 4 * 2 ^ s.rd .probeDiv → t.probe.count = s.probe.count + 1 ∧ t.probe.lands = s.probe.lands)
        ∧ (4 * 2 ^ s.rd .probeDiv ≤ s.probe.count + 1 → t.probe.count = 0))
      ∧ (s.bit .probeEnable = true → 4 * 2 ^ s.rd .probeDiv ≤ s.probe.count + 1 → s.rd .probeGroup < 4 → s.rd .probeGroup ≠ 0 →
        t.probe.lands = BitVec.ofNat 16 s.probeLevels ||| s.probe.held)
      ∧ t.mem = s.mem ∧ t.pours = s.pours)

/-- The state after reset: OFF, no command waiting, no memory listed, no pour, ladle, heat or collective, and every register field at its
reset value. What every step keeps holds of it: its outputs agree with it, its registers hold values of their width, and its memory is in its
canonical form. -/
def Obligations.ResetState : Prop :=
  State.reset.phase = Phase.off ∧ State.reset.pending = [] ∧ State.reset.mem.cells = [] ∧ State.reset.pours = []
    ∧ State.reset.heats = [] ∧ State.reset.colls = [] ∧ State.reset.tc2 = []
    ∧ (∀ (k : FKind) (i : Nat), State.reset.rd k i = k.resetVal i)
    ∧ OutputsDriven State.reset ∧ RegistersInWidth State.reset ∧ MemoryCanonical State.reset

/-- After every step, whatever the state before it, the outputs of the part agree with its state. -/
def Obligations.OutputsDrivenAfterEveryStep : Prop :=  ∀ s t : State, step s = .next t → OutputsDriven t

/-- A step from a state whose registers all hold values of their width answers one of which that holds, and a step from a state whose memory is
in its canonical form answers one of which that holds. -/
def Obligations.FormKeptByEveryStep : Prop :=
  ∀ s t : State, step s = .next t → (RegistersInWidth s → RegistersInWidth t) ∧ (MemoryCanonical s → MemoryCanonical t)

/-! ### Start-up, power and resets -/

/-- VIN_50_RISE takes a part in OFF to STANDBY, samples the straps and begins a power-on start-up; VIN_50_FALL takes any part to OFF and
leaves every register field at its reset value; of the contrail ring only the slot of an entry under way may change. An undervoltage or overvoltage shutdown of a powered part is an emergency shutdown: the
part waits in STANDBY for START, without power and without work, the cause is kept for GET_POWER's window, and a contrail entry is
written. -/
def Obligations.SupplyAndEmergency : Prop :=
  ((∀ (s : State) (straps : Nat), s.phase = .off → s.pins.vin50 = false →
    ∃ t, exec (.vin50Rise straps) s = .next t ∧ t.phase = .standby ∧ t.pins.vin50 = true
      ∧ t.pins.straps = BitVec.ofNat 4 straps ∧ t.mbox.mgmtStatic = 0x2C + bits straps 1 2 ∧ t.rd .startCause = 0
      ∧ t.sec.bootCount = s.sec.bootCount + 1 ∧ t.sec.events = List.replicate 48 0 ∧ t.start.checkDue = true ∧ t.mem = {}
      ∧ ∀ (k : FKind) (i : Nat), k.info.block = .sem ∨ k.info.block = .power → t.rd k i = k.resetVal i)
  ∧ (∀ s : State, ∃ t, exec .vin50Fall s = .next t ∧ t.phase = .off ∧ t.pins.vin50 = false ∧ t.pins.pwrGood = false
      ∧ t.pours = [] ∧ t.heats = [] ∧ t.mem = {} ∧ t.arrays = [] ∧ t.contrail.queue = []
      ∧ (∀ (k : FKind) (i : Nat), t.rd k i = k.resetVal i)
      ∧ (s.contrail.queue = [] → s.contrail.lostDue = 0 → t.contrail.ring = s.contrail.ring)
      ∧ (∀ i : Nat, i ≠ (s.contrail.nextSeq.toNat - 1) % 475136 → Sp.get? t.contrail.ring i = Sp.get? s.contrail.ring i)
      ∧ t.contrail.fenced = s.contrail.fenced ∧ t.sec.bank = s.sec.bank ∧ t.sec.svn = s.sec.svn
      ∧ (s.mbox.secRunning = none → t.sec.preferred = s.sec.preferred ∧ t.sec.trial = s.sec.trial)
      ∧ (s.mbox.running = none → t.contrail.stored = s.contrail.stored)))
  ∧ (∀ s : State, s.powered = true → s.contrail.queue.length < 1024 →
    (∃ t, exec .undervoltageShutdown s = .next t ∧ t.phase = .standby ∧ t.power.emergency = true ∧ t.power.cause = 4
      ∧ t.pins.thermTripN = false ∧ t.pins.pwrGood = false ∧ t.start.needStart = true ∧ t.pours = [] ∧ t.mem = {}
      ∧ (t.contrail.queue.getLast?.map (·.kind)) = some 6)
    ∧ (∃ t, exec .overvoltageShutdown s = .next t ∧ t.phase = .standby ∧ t.power.emergency = true ∧ t.power.cause = 5
      ∧ t.pins.thermTripN = false ∧ t.pins.pwrGood = false ∧ t.start.needStart = true ∧ t.pours = [] ∧ t.mem = {}
      ∧ (t.contrail.queue.getLast?.map (·.kind)) = some 6))

/-- Once in each start-up the boot ROM checks TRIAL or else PREFERRED first; a bank that is valid, and that no FW_BEGIN has left marked invalid,
runs, any other sends it to the second bank, and with both found not valid the part is in RECOVERY. A trial is one start: TRIAL is cleared
when its image runs. -/
def Obligations.BootRomCheck : Prop :=
  ∀ s : State, s.phase ≠ .off → s.phase ≠ .recovery → (s.start.imageRuns = false ∨ s.start.checkDue = true) →
    let valid (b : Nat) : Prop := b ∉ s.sec.unverified ∧ s.imageCheck b = 0
    let first := s.sec.trial.getD s.sec.preferred
    (s.start.tried = [] → ∃ t, exec .bootRomCheckDone s = .next t ∧ t.csr = s.csr ∧ t.phase = s.phase ∧
      (valid first → t.start.imageRuns = true ∧ t.start.runBank = first ∧ t.start.runTrial = s.sec.trial.isSome ∧ t.sec.trial = none
        ∧ t.start.checkDue = false)
      ∧ (¬ valid first → t.start.imageRuns = s.start.imageRuns ∧ t.start.tried = [first] ∧ t.sec = s.sec))
    ∧ (∀ b : Nat, s.start.tried = [b] → ∃ t, exec .bootRomCheckDone s = .next t ∧ t.csr = s.csr ∧ t.sec.trial = s.sec.trial ∧
      (valid (1 - b) → t.phase = s.phase ∧ t.start.imageRuns = true ∧ t.start.runBank = 1 - b ∧ t.start.runTrial = false)
      ∧ (¬ valid (1 - b) → t.phase = .recovery ∧ t.start.imageRuns = false))

/-- The start-up phases from STANDBY to RECORD: a part with a running image and a START, or one that does not wait for START with HOLD and
STRAP_3 at 0, enters POWER; POWER, IDENTITY and RECORD each lead to the next phase, or to STANDBY or FAILED with their FAIL_CAUSE. In
IDENTITY the identity keys are derived from the device secret. -/
def Obligations.StartupThroughRecord : Prop :=
  (∀ s : State, s.phase = .standby → s.start.imageRuns = true → s.pins.vin50 = true →
    (s.start.startTaken = true ∨ (s.start.needStart = false ∧ bits (itemOf s.contrail.stored 3) 0 1 = 0 ∧ s.pins.straps.getLsbD 3 = false)) →
    ∃ t, exec .startCondition s = .next t ∧ t.phase = .power ∧ t.start.startTaken = false ∧ t.csr = s.csr ∧ t.sec = s.sec)
  ∧ (∀ s : State, s.phase = .power → s.pins.pwrGood = false →
    (s.pins.perstN = true → ∃ t, exec (.powerPhaseEnd true) s = .next t ∧ t.phase = .identity ∧ t.pins.pwrGood = true
      ∧ t.start.config = s.contrail.stored ∧ t.csr = s.csr)
    ∧ (s.pins.perstN = false → ∃ t, exec (.powerPhaseEnd true) s = .next t ∧ t.phase = .power ∧ t.pins.pwrGood = true
      ∧ t.csr = s.csr)
    ∧ ∃ t, exec (.powerPhaseEnd false) s = .next t ∧ t.phase = .standby ∧ t.rd .failCause = 5 ∧ t.start.needStart = true)
  ∧ (∀ s : State, s.phase = .identity →
    (∃ t, exec (.identityPhaseEnd true) s = .next t ∧ t.phase = .record ∧ t.sec = s.sec.deriveKeys
      ∧ ∀ (k : FKind) (i : Nat), k ≠ .hostOrder → t.rd k i = s.rd k i)
    ∧ ∃ t, exec (.identityPhaseEnd false) s = .next t ∧ t.phase = .failed ∧ t.rd .failCause = 1)
  ∧ (∀ s : State, s.phase = .record →
    (∃ t, exec (.recordPhaseEnd true) s = .next t ∧ t.phase = .selftest ∧ t.contrail = s.contrail
      ∧ (∀ e ∈ s.contrail.fenced, t.fenced e.1 = true) ∧ (∀ a ∈ s.contrail.routeFenced, t.routeFenced a = true)
      ∧ ∀ (k : FKind) (i : Nat), k ≠ .fenceMap → k ≠ .routeFenceMap → k ≠ .fenceCause → t.rd k i = s.rd k i)
    ∧ ∃ t, exec (.recordPhaseEnd false) s = .next t ∧ t.phase = .failed ∧ t.rd .failCause = 2)

/-- The start-up phases from SELFTEST to READY: failed arrays and routers are fenced, a failed base-die SRAM fails the start; a stack
passes when each of its 64 pseudo-channels showed no uncorrectable word and at most 16 corrected ones, is tried again, or fails the start on
its third attempt; with every stack passed no stack word is defined; CONFIG brings the part to READY, UNLOCKED, its clock at 0, and each enabled
port to TRAINING, or to FAILED where its laser reports FAULT. -/
def Obligations.StartupThroughReady : Prop :=
  (∀ (s : State) (arrays : List (Nat × Nat)) (routers srams : List Nat), s.phase = .selftest →
    (∀ e ∈ arrays, e.1 < 512) → (∀ a ∈ routers, a < 512) →
    ∃ t, exec (.selftestPhaseEnd arrays routers srams) s = .next t
      ∧ t.phase = (if srams = [] then Phase.qualify else Phase.failed)
      ∧ (∀ e ∈ arrays, t.fenced e.1 = true) ∧ (∀ a ∈ routers, t.routeFenced a = true)
      ∧ (srams ≠ [] → t.rd .failCause = 3))
  ∧ (∀ (s : State) (stack : Nat) (results : List ChannelTest), s.phase = .qualify → stack < 16 → s.rd .qualResult stack ≠ 1 →
    s.rd .qualAttempts stack < 3 → (results.map (fun c => (c.stack, c.channel))).Nodup → (∀ c ∈ results, c.stack = stack ∧ c.channel < 64) →
    let failed := (results.filter (fun c => c.uncorrectable ≠ 0 || decide (16 < c.corrected))).length
    ∃ t, exec (.stackQualificationEnd stack results) s = .next t
      ∧ t.rd .qualAttempts stack = s.rd .qualAttempts stack + 1 ∧ t.rd .qualFailedChannels stack = failed
      ∧ t.rd .qualResult stack = (if failed = 0 then 1 else 2)
      ∧ (failed ≠ 0 → t.phase = if s.rd .qualAttempts stack = 2 then .failed else .qualify)
      ∧ (failed = 0 → t.phase = if (List.range 16).all (fun i => i = stack || s.rd .qualResult i = 1) then .config else .qualify)
      ∧ (t.phase = .config → ∀ e ∈ t.mem.cells, tierOf e.1 ≠ 0))
  ∧ (∀ s : State, s.phase = .config → ∃ t, exec .configPhaseEnd s = .next t ∧ t.phase = .ready ∧ t.rd .lockState = 0
      ∧ t.now = 0 ∧ t.power.emergency = false
      ∧ ∀ n < 32, t.rd .portState n = if bits (itemOf s.start.config (0x40 + n)) 1 3 < bits (itemOf s.start.config 1) 12 4
          ∧ bits (itemOf s.start.config (0x40 + n)) 0 1 = 1 then (if s.bit .laserFault n then 5 else 1) else s.rd .portState n)

/-- PERST_N from IDENTITY onward ends the work of every flask and its release begins a start-up at IDENTITY; an FLR of a function and the
end of VF Enable begin a flask reset of each flask that they reach; an FLR of PF1 leaves the secure channel's command to run on, and with
none running leaves GO and DONE of its mailbox at 0. -/
def Obligations.FunctionResets : Prop :=
  (∀ s : State, s.bar0Up = true → ∃ t, exec .perstNAssert s = .next t ∧ t.phase = .power ∧ t.pins.perstN = false
      ∧ t.pins.pwrGood = s.pins.pwrGood ∧ t.pours = [] ∧ t.heats = [] ∧ t.host.out = s.host.out ∧ t.start.perstReset = true)
  ∧ (∀ s : State, s.phase = .power → s.pins.pwrGood = true → s.pins.perstN = false → s.start.perstReset = true →
    ∃ t, exec .perstNDeassert s = .next t ∧ t.phase = .identity ∧ t.pins.perstN = true ∧ t.rd .startCause = 1
      ∧ t.sec.bootCount = s.sec.bootCount + 1 ∧ t.start.perstReset = false ∧ t.start.checkDue = true)
  ∧ (∀ (s : State) (v : Nat), s.bar0Up = true → s.vfExists v = true → s.bit .resetBusy v = false →
    ∃ t, exec (.flrVf v) s = .next t ∧ t.bit .resetBusy v = true ∧ t.phase = s.phase ∧ v ∉ t.host.msixOn)
  ∧ (∀ (s : State) (v : Nat), s.bar0Up = true → v < 64 → s.vfExists v = true →
    ∃ t, exec .vfEnableClear s = .next t ∧ t.bit .resetBusy v = true ∧ t.bit .linkVfEnable = false ∧ t.phase = s.phase)
  ∧ (∀ (s : State) (f : Nat), s.bar0Up = true → f < 64 →
    ∃ t, exec .flrPf0 s = .next t ∧ t.bit .resetBusy f = true ∧ t.phase = s.phase ∧ t.rd .hostIntCause = 0 ∧ t.rd .hostIntEn = 0
      ∧ t.rd .mboxGo 0 = 0)
  ∧ (∀ s : State, s.bar0Up = true → ∃ t, exec .flrPf1 s = .next t ∧ t.mbox.secRunning = s.mbox.secRunning
      ∧ (∀ c : BoxCmd, s.mbox.secRunning = some c → c.box = .secPf1 → Box.secPf1 ∈ t.mbox.dropped ∧ t.csr = s.csr)
      ∧ (s.mbox.secRunning = none → t.bit .mboxGo boxSecPf1 = false ∧ t.bit .mboxDone boxSecPf1 = false)
      ∧ ∀ (k : FKind) (i : Nat), (k ≠ .mboxGo ∧ k ≠ .mboxDone) ∨ i ≠ boxSecPf1 → t.rd k i = s.rd k i)

/-! ### Power, temperature and telemetry -/

/-- A power measurement stores what was measured and sets DUTY as the governor's pseudocode gives; a fall of DUTY and an input outside 46
to 56 V each set their bit of PWR_EVENT. -/
def Obligations.PowerGovernor : Prop :=
  ∀ (s : State) (volts amps watts : Nat), s.island = true → s.rd .duty ≤ 256 →
    let target := envelopeCap (s.rd .envelope) - 50
    let wanted := if target < watts then max 16 (s.rd .duty * target / watts)
      else if watts < target - 50 then min s.dutyLimit (s.rd .duty + 8) else s.rd .duty
    let new := min wanted s.dutyLimit
    ∃ t, exec (.powerMeasurement volts amps watts) s = .next t ∧ t.rd .pwrVolts = min volts 65535
      ∧ t.rd .pwrAmps = min amps 65535 ∧ t.rd .pwrWatts = min watts 65535 ∧ t.rd .duty = new
      ∧ (new < s.rd .duty → t.bit .pwrGoverned = true) ∧ (volts < 4600 → t.bit .pwrInputWarn = true)
      ∧ (5600 < volts → t.bit .pwrInputWarn = true) ∧ t.mem = s.mem ∧ t.pours = s.pours ∧ t.arrays = s.arrays ∧ t.phase = s.phase

/-- A temperature sample below every trip point stores each unit's temperature and raises each stack and die to the class whose threshold
it has reached, never lowering it; a stack at its trip point is an emergency shutdown. A unit that has cooled by 5 °C below its class's
entry threshold leaves the class: a draining stack into throttle, a throttled stack or die into its normal class; an engine has no class
to leave. -/
def Obligations.TemperatureAndClasses : Prop :=
  ((∀ (s : State) (stackTemps dies engines : List Nat), s.powered = true → stackTemps.length = 16 → dies.length = 4 → engines.length = 8 →
    (∀ x ∈ stackTemps, x < 420) → (∀ x ∈ dies, x < 460) → (∀ x ∈ engines, x < 400) → (∀ i, s.rd .stackClass i ≤ 2) →
    (∀ i, s.rd .dieClass i ≤ 1) →
    ∃ t, exec (.temperatureSample stackTemps dies engines) s = .next t ∧ t.phase = s.phase ∧ t.mem = s.mem
      ∧ (∀ i x, stackTemps[i]? = some x → t.rd .stackTemp i = x
          ∧ t.rd .stackClass i = max (s.rd .stackClass i) (if 380 ≤ x then 2 else if 340 ≤ x then 1 else 0))
      ∧ (∀ i x, dies[i]? = some x → t.rd .dieTemp i = x
          ∧ t.rd .dieClass i = max (s.rd .dieClass i) (if 400 ≤ x then 1 else 0))
      ∧ (∀ i x, engines[i]? = some x → t.rd .engineTemp i = x))
  ∧ (∀ (s : State) (stackTemps dies engines : List Nat), s.powered = true → stackTemps.length = 16 →
    (∃ x ∈ stackTemps, 420 ≤ x) →
    ∃ t, exec (.temperatureSample stackTemps dies engines) s = .next t ∧ t.phase = .standby ∧ t.power.emergency = true ∧ t.power.cause = 1))
  ∧ ((∀ (s : State) (i : Nat), s.rd .stackClass i = 2 → s.rd .stackTemp i ≤ 360 →
    ∃ t, exec (.thermalClassExit (.stack i)) s = .next t ∧ t.rd .stackClass i = 1 ∧ t.bit .pwrStackClass = true
      ∧ ∀ j, j ≠ i → t.rd .stackClass j = s.rd .stackClass j)
  ∧ (∀ (s : State) (i : Nat), s.rd .stackClass i = 1 → s.rd .stackTemp i ≤ 320 →
    ∃ t, exec (.thermalClassExit (.stack i)) s = .next t ∧ t.rd .stackClass i = 0 ∧ t.bit .pwrStackClass = true)
  ∧ (∀ (s : State) (i : Nat), s.rd .dieClass i = 1 → s.rd .dieTemp i ≤ 380 →
    ∃ t, exec (.thermalClassExit (.die i)) s = .next t ∧ t.rd .dieClass i = 0 ∧ t.bit .pwrDieClass = true)
  ∧ (∀ (s : State) (i : Nat), ∃ t, exec (.thermalClassExit (.engine i)) s = .next t ∧ t.csr = s.csr))

/-! ### Almanac time -/

/-- The timeouts of the lock states: ACQUIRING ends in UNLOCKED, a silent source takes a LOCKED part to HOLDOVER, or to UNLOCKED where
HOLDOVER_LIMIT is 0, with LOCK_LOST, and HOLDOVER ends in UNLOCKED. The clock itself goes on from where it is. -/
def Obligations.TimeLock : Prop :=
  (∀ s : State, s.rd .lockState = 1 → ∃ t, exec .acquiringTimeout s = .next t ∧ t.rd .lockState = 0 ∧ t.rd .timeSource = 0
      ∧ t.now = s.now)
  ∧ (∀ s : State, s.rd .lockState = 2 → s.rd .timeSource = 1 → ∃ t, exec .beaconSilence s = .next t
      ∧ t.rd .lockState = (if s.rd .holdoverLimit = 0 then 0 else 3) ∧ t.bit .lockLost = true ∧ t.now = s.now)
  ∧ (∀ s : State, s.rd .lockState = 2 → s.rd .timeSource = 2 → ∃ t, exec .tickInSilence s = .next t
      ∧ t.rd .lockState = (if s.rd .holdoverLimit = 0 then 0 else 3) ∧ t.bit .lockLost = true ∧ t.now = s.now)
  ∧ (∀ s : State, s.rd .lockState = 3 → ∃ t, exec .holdoverLimit s = .next t ∧ t.rd .lockState = 0 ∧ t.rd .timeSource = 0
      ∧ t.now = s.now)

/-- The time messages. The first valid beacon takes an UNLOCKED part to ACQUIRING, its time port the lowest-numbered active port of
TIME_PLANE, and a DELAY_REQ waits to leave there; a beacon within 1 µs on the calibrated time port of a LOCKED part sets the offset to be
slewed, one nanosecond in 9,000 a-cycles (200 ppm), and does not step the clock; a DELAY_RESP to the request in flight calibrates its port;
the first TICK_IN marker after TICK_LOAD_ARM takes an UNLOCKED part to ACQUIRING and, in its first acquisition, loads its clock. -/
def Obligations.TimeMessages : Prop :=
  (∀ (s : State) (port : Nat) (p : List Byte) (rx : Nat) (r : List (List Byte × Nat)), port < 32 →
    (s.port port).timeIn = (p, rx) :: r → (pktHdr p).op = 1 → s.rd .portPlane port = s.rd .timePlane → s.rd .sourceSel ≠ 2 →
    s.rd .timeSource ≠ 2 → bits (pktWord p 8) 32 3 = s.rd .portPlane port → bits (pktWord p 8) 0 16 = s.rd .epochId →
    (s.rd .lockState = 0 →
      let active := s.lowestTimePort.getD port
      ∃ t, exec (.beacon port) s = .next t ∧ t.rd .lockState = 1 ∧ t.rd .timeSource = 1 ∧ t.rd .timePort = active
        ∧ t.time.delayReq = some (active, none) ∧ (t.port active).timeOut = (s.port active).timeOut + 1
        ∧ t.rd .quantumUs = bits (pktWord p 8) 16 16 ∧ t.time.now = s.time.now)
    ∧ (s.rd .lockState = 2 → s.lowestTimePort = some port → s.bit .portDelayValid port = true →
      ((pktWord p 0 : Int) + (s.rd .portDelay port : Int) - (rx : Int)).natAbs ≤ 1000 →
      ∃ t, exec (.beacon port) s = .next t ∧ t.rd .lockState = 2
        ∧ t.time.slew = 9000 * ((pktWord p 0 : Int) + (s.rd .portDelay port : Int) - (rx : Int))
        ∧ t.rd .timeOffset = ofInt 32 ((pktWord p 0 : Int) + (s.rd .portDelay port : Int) - (rx : Int)) ∧ t.time.now = s.time.now))
  ∧ (∀ (s : State) (port : Nat) (p : List Byte) (t4 : Nat) (r : List (List Byte × Nat)),
    (s.port port).timeIn = (p, t4) :: r → (pktHdr p).op = 3 → s.time.delayReq = some (port, some (pktWord p 0)) →
    ∃ t, exec (.delayResp port) s = .next t ∧ t.rd .portDelayValid port = 1 ∧ t.time.delayReq = none
      ∧ t.rd .portDelay port = ofInt 16 (Int.tdiv (((t4 : Int) - pktWord p 0) - ((pktWord p 16 : Int) - pktWord p 8)
          + toInt 16 (s.rd .portAsym port)) 2))
  ∧ (∀ s : State, s.bar0Up = true → s.bit .tickLoadArm = true → s.rd .sourceSel ≠ 1 → s.rd .timeSource ≠ 1 → s.rd .lockState = 0 →
    s.time.acquired = false → 0 ≤ ((s.rd .tickLoadLo + (s.rd .tickLoadHi <<< 32) : Nat) : Int) + toInt 16 (s.rd .tickDelay) →
    ∃ t, exec .tickInMarker s = .next t ∧ t.rd .lockState = 1 ∧ t.rd .timeSource = 2 ∧ t.bit .tickLoadArm = false
      ∧ (t.time.now : Int) = ((s.rd .tickLoadLo + (s.rd .tickLoadHi <<< 32) : Nat) : Int) + toInt 16 (s.rd .tickDelay))

/-- Software's own access to the clock: TIME_CFG keeps SOURCE_SEL and DEFER_POLICY where a reserved value is written, TICK_LOAD_ARM is
set, and a read of ALMANAC_NOW_LO returns the low half and latches the high half of one instant. -/
def Obligations.TimeRegisters : Prop :=
  (∀ (s : State) (value : Word32), s.bar0Up = true → ∃ t, exec (.timeCfgWrite value) s = .next t
      ∧ t.rd .sourceSel = (if bits value.toNat 0 2 = 3 then s.rd .sourceSel else bits value.toNat 0 2)
      ∧ t.rd .deferPolicy = (if 2 ≤ bits value.toNat 24 2 then s.rd .deferPolicy else bits value.toNat 24 2)
      ∧ t.rd .timePlane = bits value.toNat 2 3 ∧ t.rd .holdoverLimit = bits value.toNat 8 8
      ∧ t.rd .deferLead = bits value.toNat 16 8 ∧ t.time = s.time
      ∧ ∀ (k : FKind) (i : Nat), k ∉ [FKind.sourceSel, .deferPolicy, .timePlane, .holdoverLimit, .deferLead] →
          t.rd k i = s.rd k i)
  ∧ (∀ (s : State) (delay : Option (BitVec 16)), s.bar0Up = true → ∃ t, exec (.tickLoadArm delay) s = .next t
      ∧ t.bit .tickLoadArm = true ∧ t.rd .tickDelay = (delay.map BitVec.toNat).getD (s.rd .tickDelay) ∧ t.time = s.time)
  ∧ (∀ s : State, s.bar0Up = true → ∃ t, exec (.almanacNowLoRead .pf0) s = .next t ∧ t.time = s.time
      ∧ t.rd .nowHi = s.now / 2 ^ 32 ∧ HostMsg.data (leBytes s.now 4) false ∈ t.host.out)

/-! ### Almanac entries -/

/-- Software arms a FREE entry, unless its KIND, FLASK_EN or PERIOD forbids it, and frees an entry from any state: one that is due takes
effect first, and no other entry changes but by what is due before it. A COLL_PHASE entry whose group this part is no member of returns to
FREE and counts in COLL_REFUSALS. -/
def Obligations.EntryArmAndFree : Prop :=
  ((∀ (s : State) (e : Nat) (high : Bool) (value : Word64), s.bar0Up = true → e < 4096 → s.rd .entState e = 0 →
    bits value.toNat 4 2 = 1 → bits value.toNat 0 4 ≠ 1 →
    ∃ t, exec (.almanacEntryArm e high value) s = .next t
      ∧ t.rd .entState e = (if armForbidden (bits value.toNat 0 4) (bits value.toNat 12 1) (s.rd .entPeriod e) then 0 else 1)
      ∧ t.rd .entKind e = bits value.toNat 0 4 ∧ t.rd .entFlask e = bits value.toNat 6 6
      ∧ t.rd .entDuration e = (if high then bits value.toNat 32 32 else s.rd .entDuration e)
      ∧ ∀ e' : Nat, e' ≠ e → t.rd .entState e' = s.rd .entState e')
  ∧ (∀ (s : State) (e : Nat) (high : Bool) (value : Word64), s.bar0Up = true → e < 4096 → bits value.toNat 4 2 = 0 →
    (∃ t, exec (.almanacEntryFree e high value) s = .next t ∧ t.rd .entState e = 0
      ∧ (∀ e' : Nat, e' ≠ e → t.rd .entState e' = (s.fireDue e).rd .entState e')
      ∧ (s.firesNow e (s.rd .entKind e) = false → ∀ e' : Nat, e' ≠ e → t.rd .entState e' = s.rd .entState e'))
    ∧ (s.firesNow e 2 = true → s.dueBefore e = [] → ∃ t, exec (.almanacEntryFree e high value) s = .next t ∧ t.rd .entState e = 0
      ∧ t.rd .sliceEligible 0 = bits (s.rd .entArg e) 0 32 ∧ t.rd .sliceEligible 1 = bits (s.rd .entArg e) 32 32)))
  ∧ (∀ (s : State) (e : Nat) (high : Bool) (value : Word64), s.bar0Up = true → e < 4096 → s.rd .entState e = 0 →
    bits value.toNat 4 2 = 1 → bits value.toNat 0 4 = 1 → bits value.toNat 12 1 = 1 → s.rd .entPeriod e = 0 →
    s.groupOf (bits value.toNat 6 6) (bits (s.rd .entArg e) 16 16) = none →
    ∃ t, exec (.almanacEntryArm e high value) s = .next t ∧ t.rd .entState e = 0
      ∧ t.rd .collRefusals = min (s.rd .collRefusals + 1) 0xFFFFFFFF)

/-- The entries that act at their TIME and are then DONE, for an entry without PERIOD: SLICE sets the eligible flasks, HEAT_GATE adds to a
semaphore of its flask, BAY_DEADLINE revokes its bay, and TELEMETRY sends a frame of 16 words to the manager, or counts one that has nowhere to
go. The entries that open a window:
SCRUB opens it on the stacks of ARG, COLL_PHASE lets the contexts that wait for it run; a window closes at TIME + DURATION, and an entry
with PERIOD and REPEAT 0 is then armed for its next TIME. Entries of one TIME take effect in ascending index: each acts on the state `u` in
which the lower-numbered ones that are due have fired. -/
def Obligations.EntryTimesAndWindows : Prop :=
  ((∀ (s : State) (e : Nat), s.firesNow e 2 = true → s.rd .entPeriod e = 0 → ∃ t, exec (.slice e) s = .next t
      ∧ t.rd .sliceEligible 0 = bits (s.rd .entArg e) 0 32 ∧ t.rd .sliceEligible 1 = bits (s.rd .entArg e) 32 32
      ∧ t.rd .entState e = 3)
  ∧ (∀ (s : State) (e : Nat), s.firesNow e 6 = true → s.rd .entPeriod e = 0 →
    let u := s.fireBefore e
    ∃ t, exec (.heatGate e) s = .next t
      ∧ t.rd .sem (64 * s.rd .entFlask e + bits (s.rd .entArg e) 0 6)
          = (u.rd .sem (64 * s.rd .entFlask e + bits (s.rd .entArg e) 0 6) + bits (s.rd .entArg e) 32 32) % 2 ^ 32
      ∧ t.rd .entState e = 3)
  ∧ (∀ (s : State) (e x : Nat), s.firesNow e 6 = true → s.dueBefore e = [x] → s.rd .entKind x = 6 → s.rd .entPeriod x = 0 →
    s.rd .entPeriod e = 0 → 64 * s.rd .entFlask x + bits (s.rd .entArg x) 0 6 ≠ 64 * s.rd .entFlask e + bits (s.rd .entArg e) 0 6 →
    ∃ t, exec (.heatGate e) s = .next t ∧ t.rd .entState e = 3 ∧ t.rd .entState x = 3
      ∧ t.rd .sem (64 * s.rd .entFlask x + bits (s.rd .entArg x) 0 6)
          = (s.rd .sem (64 * s.rd .entFlask x + bits (s.rd .entArg x) 0 6) + bits (s.rd .entArg x) 32 32) % 2 ^ 32)
  ∧ (∀ (s : State) (e : Nat), s.firesNow e 5 = true → s.rd .entPeriod e = 0 →
    (s.fireBefore e).rd .bayState (bits (s.rd .entArg e) 0 12) = 1 →
    ∃ t, exec (.bayDeadline e) s = .next t ∧ t.rd .bayState (bits (s.rd .entArg e) 0 12) = 2
      ∧ (t.rd .hostIntCause).testBit 5 = true ∧ t.rd .entState e = 3)
  ∧ (∀ (s : State) (e : Nat), s.firesNow e 4 = true → s.rd .entPeriod e = 0 → s.bit .wmbWordEn = false →
    let u := s.fireBefore e
    ∃ t, exec (.telemetry e) s = .next t ∧ t.rd .telemDropped = min (u.rd .telemDropped + 1) 0xFFFFFFFF
      ∧ t.rd .entState e = 3 ∧ t.ports = u.ports)
  ∧ (∀ (s : State) (e : Nat), s.firesNow e 4 = true → s.rd .entPeriod e = 0 → (s.fireBefore e).bit .wmbWordEn = true →
    let u := s.fireBefore e
    let sets := bits (u.rd .entArg e) 0 8
    (u.frame sets).take 16 = leBytes u.now 8 ++ leBytes u.power.frameSeq 4 ++ leBytes sets 4
    ∧ (∀ port : Nat, u.pickPort none (u.rd .wmbMgrDevice) 0 0 = some port → ∃ t, exec (.telemetry e) s = .next t ∧ t.rd .entState e = 3
      ∧ Sp.getD (t.port port).txStream 3 [] = Sp.getD (u.port port).txStream 3 [] ++ [packet
          { op := 0xC2, tc := 3, plane := u.rd .portPlane port, dst := u.rd .wmbMgrDevice, src := u.rd .fabDevice, len := (u.frame sets).length }
          (u.frame sets)]
      ∧ t.power.frameSeq = u.power.frameSeq + 1 ∧ t.rd .telemDropped = u.rd .telemDropped)
    ∧ (u.pickPort none (u.rd .wmbMgrDevice) 0 0 = none → ∃ t, exec (.telemetry e) s = .next t
      ∧ t.rd .telemDropped = min (u.rd .telemDropped + 1) 0xFFFFFFFF ∧ t.rd .entState e = 3 ∧ t.ports = u.ports)))
  ∧ ((∀ (s : State) (e : Nat), s.firesNow e 3 = true → ∃ t, exec (.scrub e) s = .next t ∧ t.rd .entState e = 2
      ∧ Sp.get? t.scrubOpen e = some (bits (s.rd .entArg e) 0 16)
      ∧ t.rd .scrubBw = (if s.rd .scrubRate = 0 then 20 else if s.rd .scrubRate = 1 then 40 else 160))
  ∧ (∀ (s : State) (e n : Nat) (c : CollCtx), s.firesNow e 1 = true → Sp.get? s.colls n = some c → c.entry = some e →
    c.state = 1 → ∃ t, exec (.collPhase e) s = .next t ∧ t.rd .entState e = 2
      ∧ Sp.get? t.colls n = some { c with state := 2, slot := s.rd .entTime e, bound := s.rd .entTime e + s.rd .entDuration e })
  ∧ (∀ (s : State) (e : Nat), e < 4096 → s.rd .entState e = 2 → s.rd .entTime e + s.rd .entDuration e ≤ s.now →
    (s.rd .entPeriod e = 0 → ∃ t, exec (.entryWindowClose e) s = .next t ∧ t.rd .entState e = 3 ∧ Sp.get? t.scrubOpen e = none)
    ∧ (s.rd .entPeriod e ≠ 0 → s.rd .entRepeat e = 0 → ∃ t, exec (.entryWindowClose e) s = .next t ∧ t.rd .entState e = 1
      ∧ t.rd .entTime e = (s.rd .entTime e + s.rd .entPeriod e) % 2 ^ 64 ∧ Sp.get? t.scrubOpen e = none)))

/-- Deferral and its answers: at its lead, in every lock state, an entry whose member is not ready sends one DEFER and counts it; a SHIFT
moves the matching ARMED entry to NEW_TIME; a GROUP_ABORT frees the matching entry, ARMED, OPEN or DONE, and ends a COLL pour of the
collective that waits in the fabric unit with its CODE. -/
def Obligations.DeferShiftAbort : Prop :=
  (∀ (s : State) (e : Nat), e < 4096 → s.rd .entState e = 1 → s.rd .entKind e = 1 → (s.entry e).leadChecked = false →
    s.rd .entTime e ≤ s.now + s.leadNs → s.memberReady e = false → s.rd .deferPolicy = 0 →
    ∃ t, exec (.deferLeadCheck e) s = .next t ∧ t.rd .defersSent = min (s.rd .defersSent + 1) 0xFF
      ∧ (t.entry e).leadChecked = true ∧ t.rd .entState e = 1)
  ∧ (∀ (s : State) (port e : Nat) (p : List Byte) (r : List (List Byte)), (s.port port).inbox = p :: r → (pktHdr p).op = 6 →
    s.phaseEntries (bits (pktWord p 16) 0 16) (bits (pktWord p 16) 16 16) [1] = [e] → s.rd .entTime e = pktWord p 0 →
    ∃ t, exec (.shift port) s = .next t ∧ t.rd .entTime e = pktWord p 8 ∧ t.rd .entDefers e = bits (pktWord p 16) 32 4
      ∧ t.rd .entState e = s.rd .entState e ∧ (t.entry e).leadChecked = false ∧ (t.port port).inbox = r)
  ∧ (∀ (s : State) (port : Nat) (p : List Byte) (r : List (List Byte)), (s.port port).inbox = p :: r → (pktHdr p).op = 7 →
    s.colls = [] →
    ∃ t, exec (.groupAbort port) s = .next t ∧ (t.port port).inbox = r
      ∧ (∀ e ∈ s.phaseEntries (bits (pktWord p 0) 0 16) (bits (pktWord p 0) 16 16) [1, 2, 3], t.rd .entState e = 0)
      ∧ ∀ q ∈ s.pours, q.unit = .fabric → q.stage = .queued → q.param 16 16 = bits (pktWord p 0) 0 16 →
          q.param 32 16 = bits (pktWord p 0) 16 16 → { q with stage := .faulted, code := bits (pktWord p 0) 32 16 } ∈ t.pours)

/-! ### The host interface -/

/-- A write of one 32-bit register of PF0 BAR0 that has no command of its own: each RW field takes the bits written, a bit written 1
clears in a W1C field and sets in a W1S field, every other field and every other register stays, and nothing but registers changes. A
32-bit read of a register returns its value, or of one that start-up has not loaded yet its reset value, and clears its RC fields; a read of
ALMANAC_NOW_LO latches the high half; no other register changes. -/
def Obligations.RegisterAccess : Prop :=
  (∀ (s : State) (off : Nat) (r : RegAt) (value : Word64), s.bar0Up = true → off % 4 = 0 → regAt off = some r →
    (∀ e ∈ r.row.fields, e.1 ∉ [FKind.cqEnable, .eqEnable, .ladleEnable, .ladleTail, .entKind]) →
    ∃ t, exec (.registerWrite (.bar0 .pf0) off 0x0F value) s = .next t
      ∧ t.mem = s.mem ∧ t.pours = s.pours ∧ t.time = s.time ∧ t.phase = s.phase
      ∧ (∀ e ∈ r.row.fields, ownCommand e.1 = false → s.takesWrite e.1 r.index = true →
          let m := bits (0xFFFFFFFF <<< (8 * r.byte)) e.2 e.1.info.width
          let v := bits ((value.toNat % 2 ^ 32) <<< (8 * r.byte)) e.2 e.1.info.width &&& m
          m ≠ 0 → t.rd e.1 r.index = match e.1.info.acc with
            | .rw => (s.rd e.1 r.index &&& (2 ^ e.1.info.width - 1 - m)) ||| v
            | .w1c => s.rd e.1 r.index &&& (2 ^ e.1.info.width - 1 - v)
            | .w1s => (s.rd e.1 r.index ||| v) % 2 ^ e.1.info.width
            | _ => s.rd e.1 r.index)
      ∧ ∀ (k : FKind) (i : Nat), (∀ e ∈ r.row.fields, e.1 ≠ k) ∨ i ≠ r.index → t.rd k i = s.rd k i)
  ∧ (∀ (s : State) (off : Nat) (r : RegAt), s.bar0Up = true → off % 4 = 0 → regAt off = some r → r.row.bytes = 4 → r.byte = 0 →
    ∃ t, exec (.rcCounterRead (.bar0 .pf0) off 4) s = .next t
      ∧ (s.ready = true → HostMsg.data (leBytes (bits (s.regValue r) 0 32) 4) false ∈ t.host.out.drop s.host.out.length)
      ∧ ((∀ e ∈ r.row.fields, s.unloaded e.1.info.block = true) →
        HostMsg.data (leBytes (bits (r.row.fields.foldl (fun v e => v ||| (e.1.info.reset <<< e.2)) 0) 0 32) 4) false
          ∈ t.host.out.drop s.host.out.length)
      ∧ (∀ e ∈ r.row.fields, e.1.info.acc = .rc → t.rd e.1 r.index = 0)
      ∧ (∀ (k : FKind) (i : Nat), k.info.acc ≠ .rc ∨ i ≠ r.index → (k = .nowHi → ∀ e ∈ r.row.fields, e.1 ≠ .nowLo) → t.rd k i = s.rd k i)
      ∧ t.mem = s.mem ∧ t.pours = s.pours)

/-- Host writes of one word each: a semaphore takes the value, a ring head arms its source and, with records remaining, fires it, the head
of a STOPPED ladle moves, and a doorbell moves the tail of an enabled ladle unless that would overfill its ring, or waits for earlier writes of
its function to a bay. HOST_INT_CAUSE is cleared
by bits written 1 and HOST_INT_EN replaced; a masked cause left nonzero sends the part-event message of a READY part. ERR_LOG_HEAD moves
no further than TAIL. -/
def Obligations.HostRegisters : Prop :=
  ((∀ (s : State) (n : Nat) (value : Word32), s.bar0Up = true → n < 4096 → ∃ t, exec (.semWrite n value) s = .next t
      ∧ t.rd .sem n = value.toNat ∧ t.mem = s.mem ∧ t.pours = s.pours
      ∧ ∀ (k : FKind) (i : Nat), k ≠ .sem ∨ i ≠ n → t.rd k i = s.rd k i)
  ∧ (∀ (s : State) (f : Nat) (value : Word32), s.bar0Up = true → f < 64 →
    ∃ t, exec (.cqHeadWrite f value) s = .next t ∧ t.rd .cqHead f = value.toNat ∧ t.rd .cqTail f = s.rd .cqTail f
      ∧ (value.toNat = s.rd .cqTail f → (t.rd .cqArmed (f / 32)).testBit (f % 32) = true)
      ∧ (value.toNat ≠ s.rd .cqTail f → s.bit .cqIntEn f = true → s.sendable (s.flaskVector f false) = true →
          HostMsg.msix (s.flaskVector f false) ∈ t.host.out.drop s.host.out.length
            ∧ (t.rd .cqArmed (f / 32)).testBit (f % 32) = false)
      ∧ ∀ (k : FKind) (i : Nat), k ≠ .cqHead → k ≠ .cqArmed → t.rd k i = s.rd k i)
  ∧ (∀ (s : State) (f : Nat) (value : Word32), s.bar0Up = true → f < 64 →
    ∃ t, exec (.eqHeadWrite f value) s = .next t ∧ t.rd .eqHead f = value.toNat ∧ t.rd .eqTail f = s.rd .eqTail f
      ∧ (value.toNat = s.rd .eqTail f → (t.rd .eqArmed (f / 32)).testBit (f % 32) = true)
      ∧ (value.toNat ≠ s.rd .eqTail f → s.bit .eqIntEn f = true → s.sendable (s.flaskVector f true) = true →
          HostMsg.msix (s.flaskVector f true) ∈ t.host.out.drop s.host.out.length
            ∧ (t.rd .eqArmed (f / 32)).testBit (f % 32) = false)
      ∧ ∀ (k : FKind) (i : Nat), k ≠ .eqHead → k ≠ .eqArmed → t.rd k i = s.rd k i)
  ∧ (∀ (s : State) (n : Nat) (value : Word32), s.bar0Up = true → s.rd .ladleState n = ladleStopped →
    ∃ t, exec (.ladleHeadWrite n value) s = .next t ∧ t.rd .ladleHead n = value.toNat
      ∧ ∀ (k : FKind) (i : Nat), k ≠ .ladleHead ∨ i ≠ n → t.rd k i = s.rd k i)
  ∧ (∀ (s : State) (n : Nat) (value : Word32), n < 256 → s.bellHeld .pf0 = true → ∃ t, exec (.doorbell .pf0 n value) s = .next t
      ∧ t.host.bells = s.host.bells ++ [(.pf0, n, value.toNat)] ∧ t.csr = s.csr ∧ t.mem = s.mem)
  ∧ (∀ (s : State) (n : Nat) (value : Word32), s.ready = true → n < 256 → s.bit .ladleEnable n = true → s.bellHeld .pf0 = false →
    ∃ t, exec (.doorbell .pf0 n value) s = .next t ∧ t.mem = s.mem ∧ t.pours = s.pours
      ∧ (if 2 ^ s.rd .ladleSizeLog2 n < sub32 value.toNat (s.rd .ladleHead n)
         then t.rd .ladleTail n = s.rd .ladleTail n ∧ t.bit .tailError n = true
         else t.rd .ladleTail n = value.toNat)
      ∧ ∀ (k : FKind) (i : Nat), (k ≠ .ladleTail ∧ k ≠ .tailError) ∨ i ≠ n → t.rd k i = s.rd k i))
  ∧ ((∀ (s : State) (value : Word32), s.bar0Up = true → ∃ t, exec (.hostIntWrite false value) s = .next t
      ∧ t.rd .hostIntCause = s.rd .hostIntCause &&& (127 - value.toNat % 128)
      ∧ (t.maskedCause ≠ 0 → s.sendable (s.route 136) = true →
          HostMsg.msix (s.route 136) ∈ t.host.out.drop s.host.out.length)
      ∧ ∀ (k : FKind) (i : Nat), k ≠ .hostIntCause → t.rd k i = s.rd k i)
  ∧ (∀ (s : State) (value : Word32), s.bar0Up = true → ∃ t, exec (.hostIntWrite true value) s = .next t
      ∧ t.rd .hostIntEn = value.toNat % 128
      ∧ (t.maskedCause ≠ 0 → s.sendable (s.route 136) = true →
          HostMsg.msix (s.route 136) ∈ t.host.out.drop s.host.out.length)
      ∧ ∀ (k : FKind) (i : Nat), k ≠ .hostIntEn → t.rd k i = s.rd k i)
  ∧ (∀ (s : State) (value : Word32), s.bar0Up = true → s.rd .errLogTail < 2 ^ 32 →
    ∃ t, exec (.errLogHeadWrite value) s = .next t
      ∧ t.rd .errLogHead = (if sub32 (s.rd .errLogTail) value.toNat < 2 ^ 31 then value.toNat else s.rd .errLogTail)
      ∧ ∀ (k : FKind) (i : Nat), k ≠ .errLogHead → t.rd k i = s.rd k i))

/-- A BAR2 write of whole words to local memory stores its bytes and leaves every other byte, and every mark outside them but that of an
uncorrectable word of a line that the cache writes back, which is poisoned; a read of the same range that follows completes with the bytes. A
BAR2 access to an address that is not present, or beyond the window, is refused: the read completes with Unsupported Request, the write changes no
memory and is reported. -/
def Obligations.Bar2Accesses : Prop :=
  (∀ (s : State) (off : Nat) (data : List Byte) (ro : Bool), s.ready = true → data ≠ [] → data.length % 8 = 0 → off % 8 = 0 →
    let a := s.bar2Addr .pf0 off
    s.present a data.length = true → tierOf a ≠ 2 → s.drains a data.length = false → off + data.length ≤ s.bar2Bytes .pf0 →
    ∃ t, exec (.bar2Write .pf0 off data ro) s = .next t
      ∧ (∀ i, i < data.length → Sp.get? t.mem.cells (a + i) = if t.mem.zeroed && (data[i]?).getD 0 = 0 then none else data[i]?)
      ∧ (∀ x, x < a ∨ a + data.length ≤ x → Sp.get? t.mem.cells x = Sp.get? s.mem.cells x)
      ∧ (∀ w, w < a / 8 ∨ (a + data.length) / 8 ≤ w → Sp.get? t.mem.marks w = Sp.get? s.mem.marks w
          ∨ ((Sp.get? s.mem.marks w).map Mark.decode = some .uncorrectable ∧ Sp.get? t.mem.marks w = some (.poison 0)))
      ∧ ∃ u, exec (.bar2Read .pf0 off data.length) t = .next u
        ∧ HostMsg.data data false ∈ u.host.out.drop t.host.out.length ∧ u.mem.cells = t.mem.cells)
  ∧ (∀ (s : State) (off len : Nat) (data : List Byte) (ro : Bool), s.ready = true → s.tc2 = [] → s.staged = [] →
    (s.present (s.bar2Addr .pf0 off) len = false ∨ s.bar2Bytes .pf0 < off + len → ∃ t, exec (.bar2Read .pf0 off len) s = .next t
      ∧ HostMsg.unsupported ∈ t.host.out.drop s.host.out.length ∧ t.mem = s.mem ∧ t.csr = s.csr)
    ∧ (s.present (s.bar2Addr .pf0 off) data.length = false ∨ s.bar2Bytes .pf0 < off + data.length → ∃ t, exec (.bar2Write .pf0 off data ro) s = .next t
      ∧ t.mem = s.mem ∧ t.csr = s.csr
      ∧ t.host.aer = { fn := .pf0, completerAbort := false, write := true, offset := off, length := data.length } :: s.host.aer))

/-- The link and the functions: HOST_LINK shows the trained rate and width, VF Enable creates the VFs up to NumVFs, and in I3C mode the
management port takes a dynamic address. -/
def Obligations.LinkAndFunctions : Prop :=
  (∀ (s : State) (gen width : Nat), s.bar0Up = true → 1 ≤ gen → gen ≤ 7 → width ∈ [1, 2, 4, 8] →
    ∃ t, exec (.pcieLinkUp gen width) s = .next t ∧ t.rd .linkGen = gen ∧ t.rd .linkWidth = width
      ∧ t.rd .linkFlit = (if 6 ≤ gen then 1 else 0)
      ∧ ∀ (k : FKind) (i : Nat), k ∉ [FKind.linkGen, .linkWidth, .linkFlit] → t.rd k i = s.rd k i)
  ∧ (∀ (s : State) (n : Nat), s.bar0Up = true → n < 64 → ∃ t, exec (.vfEnableSet n) s = .next t
      ∧ (∀ v, t.vfExists v = true ↔ 1 ≤ v ∧ v ≤ n)
      ∧ ∀ (k : FKind) (i : Nat), k ∉ [FKind.linkNumVf, .linkVfEnable] → t.rd k i = s.rd k i)
  ∧ (∀ (s : State) (addr : Nat), s.island = true → s.mbox.mgmtI3c = true → addr < 128 →
    ∃ t, exec (.dynamicAddressAssignment addr) s = .next t ∧ t.mbox = { s.mbox with mgmtDynamic := some addr } ∧ t.csr = s.csr)

/-! ### Mailboxes -/

/-- Posting and answering: GO posts the command and clears DONE; the end of a command that has run stores its response, RC and SEQ_ECHO,
sets DONE and clears GO; a posted command with no code of its set is answered UNKNOWN_CMD. The word mailbox: a word from the manager with
FULL at 0 is stored and sets FULL, one from another device is counted and discarded; a first word that is its command's last opens and
completes the command, which waits behind those that came before it, and one that is not opens it. -/
def Obligations.MailboxCommands : Prop :=
  ((∀ (s : State) (m : Nat) (value : Word32), m < 8 → s.bar0Up = true → s.bit .mboxGo m = false → bits value.toNat 0 1 = 1 →
    ∃ t, exec (.mboxGo (.pf m) value) s = .next t ∧ t.bit .mboxGo m = true ∧ t.bit .mboxDone m = false
      ∧ t.rd .mboxCmd m = bits value.toNat 8 8 ∧ t.rd .mboxSeq m = bits value.toNat 16 16 ∧ t.rd .mboxIntEn m = bits value.toNat 1 1
      ∧ t.mbox = s.mbox
      ∧ ∀ (k : FKind) (i : Nat), k ∉ [FKind.mboxGo, .mboxDone, .mboxCmd, .mboxSeq, .mboxIntEn] ∨ i ≠ m → t.rd k i = s.rd k i)
  ∧ (∀ (s : State) (c : BoxCmd) (m : Nat), s.mbox.running = some c → c.done = true → c.box = .pf m → m < 8 →
    c.box ∉ s.mbox.dropped → c.rc < 2 ^ 16 → c.seq < 2 ^ 16 →
    ∃ t, exec (.mboxCommandEnd false) s = .next t ∧ t.mbox.running = none ∧ t.bit .mboxDone m = true ∧ t.bit .mboxGo m = false
      ∧ t.rd .mboxRc m = c.rc ∧ t.rd .mboxSeqEcho m = c.seq
      ∧ ∀ j v, c.resp = [(j, v)] → j < 16 → t.rd .mboxData (16 * m + j) = v.toNat)
  ∧ (∀ (s : State) (c : BoxCmd) (m : Nat), s.mbox.running = none → s.nextCommand = some c → knownCommand c.cmd = false → c.box = .pf m →
    m < 8 → c.box ∉ s.mbox.dropped → s.phase ≠ .recovery → s.sec.lifecycle ≠ 0xF → c.resp = [] →
    ∃ t, exec (.mboxCommandEnd false) s = .next t ∧ t.bit .mboxDone m = true ∧ t.bit .mboxGo m = false ∧ t.rd .mboxRc m = 0x0101))
  ∧ ((∀ (s : State) (port : Nat) (p : List Byte) (r : List (List Byte)), (s.port port).inbox = p :: r → (pktHdr p).op = 0xC0 →
    s.bit .wmbWordEn = true → (pktHdr p).src = s.rd .wmbMgrDevice → s.bit .wmbFull = false →
    ∃ t, exec (.mboxWord port) s = .next t ∧ t.bit .wmbFull = true
      ∧ t.mbox.wordIn = some (bits (pktHdr p).arg 0 2, pktWord p 0) ∧ (t.port port).inbox = r)
  ∧ (∀ (s : State) (port : Nat) (p : List Byte) (r : List (List Byte)), (s.port port).inbox = p :: r → (pktHdr p).op = 0xC0 →
    (pktHdr p).src ≠ s.rd .wmbMgrDevice →
    ∃ t, exec (.mboxWord port) s = .next t ∧ t.rd .wmbReject = min (s.rd .wmbReject + 1) 0xFFFFFFFF ∧ t.mbox = s.mbox
      ∧ (t.port port).inbox = r)
  ∧ (∀ (s : State) (w : Nat), s.mbox.wordIn = some (0, w) →
    ∃ t, exec .mboxWordTake s = .next t ∧ t.bit .wmbFull = false ∧ t.mbox.wordIn = none ∧ t.rd .wmbIn = w % 2 ^ 64
      ∧ (bits w 8 2 = 0 → t.mbox.wordOpen = [] ∧ t.mbox.wordCmds = s.mbox.wordCmds ++ [[w]] ∧ t.bit .wmbOpen = false)
      ∧ (bits w 8 2 ≠ 0 → t.mbox.wordOpen = [w] ∧ t.mbox.wordCmds = s.mbox.wordCmds ∧ t.bit .wmbOpen = true ∧ t.rd .wmbNext = 1)))

/-- Every command that ends with an error of the non-secure set changes nothing but the mailboxes: it runs none of its effect. The order
of refusals (R878 to R883): a source that the command does not take is NOT_PERMITTED, a command that needs READY is NOT_READY before it,
and a RETIRED part answers GET_INFO alone. -/
def Obligations.MailboxErrors : Prop :=
  (∀ (s : State) (box : Box) (code : Nat) (src : Sources) (early : Bool) (fields : List (Nat × Nat)) (f : BoxCmd → State → CmdResult)
    (c : BoxCmd), s.mbox.running = none → (s.runCommand box code src early fields f).mbox.running = some c → c.rc ≠ 0 →
    OnlyMailbox s (s.runCommand box code src early fields f))
  ∧ (∀ (s : State) (box : Box) (code : Nat) (src : Sources) (early : Bool) (fields : List (Nat × Nat)) (f : BoxCmd → State → CmdResult)
    (c : BoxCmd), s.nextCommand = some c → c.box = box → c.cmd = code → s.phase ≠ .recovery →
    let t := s.runCommand box code src early fields f
    (s.sec.lifecycle = 0xF → code ≠ 1 → t.mbox.running = some { c with done := true, rc := 0x020A, resp := [] })
    ∧ (s.sec.lifecycle ≠ 0xF → src.has box = false → t.mbox.running = some { c with done := true, rc := 0x0104, resp := [] })
    ∧ (s.sec.lifecycle ≠ 0xF → src.has box = true → early = false → s.ready = false →
        t.mbox.running = some { c with done := true, rc := 0x0108, resp := [] }))

/-- The commands that return what the part holds answer it and change nothing else. -/
def Obligations.ReadingCommands : Prop :=
  (∀ (s : State) (m : Nat) (c : BoxCmd), Takes s (.pf m) 0x01 [] c → ∃ t, exec (.getInfo (.pf m)) s = .next t
      ∧ Answered t c [(0, s.rd .hostOrder + (s.rd .hostStepping <<< 8) + ((512 - s.derived .fenceCount 0) <<< 16)),
                      (1, s.rd .fabDevice + (s.rd .lockState <<< 12))] ∧ OnlyMailbox s t)
  ∧ (∀ (s : State) (m : Nat) (c : BoxCmd), Takes s (.pf m) 0x21 [] c → ∃ t, exec (.getPower (.pf m)) s = .next t
      ∧ Answered t c [(0, s.rd .pwrWatts + ((s.hottest.2 / 4) <<< 16) + (s.worstClass <<< 24)), (1, s.rd .duty)] ∧ OnlyMailbox s t)
  ∧ (∀ (s : State) (m : Nat) (c : BoxCmd), Takes s (.pf m) 0x34 [] c → ∃ t, exec (.getStartup (.pf m)) s = .next t
      ∧ Answered t c [(0, s.regWord 0xC00000), (1, s.regWord 0xC00004)] ∧ OnlyMailbox s t)
  ∧ (∀ (s : State) (m : Nat) (c : BoxCmd), Takes s (.pf m) 0x30 [(0, 0xFF)] c → c.d 0 < 256 → (itemDefault (c.d 0)).isSome = true →
    ∃ t, exec (.cfgRead (.pf m)) s = .next t
      ∧ Answered t c [(1, itemOf s.contrail.stored (c.d 0)), (2, itemOf s.start.config (c.d 0))] ∧ OnlyMailbox s t)
  ∧ (∀ (s : State) (m : Nat) (c : BoxCmd), Takes s (.pf m) 0x07 [(0, 0x3FFF)] c → s.ready = true → c.d 0 < 0x4000 →
    let i := 256 * bits (c.d 0) 8 6 + bits (c.d 0) 0 8
    ∃ t, exec (.segRead (.pf m)) s = .next t ∧ OnlyMailbox s t
      ∧ Answered t c [(0, c.d 0), (1, s.rd .segBase i), (2, s.rd .segBase i >>> 32), (3, s.rd .segLimit i), (4, s.rd .segLimit i >>> 32),
          (5, (s.segWords i).w), (6, s.rd .segUser i), (7, s.rd .segUser i >>> 32)])

/-- Flasks: FLASK_ENABLE sets the allotments and areas and ENABLED, unless a tier would exceed its allotment, FLASK_DISABLE clears them, SET_ALLOT sets one allotment that the flask
does not already exceed, and WATCH_ALLOT gives a flask its run of watch slots. -/
def Obligations.FlaskCommands : Prop :=
  (∀ (s : State) (m : Nat) (c : BoxCmd), 
    Takes s (.pf m) 0x02 [(0, 0x3F), wholeReg 1, wholeReg 2, (3, 0x1FFF), wholeReg 4, wholeReg 5, (6, 0xFFF), wholeReg 7, (8, 0xFFF)] c →
    s.ready = true → c.d 5 % 4096 = 0 → c.d 7 % 8192 = 0 →
    let f := c.d 0
    let save := c.d 5 + (c.d 6 <<< 32)
    let journal := c.d 7 + (c.d 8 <<< 32)
    let e := s.enableFlask f (c.d 1) (c.d 2) (c.d 3) (c.d 4) save journal
    s.bit .flaskEnabled f = false → s.areaFree f save (4096 * savePages) = true → s.areaFree f journal (1024 * c.d 4) = true →
    (e.overQuota f = true → ∃ t, exec (.flaskEnable (.pf m)) s = .next t
      ∧ t.mbox.running = some { c with done := true, rc := 0x0031, resp := [] } ∧ t.csr = s.csr)
    ∧ (e.overQuota f = false → ∃ t, exec (.flaskEnable (.pf m)) s = .next t ∧ Answered t c [] ∧ t.bit .flaskEnabled f = true ∧ t.saveBase f = save
      ∧ t.rd .allotFast f = c.d 1 ∧ t.rd .allotStack f = c.d 2 ∧ t.rd .allotBays f = c.d 3 ∧ t.journalBase f = journal
      ∧ ∀ g, g ≠ f → t.rd .flaskEnabled g = s.rd .flaskEnabled g))
  ∧ (∀ (s : State) (m : Nat) (c : BoxCmd), Takes s (.pf m) 0x03 [(0, 0x3F)] c → s.ready = true → c.d 0 < 64 → s.derived .usedBays (c.d 0) = 0 →
    (∀ n < 256, s.bit .tableValid n = true → s.rd .tableOwner n ≠ c.d 0) →
    (∀ g < 256, s.bit .groupValid g = true → s.rd .groupFlask g ≠ c.d 0) →
    ∃ t, exec (.flaskDisable (.pf m)) s = .next t ∧ Answered t c [] ∧ t.bit .flaskEnabled (c.d 0) = false
      ∧ (∀ i < 256, t.bit .segValid (256 * c.d 0 + i) = false) ∧ (∀ l < 4, t.rd .ladleState (4 * c.d 0 + l) = 0)
      ∧ (∀ p ∈ t.pours, p.flask ≠ c.d 0) ∧ t.rd .allotFast (c.d 0) = 0 ∧ t.rd .allotStack (c.d 0) = 0)
  ∧ (∀ (s : State) (m : Nat) (c : BoxCmd), Takes s (.pf m) 0x04 [(0, 0x33F), wholeReg 1] c → s.ready = true →
    let f := bits (c.d 0) 0 6
    (bits (c.d 0) 8 2 = 0 → s.usedPages f 1 ≤ c.d 1 → ∃ t, exec (.setAllot (.pf m)) s = .next t ∧ Answered t c []
      ∧ t.rd .allotFast f = c.d 1 ∧ ∀ (k : FKind) (i : Nat), k ≠ .allotFast ∨ i ≠ f → t.rd k i = s.rd k i)
    ∧ (bits (c.d 0) 8 2 = 1 → c.d 1 < s.usedPages f 0 → ∃ t, exec (.setAllot (.pf m)) s = .next t
      ∧ t.mbox.running = some { c with done := true, rc := 0x0031, resp := [] } ∧ t.csr = s.csr))
  ∧ (∀ (s : State) (m : Nat) (c : BoxCmd), Takes s (.pf m) 0x05 [(0, 0x3F), (1, 0x1FFFFFF)] c → s.ready = true →
    let f := c.d 0
    let base := bits (c.d 1) 0 12
    let n := bits (c.d 1) 12 13
    base + n ≤ 4096 → (∀ g < 64, g ≠ f → overlaps base n (s.rd .watchBase g) (s.rd .watchCount g) = false) →
    s.rd .watchBase f + s.rd .watchCount f ≤ base →
    ∃ t, exec (.watchAllot (.pf m)) s = .next t ∧ Answered t c [] ∧ t.rd .watchBase f = base ∧ t.rd .watchCount f = n
      ∧ ∀ i, base ≤ i → i < base + n → t.rd .watchAvg i = 0 ∧ t.bit .watchSeeded i = false)

/-- Segments: SEG_WRITE stores an entry that the checks pass and that no earlier work of the flask still uses; where it changes a valid
entry it waits for the flask's pours and for the pass copies of its heats, and ends once they have ended; a wait past its bound ends
MB_TIMEOUT with the entry as it was. -/
def Obligations.SegmentCommands : Prop :=
  (∀ (s : State) (m : Nat) (c : BoxCmd), Takes s (.pf m) 0x06 ((0, 0x3FFF) :: (List.range 7).map (fun n => wholeReg (n + 1))) c → s.ready = true → c.d 0 < 0x4000 → s.mbox.running = none →
    let f := bits (c.d 0) 8 6
    let i := 256 * f + bits (c.d 0) 0 8
    let x : SegWords := { base := c.d2 1, limit := c.d2 3, w := c.d 5, user := c.d2 6 }
    s.segRefused f x = false → (s.setSegment i x).overQuota f = false →
    (s.bit .segValid i = false → ∃ t, exec (.segWrite (.pf m)) s = .next t ∧ Answered t c [] ∧ t.segWords i = x ∧ t.mem = s.mem
      ∧ ∀ j, j ≠ i → t.segWords j = s.segWords j)
    ∧ (s.bit .segValid i = true → s.segWords i ≠ x →
      (∃ p ∈ s.pours, p.flask = f) ∨ (∃ h ∈ s.heats, ladleFlask h.1 = f ∧ h.2.copying = true) → ∃ t, exec (.segWrite (.pf m)) s = .next t
      ∧ t.segWords i = x ∧ ∃ d : BoxCmd, t.mbox.running = some d ∧ d.done = false ∧ d.rc = 0
        ∧ (∀ p ∈ s.pours, p.flask = f → p.id ∈ d.waitFor)
        ∧ ∀ h ∈ s.heats, ladleFlask h.1 = f → h.2.copying = true → (h.1, h.2.pass) ∈ d.waitHeats))
  ∧ (∀ (s : State) (m : Nat) (c : BoxCmd), s.mbox.running = some c → c.box = .pf m → c.cmd = 0x06 → c.done = false →
    (∀ p ∈ s.pours, p.id ∉ c.waitFor) → (∀ h ∈ s.heats, h.2.copying = true → (h.1, h.2.pass) ∉ c.waitHeats) →
    ∃ t, exec (.segWrite (.pf m)) s = .next t
      ∧ t.mbox.running = some { c with done := true, waitFor := [], waitHeats := [], undo := [] } ∧ t.csr = s.csr)
  ∧ (∀ (s : State) (c : BoxCmd) (i b l w u : Nat), s.mbox.running = some c → c.done = false → c.undo = [i, b, l, w, u] →
    b < 2 ^ 44 → l < 2 ^ 44 → w < 2 ^ 9 → u < 2 ^ 64 → ∃ t, exec .mbTimeout s = .next t
      ∧ t.segWords i = { base := b, limit := l, w := w, user := u }
      ∧ ∃ d : BoxCmd, t.mbox.running = some d ∧ d.done = true ∧ d.rc = 0x010A)

/-- ALMANAC_ARM arms the lowest FREE entry and returns it, ALMANAC_FREE frees an entry, one that is due taking effect first, TABLE_WRITE and GROUP_WRITE store as the register
writes of those blocks do. -/
def Obligations.EntryCommands : Prop :=
  (∀ (s : State) (m e : Nat) (c : BoxCmd), Takes s (.pf m) 0x08 ((List.range 8).map wholeReg) c → s.ready = true → bits (c.d 4) 4 2 = 1 → bits (c.d 4) 0 4 ≠ 1 →
    armForbidden (bits (c.d 4) 0 4) (bits (c.d 4) 12 1) (bits (c.d2 2) 0 40) = false → s.freeEntryIndex = some e →
    ∃ t, exec (.almanacArm (.pf m)) s = .next t ∧ Answered t c [(0, e)] ∧ t.rd .entState e = 1
      ∧ t.rd .entTime e = c.d2 0 % 2 ^ 64 ∧ t.rd .entKind e = bits (c.d 4) 0 4 ∧ t.rd .entArg e = c.d2 6 % 2 ^ 64
      ∧ ∀ e', e' ≠ e → t.rd .entState e' = s.rd .entState e')
  ∧ (∀ (s : State) (m : Nat) (c : BoxCmd), Takes s (.pf m) 0x09 [(0, 0xFFF)] c → s.ready = true → c.d 0 < 4095 →
    ∃ t, exec (.almanacFree (.pf m)) s = .next t ∧ Answered t c [] ∧ t.rd .entState (c.d 0) = 0
      ∧ (∀ e', e' ≠ c.d 0 → t.rd .entState e' = (s.fireDue (c.d 0)).rd .entState e')
      ∧ (s.firesNow (c.d 0) (s.rd .entKind (c.d 0)) = false → ∀ e', e' ≠ c.d 0 → t.rd .entState e' = s.rd .entState e'))
  ∧ (∀ (s u : State) (m : Nat) (c : BoxCmd) (reg : TableReg), Takes s (.pf m) 0x0A [(0, 0x3FF), wholeReg 1, wholeReg 2] c → s.ready = true → c.d 0 < 0x400 →
    reg = (match bits (c.d 0) 8 2 with | 0 => TableReg.cfg | 1 => .rows | 2 => .baseA | _ => .baseB) →
    s.tableSet (bits (c.d 0) 0 8) reg (2 ^ 64 - 1) (c.d2 1) = (.done, u) →
    ∃ t, exec (.tableWrite (.pf m)) s = .next t ∧ Answered t c [] ∧ t.csr = u.csr ∧ t.mem = s.mem)
  ∧ (∀ (s : State) (m : Nat) (c : BoxCmd), Takes s (.pf m) 0x0B ((0, 0xFF) :: (List.range 5).map (fun n => wholeReg (n + 1))) c → s.ready = true → c.d 0 < 256 →
    let u := ((((s.groupWord (c.d 0) 2 (c.d 2)).groupWord (c.d 0) 3 (c.d 3)).groupWord (c.d 0) 4 (c.d 4)).groupWord (c.d 0) 5
      (c.d 5)).groupWord (c.d 0) 0 (c.d 1)
    ∃ t, exec (.groupWrite (.pf m)) s = .next t ∧ t.csr = u.csr ∧ t.mem = s.mem
      ∧ Answered t c [(0, u.rd .groupRank (c.d 0) + (u.rd .groupMembers (c.d 0) <<< 12) + (u.rd .groupMember (c.d 0) <<< 24))])

/-- Loans and bays: LEND sets a GiB's LEND_MAP, LOAN_END keeps its deadline, MAP_BAY maps a FREE bay, REVOKE_BAY arms a BAY_DEADLINE entry
for it, and UNMAP_BAY frees it. -/
def Obligations.BayCommands : Prop :=
  (∀ (s : State) (m : Nat) (c : BoxCmd), Takes s (.pf m) 0x10 [(0, 0x7FFFFF), (1, 0xFFF)] c → s.ready = true →
    bits (c.d 0) 0 11 <<< 30 < s.stackBytes →
    s.bit .lent (bits (c.d 0) 0 11) = false → s.validSegments = [] →
    ∃ t, exec (.lend (.pf m)) s = .next t ∧ Answered t c [] ∧ t.bit .lent (bits (c.d 0) 0 11) = true
      ∧ t.rd .lentDevice (bits (c.d 0) 0 11) = bits (c.d 0) 11 12 ∧ t.rd .lentBay (bits (c.d 0) 0 11) = c.d 1 ∧ t.mem = s.mem)
  ∧ (∀ (s : State) (m : Nat) (c : BoxCmd), Takes s (.pf m) 0x11 [(0, 0x7FF), wholeReg 1, wholeReg 2] c → s.ready = true → c.d 0 < 0x800 → s.bit .lent (c.d 0) = true →
    ∃ t, exec (.loanEnd (.pf m)) s = .next t ∧ Answered t c [] ∧ Sp.get? t.loanEnds (c.d 0) = some (c.d2 1) ∧ t.csr = s.csr)
  ∧ (∀ (s : State) (m : Nat) (c : BoxCmd), Takes s (.pf m) 0x12 [(0, 0x3FFFF), (1, 0x7FFFFF)] c → s.ready = true →
    s.rd .bayState (bits (c.d 0) 0 12) = 0 → s.derived .usedBays (bits (c.d 0) 12 6) < s.rd .allotBays (bits (c.d 0) 12 6) →
    ∃ t, exec (.mapBay (.pf m)) s = .next t ∧ Answered t c [] ∧ t.rd .bayState (bits (c.d 0) 0 12) = 1
      ∧ t.rd .bayFlask (bits (c.d 0) 0 12) = bits (c.d 0) 12 6 ∧ t.rd .bayDevice (bits (c.d 0) 0 12) = bits (c.d 1) 0 12
      ∧ t.rd .bayLenderGib (bits (c.d 0) 0 12) = bits (c.d 1) 12 11)
  ∧ (∀ (s : State) (m e : Nat) (c : BoxCmd), Takes s (.pf m) 0x13 [(0, 0xFFF), wholeReg 1, wholeReg 2] c → s.ready = true → c.d 0 < 4096 → s.rd .bayState (c.d 0) = 1 →
    s.freeEntryIndex = some e →
    ∃ t, exec (.revokeBay (.pf m)) s = .next t ∧ Answered t c [(0, e)] ∧ t.rd .entState e = 1 ∧ t.rd .entKind e = 5
      ∧ t.rd .entArg e = c.d 0 ∧ t.rd .entTime e = c.d2 1 % 2 ^ 64 ∧ t.rd .bayDeadlineEntry (c.d 0) = e
      ∧ t.bit .bayDeadlineSet (c.d 0) = true ∧ t.rd .bayState (c.d 0) = 1)
  ∧ (∀ (s : State) (m : Nat) (c : BoxCmd), Takes s (.pf m) 0x14 [(0, 0xFFF)] c → s.ready = true → c.d 0 < 4096 → s.validSegments = [] →
    ∃ t, exec (.unmapBay (.pf m)) s = .next t ∧ Answered t c [] ∧ t.rd .bayState (c.d 0) = 0 ∧ t.bit .bayDeadlineSet (c.d 0) = false
      ∧ (s.bit .bayDeadlineSet (c.d 0) = true → t.rd .entState (s.rd .bayDeadlineEntry (c.d 0)) = 0))

/-- Modes, configuration and power: SET_MODES sets the envelope, strictness and scrub rate but where a field is 3, CFG_WRITE stores an
item for the next start-up, START begins a start-up of a part in STANDBY, once, and STOP ends all work and takes the power away. -/
def Obligations.ModeCommands : Prop :=
  (∀ (s : State) (m : Nat) (c : BoxCmd), Takes s (.pf m) 0x20 [(0, 0x3F)] c → c.d 0 < 0x40 → ∃ t, exec (.setModes (.pf m)) s = .next t
      ∧ Answered t c [] ∧ t.rd .envelope = (if bits (c.d 0) 0 2 = 3 then s.rd .envelope else bits (c.d 0) 0 2)
      ∧ t.rd .strictness = (if bits (c.d 0) 2 2 = 3 then s.rd .strictness else bits (c.d 0) 2 2)
      ∧ t.rd .scrubRate = (if bits (c.d 0) 4 2 = 3 then s.rd .scrubRate else bits (c.d 0) 4 2)
      ∧ t.rd .stackCap = envelopeStackCap (t.rd .envelope))
  ∧ (∀ (s : State) (m : Nat) (c : BoxCmd), Takes s (.pf m) 0x31 [(0, 0xFF), wholeReg 1] c → c.d 0 < 256 → (itemDefault (c.d 0)).isSome = true →
    itemRefused (c.d 0) (c.d 1) = false → ∃ t, exec (.cfgWrite (.pf m)) s = .next t ∧ Answered t c []
      ∧ Sp.get? t.contrail.stored (c.d 0) = some (BitVec.ofNat 32 (c.d 1)) ∧ t.contrail.storedOlder = s.contrail.stored
      ∧ t.start.config = s.start.config ∧ t.csr = s.csr)
  ∧ (∀ (s : State) (c : BoxCmd), Takes s .mgmt 0x32 [] c → s.phase = .standby → s.start.startTaken = false →
    ∃ t, exec (.start .mgmt) s = .next t ∧ Answered t c [] ∧ t.start.startTaken = true ∧ t.phase = .standby ∧ t.rd .startCause = 2
      ∧ t.sec.bootCount = s.sec.bootCount + 1 ∧ t.start.checkDue = true ∧ t.pours = [] ∧ t.mem = {}
      ∧ ∀ (k : FKind) (i : Nat), k.info.block = .sem ∨ k.info.block = .power → t.rd k i = k.resetVal i)
  ∧ (∀ (s : State) (c : BoxCmd), Takes s .mgmt 0x32 [] c → s.phase = .standby → s.start.startTaken = true →
    ∃ t, exec (.start .mgmt) s = .next t ∧ Answered t c [] ∧ t.phase = .standby ∧ t.sec = s.sec ∧ t.csr = s.csr)
  ∧ (∀ (s : State) (c : BoxCmd), Takes s .mgmt 0x33 [] c → s.powered = true → ∃ t, exec (.stop .mgmt) s = .next t
      ∧ Answered t c [] ∧ t.phase = .standby ∧ t.pours = [] ∧ t.heats = [] ∧ t.pins.pwrGood = false ∧ t.start.needStart = true)

/-! ### The secure channel, the contrail record, probes and the test access port -/

/-- Firmware: FW_BEGIN erases the idle bank, FW_WRITE stores the bytes of SEC_BUF at its place in the bank, FW_VERIFY returns the first
failing step and marks the bank verified only where there is none, FW_ACTIVATE makes the idle bank the TRIAL only when that bank is the one
verified, and FW_COMMIT makes the running bank PREFERRED, the counters rising only with ADVANCE. Each change of the bank record keeps the record
before it as the older copy. A flash unit that fails to program ends FW_BEGIN and FW_WRITE SEC_FLASH_ERROR. -/
def Obligations.FirmwareCommands : Prop :=
  (∀ (s : State) (b : Nat) (c : BoxCmd), TakesSecure s .secPf1 0x03 c → s.idleBank = some b → s.sec.lifecycle ≠ 1 →
    s.sec.norFails (4096 * b) 4096 = false →
    ∃ t, exec (.fwBegin .secPf1) s = .next t ∧ AnsweredSecure t c [(0, b)] ∧ t.sec.verified = none
      ∧ b ∈ t.sec.unverified ∧ (∀ e ∈ t.sec.bank, e.1 / 4096 ≠ b) ∧ (∀ e ∈ s.sec.bank, e.1 / 4096 ≠ b → e ∈ t.sec.bank))
  ∧ (∀ (s : State) (b : Nat) (c : BoxCmd), TakesSecure s .secPf1 0x04 c → s.idleBank = some b → s.sec.lifecycle ≠ 1 → c.d 0 < 4096 →
    4 ≤ c.d 1 → c.d 1 ≤ 32768 → s.sec.norFails (4096 * b + c.d 0) 1 = false →
    ∃ t, exec (.fwWrite .secPf1) s = .next t ∧ AnsweredSecure t c [] ∧ t.sec.verified = none
      ∧ Sp.get? t.sec.bank (4096 * b + c.d 0) = some (s.bufBytes 0 (c.d 1)
          ++ (Sp.getD s.sec.bank (4096 * b + c.d 0) (List.replicate 32768 0xFF)).drop (c.d 1))
      ∧ ∀ u, u ≠ 4096 * b + c.d 0 → Sp.get? t.sec.bank u = Sp.get? s.sec.bank u)
  ∧ (∀ (s : State) (b : Nat) (c : BoxCmd), TakesSecure s .secPf1 0x05 c → s.idleBank = some b → s.sec.lifecycle ≠ 1 →
    ∃ t d, exec (.fwVerify .secPf1) s = .next t ∧ t.mbox.secRunning = some d ∧ d.done = true
      ∧ d.resp = [(0, BitVec.ofNat 32 (s.imageCheck b))] ∧ (d.rc = 0 ↔ s.imageCheck b = 0)
      ∧ t.sec.verified = (if s.imageCheck b = 0 then some b else s.sec.verified) ∧ t.sec.bank = s.sec.bank
      ∧ (s.imageCheck b = 0 → b ∉ t.sec.unverified))
  ∧ (∀ (s : State) (b : Nat) (c : BoxCmd), TakesSecure s .secPf1 0x06 c → s.idleBank = some b →
    (s.sec.verified = some b → ∃ t, exec (.fwActivate .secPf1) s = .next t ∧ AnsweredSecure t c [] ∧ t.sec.trial = some b
      ∧ t.sec.preferred = s.sec.preferred ∧ t.sec.recordOlder = (s.sec.preferred, s.sec.trial))
    ∧ (s.sec.verified ≠ some b → ∃ t d, exec (.fwActivate .secPf1) s = .next t ∧ t.mbox.secRunning = some d ∧ d.done = true ∧ d.rc = 0x0205
      ∧ t.sec = s.sec))
  ∧ (∀ (s : State) (c : BoxCmd), TakesSecure s .secPf1 0x07 c → s.start.imageRuns = true → c.d 0 = 0 →
    ∃ t, exec (.fwCommit .secPf1) s = .next t ∧ AnsweredSecure t c [(0, s.sec.svn), (1, s.sec.tokenSvn)]
      ∧ t.sec.preferred = s.start.runBank ∧ t.sec.svn = s.sec.svn ∧ t.sec.tokenSvn = s.sec.tokenSvn
      ∧ t.sec.recordOlder = (s.sec.preferred, s.sec.trial))
  ∧ (∀ (s : State) (b : Nat) (c : BoxCmd), TakesSecure s .secPf1 0x03 c → s.idleBank = some b → s.sec.lifecycle ≠ 1 →
    s.sec.norFails (4096 * b) 4096 = true → ∃ t d, exec (.fwBegin .secPf1) s = .next t ∧ t.mbox.secRunning = some d ∧ d.done = true
      ∧ d.rc = 0x0208 ∧ t.sec = s.sec)
  ∧ (∀ (s : State) (b : Nat) (c : BoxCmd), TakesSecure s .secPf1 0x04 c → s.idleBank = some b → s.sec.lifecycle ≠ 1 → c.d 0 < 4096 →
    4 ≤ c.d 1 → c.d 1 ≤ 32768 → s.sec.norFails (4096 * b + c.d 0) 1 = true → ∃ t d, exec (.fwWrite .secPf1) s = .next t
      ∧ t.mbox.secRunning = some d ∧ d.done = true ∧ d.rc = 0x0208 ∧ t.sec = s.sec)

/-- Evidence and debug: GET_CERT returns a certificate in SEC_BUF, GET_EVIDENCE advances the HSS index, DEBUG_CHALLENGE issues a nonce,
and DEBUG_UNLOCK spends the challenge in every case, opens nothing while a flask is active, and either enters DEBUG_UNLOCKED with the
array stores cleared or leaves the lifecycle as it was; with a token for this part, its challenge, its floor and both signatures right, it
opens. Retirement and the first lifecycle step: RETIRE_ARM returns the code that RETIRE
must carry, RETIRE with that code within 10 s retires the part, and LIFECYCLE_PRODUCTION takes MANUFACTURE to PRODUCTION; a RETIRED part answers
SEC_RETIRED even to a source that the command does not take. -/
def Obligations.EvidenceAndLifecycle : Prop :=
  ((∀ (s : State) (c : BoxCmd), TakesSecure s .secPf1 0x01 c → c.d 0 < 3 → ∃ t, exec (.getCert .secPf1) s = .next t
      ∧ AnsweredSecure t c [(0, ((Config.certificate (c.d 0)).take 32768).length)] ∧ t.csr = s.csr
      ∧ ∀ i v, ((Config.certificate (c.d 0)).take 32768)[i]? = some v → Sp.get? t.sec.buf i = some v)
  ∧ (∀ (s : State) (c : BoxCmd), TakesSecure s .secPf1 0x02 c → s.sec.lifecycle ≠ 1 → s.sec.hssIndex < 2 ^ 40 →
    ∃ t, exec (.getEvidence .secPf1) s = .next t ∧ AnsweredSecure t c [(0, 6100)] ∧ t.sec.hssIndex = s.sec.hssIndex + 1
      ∧ t.sec.hssCopy = s.sec.hssIndex + 1)
  ∧ (∀ (s : State) (c : BoxCmd), TakesSecure s .secPf1 0x08 c → ∃ t n, exec (.debugChallenge .secPf1) s = .next t
      ∧ AnsweredSecure t c [] ∧ t.sec.challenge = some (n, s.now) ∧ n.length = 48
      ∧ ∀ i v, n[i]? = some v → Sp.get? t.sec.buf i = some v)
  ∧ (∀ (s : State) (c : BoxCmd), TakesSecure s .secPf1 0x09 c → s.sec.lifecycle = 2 → ∃ t d, exec (.debugUnlock .secPf1) s = .next t
      ∧ t.mbox.secRunning = some d ∧ d.done = true ∧ t.sec.challenge = none
      ∧ (s.flaskActive = true → d.rc = 0x0206 ∧ t.sec.lifecycle = 2)
      ∧ (s.sec.challenge = none → d.rc ≠ 0)
      ∧ (if d.rc = 0 then t.sec.lifecycle = 3 ∧ t.sec.unlockCount = s.sec.unlockCount + 1 ∧ t.cache = []
            ∧ (∀ a, a < 512 → (t.array a).bufA.cells = [] ∧ (t.array a).bufB.cells = [])
          else t.sec.lifecycle = 2 ∧ t.arrays = s.arrays ∧ t.sec.scope = s.sec.scope))
  ∧ (∀ (s : State) (c : BoxCmd) (nonce : List Byte) (at0 : Nat), TakesSecure s .secPf1 0x09 c → s.sec.lifecycle = 2 →
    s.flaskActive = false → s.sec.challenge = some (nonce, at0) → s.now < at0 + 60000000000 →
    let token := s.bufBytes 0 3052
    let field (off n : Nat) : List Byte := (token.drop off).take n
    leNat (field 0 4) = 0x4B545758 → (∀ x ∈ field 0x04 12 ++ field 0x51 3 ++ field 0x58 40, x = 0) → leNat (field 0x54 4) < 4 →
    field 0x10 16 = padTo s.sec.serial 16 0 → field 0x20 48 = nonce → s.sec.tokenSvn ≤ leNat (field 0x50 1) →
    Config.ecdsaVerify keyDebug (Config.sha384 (token.take 0x80)) (field 0x80 96) = true →
    Config.lmsVerify keyDebug (Config.sha384 (token.take 0x80)) (token.drop 0xE0) = true →
    ∃ t, exec (.debugUnlock .secPf1) s = .next t ∧ AnsweredSecure t c [] ∧ t.sec.lifecycle = 3
      ∧ t.sec.scope = leNat (field 0x54 4) ∧ t.sec.unlockCount = s.sec.unlockCount + 1 ∧ t.sec.challenge = none
      ∧ t.cache = [] ∧ ∀ a, a < 512 → (t.array a).bufA.cells = [] ∧ (t.array a).bufB.cells = []))
  ∧ ((∀ (s : State) (c : BoxCmd), TakesSecure s .secMgmt 0x0A c → ∃ t code, exec (.retireArm .secMgmt) s = .next t
      ∧ t.sec.retireCode = some (code, s.now) ∧ code.length = 16 ∧ t.sec.lifecycle = s.sec.lifecycle
      ∧ AnsweredSecure t c [(0, leNat (code.take 4)), (1, leNat ((code.drop 4).take 4)), (2, leNat ((code.drop 8).take 4)),
          (3, leNat ((code.drop 12).take 4))])
  ∧ (∀ (s : State) (c : BoxCmd) (at0 : Nat), TakesSecure s .secMgmt 0x0B c → s.sec.lifecycle = 2 →
    s.sec.retireCode = some (leBytes (c.d 0) 4 ++ leBytes (c.d 1) 4 ++ leBytes (c.d 2) 4 ++ leBytes (c.d 3) 4, at0) →
    s.now < at0 + 10000000000 → s.sec.badFuses = false → ∃ t, exec (.retire .secMgmt) s = .next t ∧ AnsweredSecure t c [] ∧ t.sec.lifecycle = 0xF
      ∧ t.sec.hssIndex = 0 ∧ t.sec.scope = 0 ∧ t.sec.retireCode = none)
  ∧ (∀ (s : State) (c : BoxCmd), TakesSecure s .secMgmt 0x0C c → s.sec.lifecycle = 1 → s.sec.badFuses = false →
    ∃ t, exec (.lifecycleProduction .secMgmt) s = .next t ∧ AnsweredSecure t c [] ∧ t.sec.lifecycle = 2)
  ∧ (∀ (s : State) (c : BoxCmd), s.nextSecure = some c → c.box = .secPf1 → c.cmd = 0x0A → s.phase ≠ .recovery → s.sec.lifecycle = 0xF →
    ∃ t d, exec (.retireArm .secPf1) s = .next t ∧ t.mbox.secRunning = some d ∧ d.done = true ∧ d.rc = 0x020A ∧ t.sec = s.sec))

/-- The contrail record: the oldest waiting entry goes to the ring slot of its SEQ, and a first-fault entry to the first-fault region as
well while it has room; the windows latch a slot and the management window reads it 4 bytes at a time. CONTRAIL_CLEAR clears the first-
fault region only when the request names its newest entry; CONTRAIL_READ copies entries into SEC_BUF. A traffic generator run leaves every
word that it tested undefined and is refused while a flask is active (FLASK_ACTIVE); TGEN_RESULT returns what it found. -/
def Obligations.ContrailAndTraffic : Prop :=
  ((∀ (s : State) (e : CtEvent) (r : List CtEvent), s.contrail.lostDue = 0 → s.contrail.queue = e :: r →
    let copy := firstFaultKind e.kind && decide (s.contrail.ffCount < 16384)
    let b := e.bytes s.contrail.nextSeq copy
    ∃ t, exec .contrailEntryWrite s = .next t ∧ t.contrail.queue = r ∧ t.contrail.nextSeq = s.contrail.nextSeq + 1
      ∧ Sp.get? t.contrail.ring ((s.contrail.nextSeq.toNat - 1) % 475136) = some b
      ∧ (copy = true → Sp.get? t.contrail.first s.contrail.ffCount = some b ∧ t.contrail.ffCount = s.contrail.ffCount + 1
          ∧ t.bit .ffNew = true)
      ∧ (copy = false → t.contrail.first = s.contrail.first ∧ t.contrail.ffCount = s.contrail.ffCount)
      ∧ t.contrail.newestFault = (if firstFaultKind e.kind = true then b else s.contrail.newestFault))
  ∧ (∀ (s : State) (value : Word32), s.bar0Up = true → ∃ t, exec (.ctSelWrite false value) s = .next t
      ∧ t.contrail.latch = s.contrail.slot (bits value.toNat 31 1) (bits value.toNat 0 19)
      ∧ t.contrail.mgtLatch = s.contrail.mgtLatch ∧ t.rd .ctSlot = bits value.toNat 0 19)
  ∧ (∀ (s : State) (value : Word32), s.island = true → ∃ t, exec (.ctSelWrite true value) s = .next t
      ∧ t.contrail.mgtLatch = s.contrail.slot (bits value.toNat 31 1) (bits value.toNat 0 19) ∧ t.contrail.mgtPtr = 0
      ∧ t.contrail.latch = s.contrail.latch)
  ∧ (∀ s : State, s.island = true → ∃ t, exec .ctDataRead s = .next t
      ∧ HostMsg.data ((s.contrail.mgtLatch.drop s.contrail.mgtPtr).take 4) false ∈ t.host.out.drop s.host.out.length
      ∧ t.contrail.mgtPtr = (s.contrail.mgtPtr + 4) % 128 ∧ t.csr = s.csr)
  ∧ (∀ (s : State) (value : Word32), s.island = true → ∃ t, exec (.bufDataAccess (some value)) s = .next t
      ∧ (∀ i < 4, Sp.get? t.sec.buf ((s.rd .bufPtr + i) % 32768) = (leBytes value.toNat 4)[i]?)
      ∧ t.rd .bufPtr = (s.rd .bufPtr + 4) % 32768)
  ∧ (∀ s : State, s.island = true → ∃ t, exec (.bufDataAccess none) s = .next t ∧ t.sec = s.sec
      ∧ HostMsg.data (s.bufBytes (s.rd .bufPtr) 4) false ∈ t.host.out.drop s.host.out.length
      ∧ t.rd .bufPtr = (s.rd .bufPtr + 4) % 32768))
  ∧ ((∀ (s : State) (c : BoxCmd), TakesSecure s .secPf1 0x0D c → s.contrail.ffCount ≠ 0 → s.contrail.queue = [] →
    leNat (s.contrail.newestFault.take 8) = c.d2 0 → leNat ((s.contrail.newestFault.drop 124).take 4) = c.d 2 →
    ∃ t, exec (.contrailClear .secPf1) s = .next t ∧ AnsweredSecure t c [] ∧ t.contrail.first = [] ∧ t.contrail.ffCount = 0
      ∧ t.contrail.ring = s.contrail.ring ∧ t.contrail.queue.map (·.kind) = [0x0C])
  ∧ (∀ (s : State) (c : BoxCmd), TakesSecure s .secPf1 0x0D c → s.contrail.ffCount = 0 ∨ leNat (s.contrail.newestFault.take 8) ≠ c.d2 0
    ∨ leNat ((s.contrail.newestFault.drop 124).take 4) ≠ c.d 2 →
    ∃ t d, exec (.contrailClear .secPf1) s = .next t ∧ t.mbox.secRunning = some d ∧ d.done = true ∧ d.rc = 0x0202 ∧ t.contrail = s.contrail)
  ∧ (∀ (s : State) (c : BoxCmd), TakesSecure s .secPf1 0x12 c → c.d 0 &&& 0x7FF80000 = 0 → 0 < c.d 1 → c.d 1 ≤ 256 →
    ∃ t, exec (.contrailRead .secPf1) s = .next t ∧ AnsweredSecure t c [(0, c.d 1)] ∧ t.contrail = s.contrail
      ∧ ∀ j v, (s.contrail.slot (bits (c.d 0) 31 1) (bits (c.d 0) 0 19))[j]? = some v →
          (s.contrail.slot (bits (c.d 0) 31 1) (bits (c.d 0) 0 19)).length = 128 → c.d 1 = 1 → Sp.get? t.sec.buf j = some v)
  ∧ (∀ (s : State) (results : List ChannelTest) (c : BoxCmd), TakesSecure s .secPf1 0x10 c → c.d 0 < 0x40000 → s.ready = true →
    s.flaskActive = false → bitList (c.d 0) 16 ≠ [] → 0 < c.d 2 → c.d 2 ≤ s.stackGiB * 16 →
    ∃ t d, exec (.tgenRun .secPf1 results) s = .next t ∧ t.mbox.secRunning = some d ∧ d.done = true ∧ d.rc = 0
      ∧ (∀ e ∈ t.mem.cells, e ∈ s.mem.cells ∧ s.tested (bitList (c.d 0) 16) (c.d 2) e.1 = false)
      ∧ ∀ e ∈ s.mem.cells, s.tested (bitList (c.d 0) 16) (c.d 2) e.1 = false → e ∈ t.mem.cells)
  ∧ (∀ (s : State) (results : List ChannelTest) (c : BoxCmd), TakesSecure s .secPf1 0x10 c → c.d 0 < 0x100000 → s.ready = true →
    s.flaskActive = true → ∃ t d, exec (.tgenRun .secPf1 results) s = .next t ∧ t.mbox.secRunning = some d ∧ d.done = true ∧ d.rc = 0x0206
      ∧ t.mem = s.mem ∧ t.tgen = s.tgen ∧ t.csr = s.csr)
  ∧ (∀ (s : State) (c : BoxCmd), TakesSecure s .secPf1 0x11 c → c.d 0 < 16 →
    let r := Sp.getD s.tgen (c.d 0) (0, 0, 0)
    ∃ t, exec (.tgenResult .secPf1) s = .next t ∧ AnsweredSecure t c [(0, r.1), (1, r.1 >>> 32), (2, r.2.1), (3, r.2.2)]
      ∧ t.tgen = s.tgen))

/-- The test access port: a reset and IDCODE select IDCODE 0x1916_09A7, SAMPLE/PRELOAD captures the levels of the lands and loads the
53 cells of the boundary register, EXTEST, CLAMP and HIGHZ take effect in OFF, STANDBY and RECOVERY only (there HIGHZ leaves every land
floating) and act as BYPASS elsewhere, where every land keeps the part's own level, until such a phase begins, and a private instruction is BYPASS
but for an unlocked part with SCOPE SCAN. A probe group of the restricted range is refused with DENIED while SCOPE PROBE is closed. -/
def Obligations.ScanAndProbes : Prop :=
  (∀ s : State, ∃ t, exec .tapReset s = .next t ∧ t.tap.ir = 0x01 ∧ t.tap.dr = (List.range 32).map (fun i => Nat.testBit 0x191609A7 i)
      ∧ t.csr = s.csr)
  ∧ (∀ s : State, ∃ t, exec .idcode s = .next t ∧ t.tap.ir = 0x01 ∧ t.tap.dr = (List.range 32).map (fun i => Nat.testBit 0x191609A7 i)
      ∧ t.csr = s.csr)
  ∧ (∀ (s : State) (cells : List Bool), cells.length = 53 → ∃ t, exec (.samplePreload cells) s = .next t ∧ t.tap.boundary = cells
      ∧ t.tap.dr = cells ∧ t.tap.captured = s.scanCapture ∧ t.tap.captured.length = 53 ∧ t.csr = s.csr)
  ∧ (∀ s : State, ∃ t, exec .extest s = .next t ∧ t.tap.boundary = s.tap.boundary ∧ t.csr = s.csr ∧ t.tap.ir = 0x03
      ∧ t.dataReg = if s.scanPhase then s.tap.boundary else [false])
  ∧ (∀ s : State, s.scanPhase = false → ∃ t, exec .extest s = .next t ∧ ∀ land, t.landOut land = some (t.ownLevel land))
  ∧ (∀ s : State, s.scanPhase = true → ∃ t, exec .highz s = .next t ∧ ∀ land, t.landOut land = none)
  ∧ (∀ s : State, s.scanPhase = false → ∃ t, exec .highz s = .next t ∧ (∀ land, t.landOut land = some (t.ownLevel land))
      ∧ ∀ u : State, u.tap = t.tap → u.scanPhase = true → ∀ land, u.landOut land = none)
  ∧ (∀ s : State, ∃ t, exec .clamp s = .next t ∧ t.tap.ir = 0x04 ∧ t.dataReg = [false] ∧ t.csr = s.csr)
  ∧ (∀ s : State, ∃ t, exec .highz s = .next t ∧ t.tap.ir = 0x05 ∧ t.dataReg = [false] ∧ t.csr = s.csr)
  ∧ (∀ (s : State) (code : Nat), ∃ t, exec (.bypass code) s = .next t
      ∧ t.tap.ir = (if 1 ≤ code ∧ code ≤ 5 then 0xFF else BitVec.ofNat 8 code) ∧ t.tap.dr = [false] ∧ t.csr = s.csr)
  ∧ (∀ (s : State) (code : Nat), 0x80 ≤ code → code ≤ 0xFE → ∃ t, exec (.privateScanInstruction code) s = .next t
      ∧ t.tap.ir = BitVec.ofNat 8 code ∧ t.csr = s.csr ∧ t.mem = s.mem ∧ t.sec = s.sec
      ∧ (¬(s.sec.lifecycle = 3 ∧ s.sec.scope.testBit 1) → t.tap.dr = [false]))
  ∧ (∀ (s : State) (value : Word32), s.bar0Up = true → ∃ t, exec (.probeCfgWrite value) s = .next t
      ∧ t.rd .probeDiv = bits value.toNat 8 2 ∧ t.rd .probeEnable = bits value.toNat 10 1 ∧ t.rd .probeActFlask = bits value.toNat 16 6
      ∧ t.probe.lands = (if t.probing then s.probe.lands else 0) ∧ if 4 ≤ bits value.toNat 0 8 ∧ ¬(s.sec.lifecycle = 3 ∧ s.sec.scope.testBit 0)
        then t.rd .probeGroup = s.rd .probeGroup ∧ t.bit .probeDenied = true
        else t.rd .probeGroup = bits value.toNat 0 8 ∧ t.rd .probeDenied = s.rd .probeDenied)

/-! ### Pattern table registers, group entries and port configuration -/

/-- A pattern table register takes a write only while VALID is 0, but to clear VALID or to write a retired slot's base; setting VALID
makes slot A current. A group entry becomes VALID only when every member lies in the grid, and then MEMBER says whether this part is one.
-/
def Obligations.TableAndGroupWrites : Prop :=
  (∀ (s : State) (n : Nat) (value : Word64), s.bar0Up = true → n < 256 → s.bit .tableValid n = false → bits value.toNat 0 1 = 1 →
    tableLegal (bits value.toNat 4 4) (bits value.toNat 8 8) = true →
    ∃ t, exec (.tableRegisterWrite n .cfg 0x0F value) s = .next t ∧ t.bit .tableValid n = true ∧ t.rd .tableStateA n = 1
      ∧ t.rd .tableStateB n = 0 ∧ t.rd .tableGenA n = 1 ∧ t.rd .tableGenB n = 0 ∧ t.rd .tableOwner n = bits value.toNat 16 6
      ∧ t.rd .tableFormat n = bits value.toNat 4 4)
  ∧ (∀ (s : State) (n : Nat) (value : Word64), s.bar0Up = true → n < 256 → s.bit .tableValid n = true →
    ∃ t, exec (.tableRegisterWrite n .rows 0x0F value) s = .next t ∧ t.csr = s.csr)
  ∧ (∀ (s : State) (n : Nat) (value : Word64), s.bar0Up = true → n < 256 → s.bit .tableValid n = false →
    ∃ t, exec (.tableRegisterWrite n .rows 0x0F value) s = .next t ∧ t.rd .tableRowsM1 n = value.toNat % 2 ^ 32
      ∧ ∀ (k : FKind) (i : Nat), k ≠ .tableRowsM1 ∨ i ≠ n → t.rd k i = s.rd k i)
  ∧ (∀ (s : State) (g : Nat) (value : Word32), s.bar0Up = true → g < 256 → bits value.toNat 22 1 = 1 →
    (s.groupInGrid g = false → ∃ t, exec (.groupEntryWrite g 0 value) s = .next t ∧ t.csr = s.csr)
    ∧ (s.groupInGrid g = true → ∃ t, exec (.groupEntryWrite g 0 value) s = .next t ∧ t.bit .groupValid g = true
      ∧ t.rd .groupFlask g = bits value.toNat 16 6 ∧ t.bit .groupMember g = (s.rankIn g).isSome))
  ∧ (∀ (s : State) (g w : Nat) (value : Word32), s.bar0Up = true → g < 256 → 2 ≤ w → w ≤ 5 →
    ∃ t, exec (.groupEntryWrite g w value) s = .next t ∧ t.groupAxis g (w - 2)
      = (bits value.toNat 0 12, bits value.toNat 12 12 + 1, bits value.toNat 24 8))

/-! ### Daxpel ports -/

/-- The states of a port: PORT_CFG takes a DISABLED port to TRAINING and an UP port to DISABLED, training leads to INIT, a timeout to
RETRAIN_WAIT and from there to TRAINING again, and a good INIT with eight sent brings the port UP with the peer's credits, while one that
names another plane takes it to FAILED; a port with a lane in LOS stays in TRAINING. The conditions that take a port out of UP each record their cause, count and raise PORT_EVENT;
fewer than eight failed trainings lead to RETRAIN_WAIT, a laser fault to FAILED. -/
def Obligations.PortStates : Prop :=
  ((∀ (s : State) (port : Nat) (value : Word32), s.ready = true → port < 32 → s.rd .portState port = 0 → s.rd .portEnable port = 0 →
    s.bit .laserFault port = false → bits value.toNat 0 1 = 1 → ∃ t, exec (.portCfgWrite port value) s = .next t ∧ t.rd .portState port = 1
      ∧ t.rd .portPlane port = bits value.toNat 1 3 ∧ t.rd .portEnable port = 1 ∧ (t.port port).lineOn = true
      ∧ ∀ q, q ≠ port → t.rd .portState q = s.rd .portState q)
  ∧ (∀ (s : State) (port : Nat) (value : Word32), s.ready = true → port < 32 → s.rd .portState port = 3 → bits value.toNat 0 1 = 0 →
    ∃ t, exec (.portCfgWrite port value) s = .next t ∧ t.rd .portState port = 0 ∧ t.rd .downCause port = 9
      ∧ t.bit .portEvent = true)
  ∧ (∀ (s : State) (port : Nat), port < 32 → s.rd .portState port = 1 →
    ((∀ l < 4, s.bit .laneLos (4 * port + l) = false) → ∃ t, exec (.trainingComplete port) s = .next t
      ∧ t.rd .portState port = 2 ∧ t.rd .laneFault port = 0)
    ∧ ((∃ l < 4, s.bit .laneLos (4 * port + l) = true) → ∃ t, exec (.trainingComplete port) s = .next t
      ∧ t.rd .portState port = 1 ∧ t.csr = s.csr))
  ∧ (∀ (s : State) (port : Nat), port < 32 → s.rd .portState port = 1 ∨ s.rd .portState port = 2 → s.rd .failedTrainings port < 7 →
    ∃ t, exec (.trainTimeout port) s = .next t ∧ t.rd .portState port = 4 ∧ t.rd .downCause port = 8
      ∧ t.rd .failedTrainings port = s.rd .failedTrainings port + 1)
  ∧ (∀ (s : State) (port : Nat), port < 32 → s.rd .portState port = 1 → s.rd .failedTrainings port = 7 →
    ∃ t, exec (.trainTimeout port) s = .next t ∧ t.rd .portState port = 5 ∧ t.rd .downCause port = 8)
  ∧ (∀ (s : State) (port : Nat), port < 32 → s.rd .portState port = 4 → s.bit .laserFault port = false →
    ∃ t, exec (.retrainWaitEnd port) s = .next t ∧ t.rd .portState port = 1 ∧ (t.port port).lineOn = true)
  ∧ (∀ (s : State) (port : Nat) (flit : Flit), port < 32 → s.rd .portState port = 2 →
    let credit (i : Nat) : Nat := initField flit.payload (4 + 2 * i) 2
    (bits (initField flit.payload 0 2) 12 3 = s.rd .portPlane port → initField flit.payload 0xC 1 = 1 → 8 ≤ (s.port port).initsSent →
      16 ≤ credit 0 → 512 ≤ credit 1 → 512 ≤ credit 2 → 32 ≤ credit 3 → ∃ t, exec (.initFlit port flit) s = .next t
        ∧ t.rd .portState port = 3 ∧ t.rd .failedTrainings port = 0 ∧ ∀ i < 4, Sp.get? (t.port port).credit i = some (credit i))
    ∧ (bits (initField flit.payload 0 2) 12 3 ≠ s.rd .portPlane port → ∃ t, exec (.initFlit port flit) s = .next t
        ∧ t.rd .portState port = 5 ∧ t.rd .downCause port = 7)))
  ∧ ((∀ (s : State) (port lanes : Nat), port < 32 → s.rd .portState port = 3 → s.rd .failedTrainings port < 7 → lanes < 16 → lanes ≠ 0 →
    (∃ t, exec (.los port lanes) s = .next t ∧ t.rd .portState port = 4 ∧ t.rd .downCause port = 1
      ∧ t.rd .downEvents port = min 255 (s.rd .downEvents port + 1) ∧ t.bit .portEvent = true
      ∧ ∀ l < 4, lanes.testBit l = true → t.bit .laneLos (4 * port + l) = true)
    ∧ (∃ t, exec (.fecLock port) s = .next t ∧ t.rd .portState port = 4 ∧ t.rd .downCause port = 2
      ∧ t.rd .downEvents port = min 255 (s.rd .downEvents port + 1) ∧ t.bit .portEvent = true)
    ∧ (∃ t, exec (.silence port) s = .next t ∧ t.rd .portState port = 4 ∧ t.rd .downCause port = 3
      ∧ t.rd .downEvents port = min 255 (s.rd .downEvents port + 1) ∧ t.bit .portEvent = true)
    ∧ (∃ t, exec (.symbolErrors port lanes) s = .next t ∧ t.rd .portState port = 4 ∧ t.rd .downCause port = 5
      ∧ t.rd .downEvents port = min 255 (s.rd .downEvents port + 1) ∧ t.bit .portEvent = true))
  ∧ (∀ (s : State) (port bias : Nat) (power : Int), port < 32 → bias < 256 → (s.rd .portState port = 3 → ∃ t,
      exec (.laserSample port bias power true) s = .next t ∧ t.rd .portState port = 5 ∧ t.rd .downCause port = 6
        ∧ t.rd .laserBias port = bias ∧ t.bit .laserFault port = true)
    ∧ ∃ t, exec (.laserSample port bias power false) s = .next t ∧ t.rd .laserBias port = bias
        ∧ t.rd .laserTxPower port = ofInt 8 power ∧ t.bit .laserFault port = false ∧ t.rd .portState port = s.rd .portState port
        ∧ (power ≤ Config.laserMade port - 10 → t.bit .laserAged port = true))
  ∧ (∀ (s : State) (lane : Nat) (power : Int), lane < 128 → ∃ t, exec (.lanePowerSample lane power) s = .next t
      ∧ t.rd .rxPower lane = ofInt 16 (max (-1200) (min 500 power)) ∧ t.ports = s.ports
      ∧ (power < -1200 → t.bit .laneLos lane = true) ∧ (-1000 < power → t.bit .laneLos lane = false)
      ∧ (max (-1200) (min 500 power) < toInt 16 (s.rd .rxLowWarn) → toInt 16 (s.rd .rxLowWarn) ≤ toInt 16 (s.rd .rxPower lane) →
          t.bit .laneLowWarn lane = true ∧ t.bit .fabPowerEvent = true))
  ∧ (∀ (s : State) (port : Nat) (p : List Byte) (r : List (List Byte)), (s.port port).inbox = p :: r → (pktHdr p).op = 8 →
    bits (pktWord p 0) 12 1 = 1 → s.colls = [] → (∀ q ∈ s.tc2, q.hold = none ∧ q.op = 0x80) → (∀ q ∈ s.tc2, s.tc2.count q = 1) →
    (∀ e, (s.entry e).reading = false) → ∃ t, exec (.portDown port) s = .next t ∧ (t.port port).inbox = r
      ∧ ∀ q ∈ t.tc2, q ∈ s.tc2 ∧ ¬(q.device = bits (pktWord p 0) 0 12 ∧ q.plane = (pktHdr p).plane)))

/-- The 256 bytes of a flit: its payload after the 16 bytes of header, with zeros up to the end, and the CRC-32C of all other bytes in
LINK_CRC. Flits that an UP port receives: a DATA flit with the SEQ expected is accepted and a whole good packet that it completes is
kept; any other SEQ is discarded, the first one after an accepted DATA flit with a NAK; every good flit's ACK frees the replay buffer up
to the flit it names; a NAK, or 20 µs without an ACK, sends the replay buffer again, unless a flit of it has been resent eight times, when the
port is lost; the ACK timer acknowledges the last accepted DATA flit again; a TIME flit is kept with its arrival time; a
corrupt flit is counted and answered with a NAK; the FEC codewords corrected in a flit are counted. A flit slot: in TRAINING an IDLE
flit; in UP a NAK before everything, then a DELAY_REQ with the almanac time of its transmission, then a flit to be resent, then a TC0
DATA flit of the bytes that wait, numbered, kept for replay and paid with a credit; with nothing to send an IDLE flit. -/
def Obligations.Flits : Prop :=
  (∀ (kind : Nat) (f : Flit), f.payload.length ≤ 240 → (flitBytes kind f).length = 256
    ∧ (flitBytes kind f).drop 16 = f.payload ++ List.replicate (240 - f.payload.length) 0
    ∧ leNat (((flitBytes kind f).drop 12).take 4) = crc32c ((flitBytes kind f).take 12 ++ (flitBytes kind f).drop 16))
  ∧ ((∀ (s : State) (port : Nat) (flit : Flit), port < 32 → s.rd .portState port = 3 → flit.ackValid = false →
    (flit.seq = (s.port port).rxSeq → ∃ t, exec (.dataFlit port flit) s = .next t ∧ (t.port port).rxSeq = (flit.seq + 1) % 4096
      ∧ (t.port port).nakArmed = true ∧ (t.port port).unackedRx = (s.port port).unackedRx + 1
      ∧ (t.port port).replay = (s.port port).replay)
    ∧ (flit.seq ≠ (s.port port).rxSeq → ∃ t, exec (.dataFlit port flit) s = .next t
      ∧ (t.port port).rxSeq = (s.port port).rxSeq ∧ (t.port port).nakArmed = false
      ∧ (t.port port).nakDue = ((s.port port).nakDue || (s.port port).nakArmed)
      ∧ (t.port port).rxStream = (s.port port).rxStream ∧ (t.port port).inbox = (s.port port).inbox)
    ∧ (flit.seq = (s.port port).rxSeq → flit.tc < 4 → Sp.getD (s.port port).rxStream flit.tc [] = [] →
      flit.payload.length = 32 + pktField flit.payload 0 48 16 → s.badPacket port flit.tc flit.payload = false →
      pktCrcOk flit.payload = true → takesOp (pktHdr flit.payload).op = true → ∃ t, exec (.dataFlit port flit) s = .next t
      ∧ (t.port port).inbox = (s.port port).inbox ++ [flit.payload] ∧ Sp.getD (t.port port).rxStream flit.tc [] = []))
  ∧ (∀ (s : State) (port : Nat) (flit : Flit), port < 32 → s.rd .portState port = 3 → ∃ t, exec (.idleFlit port flit) s = .next t
      ∧ (t.port port).replay = (if flit.ackValid && (s.port port).replay.any (fun e => e.1 = flit.ack)
          then ((s.port port).replay.dropWhile (fun e => e.1 ≠ flit.ack)).tail else (s.port port).replay)
      ∧ Sp.getD (t.port port).credit 2 0 = Sp.getD (s.port port).credit 2 0
          + (flit.creditTc2 + 4096 - Sp.getD (s.port port).creditSeen 2 0) % 4096
      ∧ (t.port port).rxSeq = (s.port port).rxSeq ∧ (flit.fecCorrected = 0 → t.csr = s.csr) ∧ t.mem = s.mem
      ∧ (flit.fecCorrected ≠ 0 → t.rd .portFecCorr port = min (s.rd .portFecCorr port + flit.fecCorrected) 0xFFFFFFFF))
  ∧ (∀ (s : State) (port : Nat) (flit e : Flit) (q : Nat) (r : List (Nat × Flit)), port < 32 → s.rd .portState port = 3 →
    flit.ackValid = false → (s.port port).replay.dropWhile (fun e => e.1 ≠ flit.seq) = (q, e) :: r →
    (∀ x ∈ (q, e) :: r, Sp.getD (s.port port).resends x.1 0 < 8) → ∃ t, exec (.nakFlit port flit) s = .next t ∧ (t.port port).resend = (q, e) :: r
      ∧ t.rd .portState port = 3)
  ∧ (∀ (s : State) (port q : Nat) (e : Flit) (r : List (Nat × Flit)), port < 32 → s.rd .portState port = 3 →
    (s.port port).replay = (q, e) :: r →
    ((∀ x ∈ (q, e) :: r, Sp.getD (s.port port).resends x.1 0 < 8) → ∃ t, exec (.retryTimeout port) s = .next t ∧ (t.port port).resend = (q, e) :: r
      ∧ t.rd .portState port = 3)
    ∧ ((∃ x ∈ (q, e) :: r, 8 ≤ Sp.getD (s.port port).resends x.1 0) → s.rd .failedTrainings port < 7 → ∃ t, exec (.retryTimeout port) s = .next t
      ∧ t.rd .portState port = 4 ∧ t.rd .downCause port = 4))
  ∧ (∀ (s : State) (port : Nat), port < 32 → s.rd .portState port = 3 → (s.port port).rxAny = true →
    ∃ t, exec (.ackTimer port) s = .next t ∧ (t.port port).ackDue = true ∧ t.csr = s.csr)
  ∧ (∀ (s : State) (port : Nat) (flit : Flit), port < 32 → s.rd .portState port = 3 →
    s.badPacket port 0 flit.payload = false → flit.payload.length = 32 + (pktHdr flit.payload).len →
    (pktHdr flit.payload).op = 1 ∨ (pktHdr flit.payload).op = 3 → pktCrcOk flit.payload = true →
    ∃ t, exec (.timeFlit port flit) s = .next t ∧ (t.port port).timeIn = (s.port port).timeIn ++ [(flit.payload, s.now)])
  ∧ (∀ (s : State) (port n m : Nat), port < 32 → s.rd .portState port = 3 → (s.port port).nakArmed = true →
    (∃ t, exec (.corruptFlit port (.crc m)) s = .next t ∧ t.rd .portCrcErr port = min (s.rd .portCrcErr port + 1) 0xFFFFFFFF
      ∧ (t.port port).nakDue = true)
    ∧ (∃ t, exec (.corruptFlit port (.fec n m)) s = .next t
      ∧ t.rd .portFecCorr port = (if m = 0 then s.rd .portFecCorr port else min (s.rd .portFecCorr port + m) 0xFFFFFFFF)
      ∧ t.rd .portFecUncorr port = min 0xFFFFFFFF (s.rd .portFecUncorr port + n)
      ∧ (t.port port).nakDue = true)
    ∧ (∃ t, exec (.corruptFlit port (.reservedKind 0)) s = .next t ∧ t.csr = s.csr ∧ (t.port port).nakDue = true)))
  ∧ ((∀ (s : State) (port : Nat), port < 32 → s.rd .portState port = 1 → ∃ t f, exec (.flitSlot port) s = .next t
      ∧ (t.port port).sent = (s.port port).sent ++ [(0, f)] ∧ f.payload = [])
  ∧ (∀ (s : State) (port : Nat), port < 32 → s.rd .portState port = 3 → (s.port port).nakDue = true →
    ∃ t f, exec (.flitSlot port) s = .next t ∧ (t.port port).sent = (s.port port).sent ++ [(2, f)] ∧ f.seq = (s.port port).rxSeq
      ∧ (t.port port).nakDue = false)
  ∧ (∀ (s : State) (port n : Nat), port < 32 → s.rd .portState port = 3 → (s.port port).nakDue = false → (s.port port).timeOut = n + 1 →
    s.time.delayReq = some (port, none) → s.now < 2 ^ 64 → ∃ t f, exec (.flitSlot port) s = .next t
      ∧ (t.port port).sent = (s.port port).sent ++ [(3, f)] ∧ (pktHdr f.payload).op = 2 ∧ pktWord f.payload 0 = s.now
      ∧ t.time.delayReq = some (port, some s.now) ∧ (t.port port).timeOut = n)
  ∧ (∀ (s : State) (port q : Nat) (e : Flit) (r : List (Nat × Flit)), port < 32 → s.rd .portState port = 3 →
    (s.port port).nakDue = false → (s.port port).timeOut = 0 → (s.port port).resend = (q, e) :: r →
    ∃ t f, exec (.flitSlot port) s = .next t ∧ (t.port port).sent = (s.port port).sent ++ [(1, f)] ∧ f.seq = e.seq
      ∧ f.payload = e.payload ∧ (t.port port).resend = r ∧ Sp.getD (t.port port).resends q 0 = Sp.getD (s.port port).resends q 0 + 1)
  ∧ (∀ (s : State) (port : Nat), port < 32 → s.rd .portState port = 3 → (s.port port).nakDue = false → (s.port port).timeOut = 0 →
    (s.port port).resend = [] → (s.port port).mayData (s.rd .fabMode = 1) 0 = true →
    ∃ t f, exec (.flitSlot port) s = .next t ∧ (t.port port).sent = (s.port port).sent ++ [(1, f)]
      ∧ f.seq = (s.port port).txSeq ∧ f.tc = 0
      ∧ f.payload = (((Sp.getD (s.port port).txStream 0 []).flatten).drop (Sp.getD (s.port port).txOffset 0 0)).take
          (min 240 ((s.port port).ready 0))
      ∧ (t.port port).txSeq = ((s.port port).txSeq + 1) % 4096
      ∧ Sp.getD (t.port port).credit 0 0 = Sp.getD (s.port port).credit 0 0 - 1
      ∧ (t.port port).replay.map (·.1) = (s.port port).replay.map (·.1) ++ [(s.port port).txSeq])
  ∧ (∀ (s : State) (port : Nat), port < 32 → s.rd .portState port = 3 → (s.port port).nakDue = false → (s.port port).timeOut = 0 →
    (s.port port).resend = [] → (∀ tc < 4, (s.port port).ready tc = 0) → ∃ t f, exec (.flitSlot port) s = .next t
      ∧ (t.port port).sent = (s.port port).sent ++ [(0, f)] ∧ f.payload = [] ∧ (t.port port).txSeq = (s.port port).txSeq))

/-! ### Packets and TC2 -/

/-- A packet carries its header: for every header whose fields fit, and every payload, the header read back from the packet is the header
written, its payload is the payload, and its end-to-end check passes. -/
def Obligations.PacketRoundTrip : Prop :=
  ∀ (h : PktHdr) (payload : List Byte), h.op < 2 ^ 8 → h.tc < 2 ^ 2 → h.plane < 2 ^ 3 → h.dst < 2 ^ 12 → h.src < 2 ^ 12 → h.flask < 2 ^ 6 →
    h.len < 2 ^ 16 → h.seq < 2 ^ 32 → h.tag < 2 ^ 16 → h.status < 2 ^ 16 → h.addr < 2 ^ 44 → h.arg < 2 ^ 32 →
    pktHdr (packet h payload) = h ∧ pktPayload (packet h payload) = payload ∧ pktCrcOk (packet h payload) = true

/-- A collective header is read back as it was written, for every header whose fields fit. -/
def Obligations.CollectiveHeaderRoundTrip : Prop :=
  ∀ (h : CollHdr) (data : List Byte), h.collId < 2 ^ 16 → h.groupId < 2 ^ 16 → h.chunk < 2 ^ 24 → h.attempt < 2 ^ 2 → h.slot < 2 ^ 64 →
    h.srcRank < 2 ^ 12 → h.dstRank < 2 ^ 12 → h.passed < 2 → h.origin < 2 → h.crc < 2 ^ 32 → h.opword < 2 ^ 64 → h.desc.length = 32 →
    collHdr (h.bytes ++ data) = h

/-- Requests that the part serves: a refused one is answered with its STATUS and touches no memory; a read that is allowed is answered
with the bytes of its range, and a write that is allowed stores its payload and is acknowledged. -/
def Obligations.RemoteRequestsServed : Prop :=
  ∀ (s s0 : State) (port k : Nat) (p : List Byte),
    let h := pktHdr p
    s0.pickPort (some h.plane) h.src h.flask h.addr = some k →
    let answer (op status arg : Nat) (payload : List Byte) : List Byte :=
      packet { op := op, tc := 2, plane := s0.rd .portPlane k, dst := h.src, src := s0.rd .fabDevice, flask := h.flask,
               len := payload.length, seq := h.seq, tag := h.tag, status := status, addr := h.addr, arg := arg } payload
    let queued (t : State) (x : List Byte) : Prop :=
      Sp.getD (t.port k).txStream 2 [] = Sp.getD (s0.port k).txStream 2 [] ++ [x]
    (s.takePacket port 2 [0x80] = some (p, s0) → h.len = 0 → h.arg < 2 ^ 13 →
      (s0.refusal h h.arg .remoteRead ≠ 0 → ∃ t, exec (.rdReq port) s = .next t
        ∧ queued t (answer 0x81 (s0.refusal h h.arg .remoteRead) 0 []) ∧ t.mem = s0.mem ∧ t.csr = s0.csr)
      ∧ (s0.refusal h h.arg .remoteRead = 0 →
        let m := s0.readLocal h.who (s0.servedHint h h.arg .remoteRead) h.addr h.arg
        m.1.code = 0 → ∃ t, exec (.rdReq port) s = .next t ∧ queued t (answer 0x81 0 0 m.1.bytes) ∧ t.mem = m.2.mem))
    ∧ (s.takePacket port 2 [0x82] = some (p, s0) →
      (s0.refusal h h.len .remoteWrite ≠ 0 → ∃ t, exec (.wrReq port) s = .next t
        ∧ queued t (answer 0x83 (s0.refusal h h.len .remoteWrite) 0 []) ∧ t.mem = s0.mem ∧ t.csr = s0.csr)
      ∧ (s0.refusal h h.len .remoteWrite = 0 → ∃ t, exec (.wrReq port) s = .next t ∧ queued t (answer 0x83 0 0 [])
        ∧ t.mem = (s0.writeLocal (s0.servedHint h h.len .remoteWrite) h.addr (pktPayload p) []).mem))

/-- Responses: a read response that matches the one waiting request brings its words and ends it, an acknowledge ends its write, a
response that matches nothing counts as stale, and a request without response for 100 µs ends LINK_LOST. A loan past its deadline ends
with its GiB undefined. -/
def Obligations.RemoteResponses : Prop :=
  (∀ (s : State) (port : Nat) (p : List Byte) (r : List (List Byte)) (q : Tc2Req), (s.port port).inbox = p :: r → s.tc2 = [q] →
    q.hold = none → q.device = (pktHdr p).src → q.tag = (pktHdr p).tag → q.seq = (pktHdr p).seq → pktCrcOk p = true →
    (∀ e, (s.entry e).reading = false) →
    ((pktHdr p).op = 0x81 → q.op = 0x80 → (pktHdr p).status = 0 → s.wanted q = true → ∃ t, exec (.rdResp port) s = .next t ∧ t.tc2 = []
      ∧ ∀ i, i < q.len / 8 → 8 * i + 8 ≤ (pktPayload p).length →
        Sp.get? t.staged (stageKey ((q.dest[1]?).getD 0) ((q.dest[0]?).getD 0 / 8 + i))
          = some (0, BitVec.ofNat 64 (leNat (((pktPayload p).drop (8 * i)).take 8))))
    ∧ ((pktHdr p).op = 0x83 → q.op = 0x82 → (pktHdr p).status = 0 → s.host.bells = [] → (∀ x, q.pour.bind s.pour? = some x → x.isArray = false) →
      ∃ t, exec (.wrAck port) s = .next t ∧ t.tc2 = [] ∧ t.mem = s.mem
      ∧ t.pours = s.pours ∧ t.csr = s.csr))
  ∧ (∀ (s : State) (port : Nat) (p : List Byte) (r : List (List Byte)), (s.port port).inbox = p :: r → s.tc2 = [] → pktCrcOk p = true →
    ((pktHdr p).op = 0x81 → ∃ t, exec (.rdResp port) s = .next t ∧ t.rd .staleResp = min (s.rd .staleResp + 1) 0xFFFFFFFF
      ∧ t.mem = s.mem ∧ t.staged = s.staged)
    ∧ ((pktHdr p).op = 0x83 → ∃ t, exec (.wrAck port) s = .next t ∧ t.rd .staleResp = min (s.rd .staleResp + 1) 0xFFFFFFFF
      ∧ t.mem = s.mem))
  ∧ (∀ (s : State) (q : Tc2Req), s.tc2 = [q] → q.hold = none → q.op = 0x80 → s.wanted q = true → (∀ e, (s.entry e).reading = false) →
    ∃ t, exec (.tc2ResponseTimeout q.seq) s = .next t ∧ t.tc2 = []
      ∧ ∀ i, i < q.len / 8 → Sp.get? t.staged (stageKey ((q.dest[1]?).getD 0) ((q.dest[0]?).getD 0 / 8 + i)) = some (3, 0x70))
  ∧ (∀ (s : State) (g : Nat), s.bit .lent g = true → s.loanOver g = true → ∃ t, exec (.loanDeadline g) s = .next t
      ∧ t.bit .lent g = false ∧ (t.rd .hostIntCause).testBit 5 = true ∧ Sp.get? t.loanEnds g = none ∧ t.mem = s.mem.forgetRange (g <<< 30) (2 ^ 30)
      ∧ ∀ g', g' ≠ g → t.rd .lent g' = s.rd .lent g')

/-! ### Collectives -/

/-- The answers to a reservation, of an entry ARMED or OPEN: GRANT notes the plane that granted, REFUSE and a plane silent for 1 ms free the
entry and count the refusal. A COLL pour at the head of the fabric unit's queue that passes every check is accepted into a context: UNRESERVED, it runs at
once, with its source and the ranges of its destination. -/
def Obligations.CollectiveOpening : Prop :=
  ((∀ (s : State) (port e : Nat) (p : List Byte) (r : List (List Byte)), (s.port port).inbox = p :: r → s.awaits p = some e →
    ((pktHdr p).op = 0x41 → ∃ t, exec (.grant port) s = .next t ∧ Sp.get? (t.entry e).planes (pktHdr p).plane = some 1
      ∧ t.rd .entState e = s.rd .entState e ∧ t.csr = s.csr)
    ∧ ((pktHdr p).op = 0x42 → s.colls = [] → ∃ t, exec (.refuse port) s = .next t ∧ t.rd .entState e = 0
      ∧ t.rd .collRefusals = min (s.rd .collRefusals + 1) 0xFFFFFFFF))
  ∧ (∀ (s : State) (e plane : Nat), e < 4096 → s.rd .entState e = 1 ∨ s.rd .entState e = 2 → s.rd .entKind e = 1 →
    Sp.get? (s.entry e).planes plane = some 0 → s.colls = [] → ∃ t, exec (.reserveTimeout e plane) s = .next t
      ∧ t.rd .entState e = 0 ∧ t.rd .collRefusals = min (s.rd .collRefusals + 1) 0xFFFFFFFF))
  ∧ (∀ (s : State) (id g : Nat) (p : Pour), s.pour? id = some p → p.id = id → p.opcode = 0xB → p.unit = .fabric → s.starts p = true → s.colls = [] →
    p.reduceArrays = [] → s.checkColl p = 0 → s.groupOf p.flask p.groupId = some g → p.unreserved = true → p.gatherList = false →
    let a := s.descAddr p.flask p.collId
    let m := s.readLocal p.fabricWho (s.hintOf p.flask a 32 0 .read) a 32
    let n := m.2.rd .groupMembers g + 1
    (s.asPour id).allowed p.flask a 32 .read = true → farKey a = false → s.drains a 32 = false → m.1.code = 0 → m.2.descLegal m.1.bytes n = true →
    p.kMax = descField m.1.bytes 0 32 32 / 8 →
    (∀ x ∈ collRanges m.1.bytes n (m.2.rd .groupRank g) p.dA.addr p.dOut.addr, (m.2.asPour id).allowed p.flask x.addr x.len x.right = true) →
    ∃ t c, exec (.coll id) s = .next t ∧ Sp.get? t.colls 0 = some c ∧ c.pour = id ∧ c.state = 2 ∧ c.desc = m.1.bytes
      ∧ c.members = n ∧ c.src = [(p.dA.addr, descField m.1.bytes 0 32 32)] ∧ (t.pour? id).map (·.stage) = some Stage.running)

/-- Chunks: the member sends its next chunk on its port under its CRC when the window allows and counts it; a RESULT that it awaits is
written at its place and counted as landed, with the CRC of its data; a POISON notice for one lands poisoned. Local reduction: a PASS
without REDUCE_EN ends the pour COLL_REFUSED, a PASS for a chunk in progress is added to it once for each member, and a chunk that has
taken every member is written. -/
def Obligations.CollectiveChunks : Prop :=
  ((∀ (s : State) (n plane k a len : Nat) (c : CollCtx) (p : Pour), Sp.get? s.colls n = some c → s.pour? c.pour = some p → p.cancelled = false →
    c.state = 2 → c.decided = false → c.op = 0 → c.next < c.chunks → c.planeOf c.next = plane → c.windowOpen c.next = true → s.chunkPort c c.next = some k →
    c.src = [(a, len)] → 4096 * c.next < len → c.bytes = len → farKey (a + 4096 * c.next) = false →
    let w := c.wire c.next
    let hint := s.hintOf p.flask (a + w.1) w.2 p.dA.hint .read
    let m := s.readLocal p.fabricWho hint (a + w.1) w.2
    s.drains (a + w.1) w.2 = false → m.1.code = 0 → m.1.failed = [] →
    ∃ t h, exec (.chunk n plane) s = .next t ∧ Sp.get? t.colls n = some { c with next := c.next + 1 } ∧ t.mem = m.2.mem
      ∧ h.op = 0x43 ∧ Sp.getD (t.port k).txStream 1 [] = Sp.getD (s.port k).txStream 1 []
          ++ [packet h (({ m.2.collHeader c c.next with crc := crc32c m.1.bytes } : CollHdr).bytes ++ m.1.bytes)])
  ∧ (∀ (s s0 u : State) (port n off len : Nat) (c0 : CollCtx) (pk : List Byte) (p : Pour),
    s.takePacket port 1 [0x44] = some (pk, s0) → s0.collOf pk = some (n, c0) → s0.pour? c0.pour = some p →
    let x := collHdr (pktPayload pk)
    let data := (pktPayload pk).drop 64
    let c := if x.passed = 1 then c0.pass (pktHdr pk).plane else c0
    c.delivered x.chunk = true → c.isOwn x.chunk = false → c.landed x.chunk = false → c.landAt x.chunk = some (off, len) → data.length = len →
    p.earlyEn = false → State.writeChunk { s0 with colls := Sp.put s0.colls n c } p c off data [] = .ok u → ∃ t c1, exec (.result port) s = .next t ∧ Sp.get? t.colls n = some c1
      ∧ Sp.get? c1.got x.chunk = some (crc32c data) ∧ c1.state = c.state ∧ c1.next = c.next ∧ c1.planes = c.planes ∧ t.mem = u.mem)
  ∧ (∀ (s s0 u : State) (port n off len : Nat) (c0 : CollCtx) (pk : List Byte) (p : Pour),
    s.takePacket port 1 [0x45] = some (pk, s0) → s0.collOf pk = some (n, c0) → s0.pour? c0.pour = some p →
    let x := collHdr (pktPayload pk)
    let c := if x.passed = 1 then c0.pass (pktHdr pk).plane else c0
    x.origin = 1 → c.delivered x.chunk = true → c.isOwn x.chunk = false → c.landed x.chunk = false → c.landAt x.chunk = some (off, len) →
    p.earlyEn = false →
    State.writeChunk { s0 with colls := Sp.put s0.colls n c } p c off (List.replicate len 0) (List.range (ceilDiv len 8)) = .ok u →
    ∃ t c1, exec (.poison port) s = .next t ∧ Sp.get? t.colls n = some c1 ∧ Sp.get? c1.got x.chunk = some 0 ∧ c1.earlyStop = true
      ∧ c1.failure = c.failure ∧ c1.detail = c.firstBad.getD x.chunk ∧ t.mem = u.mem))
  ∧ ((∀ (s : State) (port n : Nat) (c : CollCtx) (pk : List Byte) (r : List (List Byte)) (p : Pour), (s.port port).inbox = pk :: r →
    (pktHdr pk).op = 0x46 → s.collOf pk = some (n, c) → s.pour? c.pour = some p → p.id = c.pour →
    (p.reduceEn = false → ∃ t, exec (.pass port) s = .next t ∧ Sp.get? t.colls n = none
      ∧ (t.pour? c.pour).map (fun q => (q.stage, q.code)) = some (Stage.faulted, 0x60))
    ∧ (∀ w : CollWork, p.reduceEn = true → c.reduces = true →
      let x := collHdr (pktPayload pk)
      c.delivered x.chunk = true → c.landed x.chunk = false → c.work = [w] → w.chunk = x.chunk → x.srcRank ∉ w.ranks →
      ∃ t c1, exec (.pass port) s = .next t ∧ Sp.get? t.colls n = some c1 ∧ t.mem = s.mem
        ∧ c1.work = [{ w with ranks := w.ranks ++ [x.srcRank], crc := crc32c ((pktPayload pk).drop 64), acc := c.combine w.acc (c.values ((pktPayload pk).drop 64)) }]))
  ∧ (∀ (s u : State) (n plane off len : Nat) (c : CollCtx) (w : CollWork) (p : Pour), Sp.get? s.colls n = some c → c.work = [w] →
    w.plane = plane → w.ranks.length = c.members → s.pour? c.pour = some p → p.cancelled = false → c.landAt w.chunk = some (off, len) → c.isOwn w.chunk = false →
    p.earlyEn = false →
    let data := (w.acc.map (fun v => leBytes ((fpOf c.resultFmt).ofVal .nearest (ofBits v)) (elemBits c.resultFmt / 8))).flatten
    s.writeChunk p c off data [] = .ok u → ∃ t c1, exec (.reduceChunkDone n plane) s = .next t ∧ Sp.get? t.colls n = some c1
      ∧ c1.work = [] ∧ c1.reduced = c.reduced + 1 ∧ Sp.get? c1.got w.chunk = some w.crc ∧ t.mem = u.mem))

/-- Seals and verdicts: the last seal of a collective with a chunk missing begins the wait for it, at the end of which SEAL_ACK leaves; a
COMMIT ends the pour OK once its own share is copied, a FAIL ends it SEAL_MISMATCH, and a reserved collective without verdict at its bound ends LINK_LOST. -/
def Obligations.CollectiveVerdicts : Prop :=
  (∀ (s : State) (port n plane : Nat) (c : CollCtx) (pk : List Byte) (r : List (List Byte)), (s.port port).inbox = pk :: r →
    s.collOf pk = some (n, c) → descPlanes c.desc = [plane] → (pktHdr pk).plane = plane →
    let x := collHdr (pktPayload pk)
    let v := bits (leNat (x.desc.take 8)) 0 2
    ((pktHdr pk).op = 0x47 → c.onPlane plane = [] → bits (leNat (x.desc.take 8)) 0 24 ≠ 0 → Sp.get? c.planes plane = none →
      ∃ t c1, exec (.seal port) s = .next t ∧ Sp.get? t.colls n = some c1 ∧ c1.state = 3 ∧ c1.acked = c.acked
        ∧ (Sp.get? c1.planes plane).map (·.sealIn)
          = some (some (x.opword, bits (leNat (x.desc.take 8)) 0 24, (leNat (x.desc.take 8)).testBit 24)))
    ∧ ((pktHdr pk).op = 0x49 → ∀ p : Pour, s.pour? c.pour = some p → p.id = c.pour → c.failure = none → c.copies = false → v = 0 →
      ∃ t, exec (.verdict port) s = .next t ∧ Sp.get? t.colls n = none ∧ (t.pour? c.pour).map (·.stage) = some Stage.ran)
    ∧ ((pktHdr pk).op = 0x49 → ∀ p : Pour, s.pour? c.pour = some p → p.id = c.pour → v = 2 →
      ∃ t, exec (.verdict port) s = .next t ∧ Sp.get? t.colls n = none
        ∧ (t.pour? c.pour).map (fun q => (q.stage, q.code)) = some (Stage.faulted, 0x63)))
  ∧ (∀ (s : State) (n plane : Nat) (c : CollCtx), Sp.get? s.colls n = some c → c.sealedAll = true → c.acked = false →
    plane ∈ descPlanes c.desc → ∃ t c1, exec (.sealWaitEnd n plane) s = .next t ∧ Sp.get? t.colls n = some c1 ∧ c1.acked = true
      ∧ c1.state = c.state ∧ c1.got = c.got)
  ∧ (∀ (s : State) (n plane e : Nat) (c : CollCtx) (p : Pour), Sp.get? s.colls n = some c → c.entry = some e → c.state = 2 →
    plane ∈ descPlanes c.desc → Sp.get? c.planes plane = none → s.pour? c.pour = some p → p.id = c.pour →
    c.bound + 1000 * (if descField c.desc 8 32 32 = 0 then 100 else descField c.desc 8 32 32) + 100000 ≤ s.now →
    ∃ t, exec (.verdictTimeout n plane) s = .next t ∧ Sp.get? t.colls n = none
      ∧ (t.pour? c.pour).map (fun q => (q.stage, q.code)) = some (Stage.faulted, 0x70)
      ∧ t.rd .abandonsSent = min (s.rd .abandonsSent + 1) 0xFF)

/-! ### Watch slots -/

/-- A write of WATCH_AVG replaces the average. A slot that is enabled evaluates a pour that has run, all its writes accepted, while no
other pour that it has evaluated waits to complete: LAST holds its RMS; without a NaN or
an infinity the average becomes the first observation or the exponential average of it; each flag whose rule holds is set and the
evaluation counts; with no flag nothing is written to memory. A slot that is not enabled keeps its state. -/
def Obligations.WatchSlots : Prop :=
  (∀ (s : State) (n : Nat) (v : Word32), s.bar0Up = true → n < 4096 → ∃ t, exec (.watchAvgWrite n v) s = .next t ∧ t.rd .watchAvg n = v.toNat
    ∧ t.mem = s.mem ∧ t.pours = s.pours ∧ ∀ k i, (k ≠ .watchAvg ∨ i ≠ n) → t.rd k i = s.rd k i)
  ∧ (∀ (s : State) (id : Nat) (p : Pour), s.pour? id = some p → s.written p = true → p.watchEn = true → p.evaluated = false → s.slotBusy p = false →
    let n := s.watchSlot p
    let avg := ofBits (BitVec.ofNat 32 (s.rd .watchAvg n))
    let flags := watchFlags (s.rd .strictness = 0) (s.bit .watchSeeded n) p.rms avg (s.rd .watchHighRatio n) (s.rd .watchLowRatio n)
      (s.rd .watchVanishLimit n) (s.rd .watchSatLimit n) p
    (s.bit .watchEnable n = true → 1 ≤ s.rd .watchK n → s.rd .watchK n ≤ 12 →
      ∃ t, exec (.watchEvaluate id) s = .next t ∧ (t.pour? id).map (·.evaluated) = some true
        ∧ t.rd .watchLast n = p.rms.bits.toNat
        ∧ (p.nans = 0 → p.rms ≠ .inf false → t.bit .watchSeeded n = true
          ∧ t.rd .watchAvg n = (nextAvg (s.bit .watchSeeded n) avg p.rms (s.rd .watchK n)).bits.toNat)
        ∧ (0 < p.nans ∨ p.rms = .inf false → t.rd .watchSeeded n = s.rd .watchSeeded n ∧ t.rd .watchAvg n = s.rd .watchAvg n)
        ∧ (∀ b k, (b, k) ∈ [(0, FKind.watchFlagHigh), (1, .watchFlagLow), (2, .watchFlagNan), (3, .watchFlagVanish), (4, .watchFlagSat)] →
          t.rd k n = if flags.testBit b then 1 else s.rd k n)
        ∧ t.rd .watchFlagCount n = (if flags = 0 then s.rd .watchFlagCount n else min (s.rd .watchFlagCount n + 1) 0xFFFF)
        ∧ (flags = 0 → t.mem = s.mem ∧ t.heats = s.heats))
    ∧ (s.bit .watchEnable n = false → ∃ t, exec (.watchEvaluate id) s = .next t ∧ (t.pour? id).map (·.evaluated) = some true
        ∧ t.csr = s.csr ∧ t.mem = s.mem))

/-! ### Ladles -/

/-- RESUME takes a STOPPED ladle back to ACTIVE; an abort of an index that holds no record, or of a record that has ended, is reported and
changes no ladle; a winning abort cuts the ladle and cancels its records from the index on, and ends, once no write of a cancelled pour is
on its way, with the ladle STOPPED ABORTED and HEAD back at the index; a held completion record is written once its ring has room. -/
def Obligations.LadleResumeAndAbort : Prop :=
  (∀ (s : State) (n : Nat), s.bar0Up = true → s.rd .ladleState n = 2 → s.ladlePours n = [] → ∃ t, exec (.resume n) s = .next t
    ∧ t.rd .ladleState n = 1 ∧ t.rd .riserAttempt n = 0 ∧ (t.ladle n).cut = none ∧ t.mem = s.mem ∧ t.pours = s.pours
    ∧ ∀ k i, k ≠ .ladleState → k ≠ .riserAttempt → t.rd k i = s.rd k i)
  ∧ (∀ (s : State) (n : Nat), s.bar0Up = true → s.rd .ladleState n ≠ 3 →
    let i := s.rd .ladleAbortIndex n
    let age := sub32 (s.rd .ladleTail n) i
    let f := ladleFlask n
    let record (status : Nat) : List Byte :=
      ({ status := status, tag := 0, index := i, kind := 2, ladle := n, opcode := 0 } : CqRec).bytes
        (ringPhase (s.rd .cqTail f) (s.rd .cqSizeLog2 f)) s.now
    let slot := s.ringSlot .cqBaseLo .cqBaseHi .cqSizeLog2 .cqTail f
    (Sp.getD s.heldCq f [] = [] → s.cqRoom f = true →
      (age = 0 ∨ 2 ^ 31 < age → ∃ t, exec (.abort n) s = .next t ∧ t.mem = (s.writeLocal 0 slot (record 0x40) []).mem
        ∧ t.rd .cqTail f = (s.rd .cqTail f + 1) % 2 ^ 32 ∧ t.rd .ladleState n = s.rd .ladleState n ∧ t.pours = s.pours)
      ∧ (0 < age → age ≤ 2 ^ 31 → (2 ^ s.rd .ladleSizeLog2 n < age ∨ i ∈ (s.ladle n).ended) →
        ∃ t, exec (.abort n) s = .next t ∧ t.mem = (s.writeLocal 0 slot (record 0x01) []).mem
          ∧ t.rd .cqTail f = (s.rd .cqTail f + 1) % 2 ^ 32 ∧ t.rd .ladleState n = s.rd .ladleState n ∧ t.pours = s.pours))
    ∧ (0 < age → age ≤ 2 ^ 31 → age ≤ 2 ^ s.rd .ladleSizeLog2 n → i ∉ (s.ladle n).ended →
      ∃ t, exec (.abort n) s = .next t ∧ t.rd .ladleState n = 3 ∧ (t.ladle n).aborting = some i
        ∧ ∀ p ∈ t.pours, p.ladle = n → sub32 p.index i < 2 ^ 31 → p.cancelled = true))
  ∧ (∀ (s : State) (n i : Nat), (s.ladle n).aborting = some i → s.rd .ladleState n = 3 → s.cancelFlies n = false →
    ∃ t, exec (.abortCancelDone n) s = .next t
    ∧ t.rd .ladleState n = 2 ∧ t.rd .stopCode n = 2 ∧ (t.ladle n).aborting = none
    ∧ t.rd .ladleHead n = (if sub32 (s.rd .ladleHead n) i < 2 ^ 31 then i % 2 ^ 32 else s.rd .ladleHead n)
    ∧ ∀ p ∈ t.pours, p.ladle = n → p.cancelled = false)
  ∧ (∀ (s : State) (f : Nat) (r : CqRec) (rest : List CqRec), Sp.getD s.heldCq f [] = r :: rest → s.cqRoom f = true →
    ∃ t, exec (.heldCompletionWrite f) s = .next t
      ∧ t.mem = (s.writeLocal 0 (s.ringSlot .cqBaseLo .cqBaseHi .cqSizeLog2 .cqTail f)
          (r.bytes (ringPhase (s.rd .cqTail f) (s.rd .cqSizeLog2 f)) s.now) []).mem
      ∧ t.rd .cqTail f = (s.rd .cqTail f + 1) % 2 ^ 32 ∧ Sp.getD t.heldCq f [] = rest
      ∧ t.rd .cqFull f = if rest = [] then 0 else s.rd .cqFull f)

/-- A flask reset cancels every pour of the flask and ends its heats; when it is done, once no GATHER of another flask is bound to its
tables and no write of a cancelled pour is on its way, the flask's ladles and rings are empty, its ladles
ACTIVE or DISABLED by their enable, its semaphores, counters and watch slots' flags 0, and no pour of it is left. -/
def Obligations.FlaskReset : Prop :=
  (∀ (s : State) (f : Nat), s.bar0Up = true → f < 64 → s.bit .resetBusy f = false → ∃ t, exec (.flaskReset f) s = .next t
    ∧ t.bit .resetBusy f = true ∧ (∀ p ∈ t.pours, p.flask = f → p.cancelled = true) ∧ (∀ h ∈ t.heats, ladleFlask h.1 ≠ f)
    ∧ ∀ n, t.rd .ladleHead n = s.rd .ladleHead n ∧ t.rd .ladleState n = s.rd .ladleState n)
  ∧ (∀ (s : State) (f : Nat), s.bit .resetBusy f = true → s.tablesBusy f = true → ∃ t, exec (.flaskResetDone f) s = .next t
    ∧ t.csr = s.csr ∧ t.pours = s.pours)
  ∧ (∀ (s : State) (f : Nat), s.bit .resetBusy f = true → s.tablesBusy f = false →
    (∀ l < 4, s.cancelFlies (4 * f + l) = false) → ∃ t, exec (.flaskResetDone f) s = .next t ∧ t.bit .resetBusy f = false
    ∧ (∀ p ∈ t.pours, p.flask ≠ f) ∧ Sp.get? t.heldCq f = none
    ∧ (∀ k ∈ [FKind.cqHead, .cqTail, .eqHead, .eqTail, .cqFull, .quantVanished, .quantSaturated, .quantNan], t.rd k f = 0)
    ∧ (∀ i < 64, t.rd .sem (64 * f + i) = 0)
    ∧ ∀ l < 4, t.rd .ladleHead (4 * f + l) = 0 ∧ t.rd .ladleTail (4 * f + l) = 0 ∧ t.rd .stopCode (4 * f + l) = 0
      ∧ t.rd .hasRiser (4 * f + l) = 0
      ∧ t.rd .ladleState (4 * f + l) = if t.bit .ladleEnable (4 * f + l) then 1 else 0)

/-- Dispatch of a ladle's next record: a record of no family, its flask eligible, becomes a faulted pour; a record of an eligible flask whose arrays the flask
owns, whose unit has room and which passes the checks enters its queue, and HEAD advances by one; with the queue full, or the flask not
eligible, nothing is dispatched and the record read is kept, to be dispatched later without a second read; a heat card and its second record
are read and HEAD advances by two. A pour at the head of its queue leaves its wait when its conditions hold, and stays while they do not. -/
def Obligations.RecordDispatch : Prop :=
  (∀ (s : State) (n : Nat), s.ladleMay n = true →
    let head := s.rd .ladleHead n
    let a := s.recordAddr n head
    let who : Who := { rq := rqPour, flask := ladleFlask n }
    let m := s.readLocal who 0 a 128
    let w := BitVec.ofNat 1024 (leNat m.1.bytes)
    let p := m.2.newPour n head none w
    s.recordRead n head = none → s.readHeld a 128 = false → farKey a = false → m.1.code = 0 →
    (m.1.bytes.take 1 ≠ [0xC0] → p.opcode > 0x0F → m.2.derived .flaskEligible p.flask = 1 → ∃ t, exec (.ladleRecordDispatch n) s = .next t ∧ t.rd .ladleHead n = (head + 1) % 2 ^ 32
      ∧ (t.pours.getLast?).map (fun q => (q.id, q.ladle, q.index, q.stage, q.code)) = some (s.nextPour, n, head, Stage.faulted, 0x41))
    ∧ (∀ q u, m.1.bytes.take 1 ≠ [0xC0] → p.opcode ≤ 0x0F → m.2.derived .flaskEligible p.flask = 1 → m.2.queueRoom p.unit = true →
      (∀ x ∈ p.needsArrays, m.2.ownedBy x p.flask = true) → m.2.passCheck p = .ok q u →
      ∃ t, exec (.ladleRecordDispatch n) s = .next t ∧ t.rd .ladleHead n = (head + 1) % 2 ^ 32
        ∧ t.pours = u.pours ++ [{ q with since := u.now }] ∧ t.nextPour = u.nextPour + 1 ∧ t.mem = u.mem)
    ∧ (m.1.bytes.take 1 ≠ [0xC0] → p.opcode ≤ 0x0F → m.2.queueRoom p.unit = false ∨ m.2.derived .flaskEligible p.flask ≠ 1 →
      ∃ t, exec (.ladleRecordDispatch n) s = .next t ∧ t.rd .ladleHead n = head ∧ t.pours = s.pours
        ∧ (t.ladle n).record = some (head, w))
    ∧ (let b := s.recordAddr n (head + 1)
      let m2 := m.2.readLocal who 0 b 128
      m.1.bytes.take 1 = [0xC0] → 2 ≤ sub32 (s.rd .ladleTail n) head → s.readHeld b 128 = false → farKey b = false →
      m2.1.code = 0 → ∃ t, exec (.ladleRecordDispatch n) s = .next t ∧ t.rd .ladleHead n = (head + 2) % 2 ^ 32
        ∧ (t.ladle n).card = some (head, BitVec.ofNat 2048 (leNat (m.1.bytes ++ m2.1.bytes))) ∧ t.pours = s.pours))
  ∧ (∀ (s u : State) (n : Nat) (w : BitVec 1024) (q : Pour), s.ladleMay n = true →
    let p := s.newPour n (s.rd .ladleHead n) none w
    s.recordRead n (s.rd .ladleHead n) = some w → p.opcode ≤ 0x0F → s.derived .flaskEligible p.flask = 1 → s.queueRoom p.unit = true →
    (∀ x ∈ p.needsArrays, s.ownedBy x p.flask = true) → s.passCheck p = .ok q u →
    ∃ t, exec (.ladleRecordDispatch n) s = .next t ∧ t.rd .ladleHead n = (s.rd .ladleHead n + 1) % 2 ^ 32
      ∧ t.pours = u.pours ++ [{ q with since := u.now }] ∧ t.mem = u.mem ∧ (t.ladle n).record = none)
  ∧ (∀ (s : State) (id : Nat) (p : Pour), s.pour? id = some p → p.stage = .queued → p.parked = false → s.headsQueue p = true →
    (s.waitsMet p = true → ¬(p.opcode = 9 ∧ p.unit = .dispatcher) → ∃ t, exec (.pourWaitRelease id) s = .next t
      ∧ (t.pour? id).map (·.stage) = some Stage.released ∧ t.csr = s.csr ∧ t.mem = s.mem)
    ∧ (s.waitsMet p = false → ∃ t, exec (.pourWaitRelease id) s = .next t ∧ t.pours = s.pours ∧ t.csr = s.csr ∧ t.mem = s.mem))

/-! ### Heats -/

/-- A heat card that passes its checks begins a heat at its first pass; one that breaks a format rule ends FORMAT_INVALID and stops its
ladle. A pass starts once its gate holds: PASS_SEM is set to 0, and with the gate closed nothing starts. The pass block without copies:
the row, PASS and the time are written and, no write waiting to be accepted, PASS_SEM counts. A section dispatches its next record: a loop
record is entered, a pour in the form of its loops enters its queue and the section advances, and one that is held keeps its record. A heat
that no abort cancels ends with its recorded cause once no pour of it is left, or OK after its last pass. -/
def Obligations.Heats : Prop :=
  ((∀ (s : State) (n index : Nat) (c : BitVec 2048), (s.ladle n).card = some (index, c) →
    (cardFormatOk c index = true → s.cardAllowed (ladleFlask n) c = true → ∃ t, exec (.heatCard n) s = .next t
      ∧ Sp.get? t.heats n = some { card := c, index := index, pass := cardFirst c } ∧ (t.ladle n).card = none
      ∧ t.rd .heatPass n = cardFirst c ∧ t.rd .heatSection n = 3 ∧ t.mem = s.mem ∧ t.pours = s.pours)
    ∧ (cardFormatOk c index = false → s.rd .ladleState n = 1 → ∃ t, exec (.heatCard n) s = .next t ∧ Sp.get? t.heats n = none
      ∧ t.rd .ladleState n = 2 ∧ t.rd .stopCode n = 0x40 ∧ t.pours = s.pours)
    ∧ (cardFormatOk c index = true → s.cardAllowed (ladleFlask n) c = false → s.rd .ladleState n = 1 →
      ∃ t, exec (.heatCard n) s = .next t ∧ Sp.get? t.heats n = none ∧ t.rd .ladleState n = 2 ∧ t.rd .stopCode n = 0x30 ∧ t.pours = s.pours))
  ∧ (∀ (s : State) (n : Nat) (h : Heat), Sp.get? s.heats n = some h → h.stage = .betweenPasses → h.stopCode = none → s.ready = true →
    s.bit .replaying n = false → s.flaskRuns (ladleFlask n) = true → s.cutCovers n h.index = false →
    let gate := cardF h.card 0 18 1 = 1
    let holds := semGe (s.rd .sem (64 * ladleFlask n + cardF h.card 0x18 0 6)) (cardF h.card 0x18 32 32 + h.pass)
    (gate → holds = false → ∃ t, exec (.heatPassStart n) s = .next t ∧ Sp.get? t.heats n = some h ∧ t.csr = s.csr)
    ∧ ((gate → holds = true) → ∃ t, exec (.heatPassStart n) s = .next t
      ∧ Sp.get? t.heats n = some { h with stage := .passBlock, started := true, sections := List.replicate 3 {} }
      ∧ t.rd .sem (64 * ladleFlask n + cardF h.card 0x18 12 6) = 0 ∧ t.mem = s.mem
      ∧ ∀ i, i ≠ 64 * ladleFlask n + cardF h.card 0x18 12 6 → t.rd .sem i = s.rd .sem i)))
  ∧ ((∀ (s u : State) (n : Nat) (h : Heat), Sp.get? s.heats n = some h → h.stage = .passBlock → s.ready = true →
    s.bit .replaying n = false → s.cutCovers n h.index = false →
    let f := ladleFlask n
    let a := cardTable h.card + 64 * h.pass
    let who : Who := { rq := rqHeat, flask := f, ladle := some n }
    let m := s.readLocal who (s.hintOf f a 64 0 .read) a 64
    let block := padTo (m.1.bytes ++ leBytes h.pass 4 ++ leBytes 0 4 ++ leBytes s.now 8) 128 0
    (∀ i < 4, cardBytes h.card i = 0) → farKey a = false → s.drains a 64 = false → m.1.code = 0 →
    (∀ i < 4, leNat ((m.1.bytes.drop (0x10 + 8 * i)).take 8) < 2 ^ 44) →
    m.2.put who none (m.2.hintOf f (cardBlock h.card) 128 0 .write) (cardBlock h.card) block [] = .ok u →
    Sp.get? u.heats n = some h → (∀ q ∈ u.tc2, ¬(q.ladle = some n ∧ q.op = 0x82)) → ∃ t, exec (.passBlockReady n) s = .next t ∧ t.mem = u.mem
      ∧ t.rd .sem (64 * f + cardF h.card 0x18 12 6) = (u.rd .sem (64 * f + cardF h.card 0x18 12 6) + 1) % 2 ^ 32
      ∧ (Sp.get? t.heats n).map (·.stage) = some HeatStage.running)
  ∧ (∀ (s : State) (n sec : Nat) (h : Heat) (x : Section), Sp.get? s.heats n = some h → h.sections[sec]? = some x → h.stage ≠ .betweenPasses →
    h.stopCode = none → x.pos < cardProgCount h.card sec → s.ready = true → s.flaskRuns (ladleFlask n) = true → s.rd .ladleState n = 1 →
    s.bit .replaying n = false → s.sourceHeld n sec = false → s.heatHeld n sec = false →
    let f := ladleFlask n
    let a := cardProg h.card sec + 128 * x.pos
    let m := s.readLocal { rq := rqHeat, flask := f } (s.hintOf f a 128 0 .read) a 128
    let w := BitVec.ofNat 1024 (leNat m.1.bytes)
    let p := m.2.newPour n h.index (some { pass := h.pass, sec := sec, prog := x.pos }) (loopPour x.loops w)
    x.record = none → s.readHeld a 128 = false → farKey a = false → m.1.code = 0 →
    (bits w.toNat 0 8 = 0xC1 → loopOk x.loops x.pos (cardProgCount h.card sec) w = true →
      ∃ t, exec (.heatSectionDispatch n sec) s = .next t ∧ t.pours = s.pours
        ∧ (Sp.get? t.heats n).map (fun y => y.sections[sec]?) = some (some
          { pos := x.pos + 1, loops := { first := x.pos + 1, last := x.pos + bits w.toNat 16 13, iter := 0, word := w } :: x.loops }))
    ∧ (∀ u, bits w.toNat 0 8 ≠ 0xC1 → m.2.dispatch p sec = .sent u → Sp.get? u.heats n = some h →
      ∃ t, exec (.heatSectionDispatch n sec) s = .next t ∧ t.pours = u.pours ∧ t.mem = u.mem ∧ t.rd .heatSection n = sec % 4
        ∧ (Sp.get? t.heats n).map (fun y => y.sections[sec]?) = some (some
          { pos := (nextPos x.loops x.pos).1, loops := (nextPos x.loops x.pos).2 }))
    ∧ (∀ u, bits w.toNat 0 8 ≠ 0xC1 → m.2.dispatch p sec = .held u → Sp.get? u.heats n = some h →
      ∃ t, exec (.heatSectionDispatch n sec) s = .next t ∧ t.pours = u.pours ∧ t.rd .heatSection n = u.rd .heatSection n
        ∧ (Sp.get? t.heats n).map (fun y => y.sections[sec]?) = some (some { x with record := some w })))
  ∧ (∀ (s : State) (n : Nat) (h : Heat), Sp.get? s.heats n = some h → s.cutCovers n h.index = false → s.heatPours n = [] →
    s.rd .ladleState n = 1 →
    (∀ code, h.stopCode = some code → code ≠ 0 → s.heatReplays n = false → s.bit .replaying n = false →
      ∃ t, exec (.heatEnd n) s = .next t ∧ Sp.get? t.heats n = none ∧ t.rd .ladleState n = 2 ∧ t.rd .stopCode n = code % 2 ^ 16
        ∧ t.pours = s.pours)
    ∧ (h.stopCode = none → h.stage = .running → (∀ i < 3, h.sectionDone i = true) → h.pass + 1 = cardCount h.card →
      ∃ t, exec (.heatEnd n) s = .next t ∧ Sp.get? t.heats n = none ∧ t.rd .ladleState n = 1 ∧ t.pours = s.pours)))

/-! ### Dispatcher pours and ends -/

/-- The dispatcher families: NOP, WAIT and a SIGNAL end OK once they may start; SIGNAL after completion and FENCE once the earlier pours
of their ladle have ended, FENCE of the flask once every earlier pour of the flask has, in a heat those of its other sections apart; until
then they change nothing. A pour that has run and whose writes are accepted ends OK, and a faulted pour that is not replayed and has no write
on its way ends with its code and stops its ladle or its heat; here no other pour stands on its arrays, which would go on. -/
def Obligations.PourEnds : Prop :=
  (∀ (s : State) (id : Nat) (p : Pour), s.pour? id = some p → s.starts p = true → s.cutCovers p.ladle p.index = false →
    (p.opcode = 0 → ∃ t, exec (.nop id) s = .next t ∧ EndedOk s t p)
    ∧ (p.opcode = 0xC → p.subop = 0 → ∃ t, exec (.wait id) s = .next t ∧ EndedOk s t p)
    ∧ (p.opcode = 0xD → p.subop = 0 → ∃ t, exec (.signal id) s = .next t ∧ EndedOk s t p)
    ∧ (p.opcode = 0xD → p.subop = 1 → ∃ t, exec (.signalAfterComplete id) s = .next t
      ∧ if s.fenceDrained p then EndedOk s t p else t.pours = s.pours ∧ t.csr = s.csr ∧ t.mem = s.mem)
    ∧ (p.opcode = 0xE → p.subop = 0 → ∃ t, exec (.fence id) s = .next t
      ∧ if s.fenceDrained p then EndedOk s t p else t.pours = s.pours ∧ t.csr = s.csr ∧ t.mem = s.mem)
    ∧ (p.opcode = 0xE → p.subop = 1 → ∃ t, exec (.fenceFlask id) s = .next t
      ∧ if s.pours.all (fun q => q.flask ≠ p.flask || p.id ≤ q.id || otherSection p q) then EndedOk s t p else t.pours = s.pours ∧ t.csr = s.csr ∧ t.mem = s.mem))
  ∧ (∀ (s : State) (id : Nat) (p : Pour), s.pour? id = some p → s.accepted p = true → s.cutCovers p.ladle p.index = false →
    (∀ a ∈ p.needsArrays, ∀ q ∈ s.pours, q.unit = .array a → q.id ≠ id → q.stands = false) →
    ∃ t, exec (.pourComplete id) s = .next t ∧ EndedOk s t p)
  ∧ (∀ (s : State) (id : Nat) (p : Pour), s.pour? id = some p → p.stage = .faulted → p.code ≠ 0 → p.cancelled = false → s.replays p = false →
    s.flies p = false → s.cutCovers p.ladle p.index = false →
    (∀ a ∈ p.needsArrays, ∀ q ∈ s.pours, q.unit = .array a → q.id ≠ id → q.stands = false) → ∃ t, exec (.pourFault id) s = .next t ∧ t.pour? id = none
      ∧ (∀ i, t.rd .sem i = s.rd .sem i)
      ∧ (p.heat = none → s.rd .ladleState p.ladle = 1 → t.rd .ladleState p.ladle = 2 ∧ t.rd .stopCode p.ladle = p.code % 2 ^ 16)
      ∧ (∀ h, p.heat ≠ none → Sp.get? s.heats p.ladle = some h → t.rd .ladleState p.ladle = s.rd .ladleState p.ladle
        ∧ (Sp.get? t.heats p.ladle).map (·.stopCode) = some (some (h.stopCode.getD p.code)))
      ∧ (Sp.getD s.heldCq (ladleFlask p.ladle) [] = [] → s.cqRoom (ladleFlask p.ladle) = true →
        t.rd .cqTail (ladleFlask p.ladle) = (s.rd .cqTail (ladleFlask p.ladle) + 1) % 2 ^ 32))

/-! ### Pours of an array -/

/-- A pour of an array at c0: the first check that fails is its fault and nothing else changes; a pour without work that sends nothing has run
at once; one whose operands are not yet in its buffers begins to load them, the issue credit pays for it, and credits go to a sender of
the mesh. A pour of one pass whose operands are in its buffers completes at once: an MM whose bank is its output holds that bank with what its
tiles accumulate, a CONV, a DW or a ROW leaves the converted values of its row function in its output buffer, and an MMC whose tiles are still
to come runs with its accumulators at their initial value and with K zero holds its bank. Once its operands have landed, where no running pour
reads, a faulted load is the pour's fault. -/
def Obligations.ArrayPours : Prop :=
  (∀ (s : State) (id op : Nat) (c : Instr) (p : Pour),
    (op, c) ∈ [(1, Instr.mm id), (2, .mmc id), (3, .conv id), (4, .dw id), (5, .row id)] → s.pour? id = some p → p.opcode = op →
    s.arrayMay p = true →
    (s.checkArray p ≠ 0 → ∃ t, exec c s = .next t ∧ (t.pour? id).map (fun q => (q.stage, q.code)) = some (Stage.faulted, s.checkArray p)
      ∧ t.mem = s.mem ∧ t.csr = s.csr)
    ∧ (s.checkArray p = 0 → p.zeroSize = true → p.dests = [] → p.due = [] → s.wayClear p = true → ∃ t, exec c s = .next t
      ∧ (t.pour? id).map (·.stage) = some Stage.ran ∧ t.mem = s.mem ∧ t.csr = s.csr)
    ∧ (s.checkArray p = 0 → p.zeroSize = false →
      ((if op = 3 ∨ op = 4 then s.windowSpans p else s.operandSpans p) ≠ [] ∨ ∃ e ∈ p.meshNeeds, e.items ≠ 0) →
      ∃ t, exec c s = .next t ∧ (t.pour? id).map (·.stage) = some Stage.loading ∧ t.mem = s.mem ∧ t.csr = s.csr
        ∧ (t.array p.array).credit = (s.array p.array).credit - 256 * p.issueCost
        ∧ ∀ e, p.meshNeeds = [e] → e.src ≠ p.array → (t.array e.src).inbox = (s.array e.src).inbox
          ++ List.replicate e.credits (p.array, 0, MeshItem.credit)))
  ∧ (∀ (s u : State) (id : Nat) (p : Pour) (acc : Tile), StartsResident s id 1 State.operandSpans p → p.initKind = 0 → p.dOut.src = srcBank →
    (s.beginArray p).mmPass p ⟨0, 0, 0, false⟩ (tileOf 32 32 (fun _ _ => .zero)) (ceilDiv p.k 32) 0 = .ok acc u p → u.pour? id = some p →
    ∃ t, exec (.mm id) s = .next t ∧ (t.pour? id).map (·.stage) = some Stage.ran ∧ (t.array p.array).held = some p.bank
      ∧ ∀ i < 32, ∀ j < 32, Sp.getD (t.array p.array).banks (1024 * p.bank + 32 * i + j) 0 = ((p.maskScores acc).at i j).bits)
  ∧ (∀ (s : State) (id : Nat) (p : Pour), StartsResident s id 2 State.operandSpans p → p.initKind = 0 → p.dOut.src = srcBank → p.k = 0 →
    ∃ t, exec (.mmc id) s = .next t ∧ (t.pour? id).map (·.stage) = some Stage.ran ∧ (t.array p.array).held = some p.bank
      ∧ ∀ i < 32, ∀ j < 32, Sp.getD (t.array p.array).banks (1024 * p.bank + 32 * i + j) 0 = 0)
  ∧ (∀ (s u : State) (id : Nat) (p : Pour) (acc : Tile) (f : Val → Val), StartsResident s id 3 State.windowSpans p → p.initKind = 0 →
    p.dOut.src = srcBuffer → p.noOut = false → valueFn p.rowFn = some f →
    let b := s.beginArray p
    let planes := b.loadedPlanes p
    let w := (planes.foldl (fun (u : State) kt => (List.range p.geo.kh).foldl
      (fun (u : State) kh => u.writeLine p kt kh (p.lineUnits (fun _ _ => (0, [])) kt kh)) u) b).fillSlots p planes
    w.convPass p ⟨0, 0, 0, false⟩ (tileOf 32 32 (fun _ _ => .zero)) (p.k / 32) 0 = .ok acc u p → u.planesBad p = false →
    u.pour? id = some p → (∀ q ∈ u.tc2, q.pour ≠ some id) →
    ∃ t, exec (.conv id) s = .next t ∧ (t.pour? id).map (·.stage) = some Stage.ran
      ∧ (t.array p.array).store p.dOut.bufSel = ((u.array p.array).store p.dOut.bufSel).writeWords (p.dOut.tileOff (ceilDiv p.nMax 32) 0 0)
          (convertTile p.dOut 0 (Tile.full ((p.crop ⟨0, 0, 0, false⟩ acc).each f))).1 [])
  ∧ (∀ (s u : State) (id : Nat) (p : Pour) (acc : Tile) (f : Val → Val), StartsResident s id 4 State.windowSpans p → p.initKind = 0 →
    p.dOut.src = srcBuffer → p.noOut = false → valueFn p.rowFn = some f →
    let b := s.beginArray p
    let planes := b.loadedPlanes p
    let w := (planes.foldl (fun (u : State) kt => (List.range p.geo.kh).foldl
      (fun (u : State) kh => u.writeLine p kt kh (p.lineUnits (fun _ _ => (0, [])) kt kh)) u) b).fillSlots p planes
    w.dwPass p ⟨0, 0, 0, false⟩ (tileOf 32 32 (fun _ _ => .zero)) p.geo.taps 0 = .ok acc u p → u.pour? id = some p →
    (∀ q ∈ u.tc2, q.pour ≠ some id) →
    ∃ t, exec (.dw id) s = .next t ∧ (t.pour? id).map (·.stage) = some Stage.ran
      ∧ (t.array p.array).store p.dOut.bufSel = ((u.array p.array).store p.dOut.bufSel).writeWords (p.dOut.tileOff (ceilDiv p.nMax 32) 0 0)
          (convertTile p.dOut 0 (Tile.full ((p.crop ⟨0, 0, 0, false⟩ acc).each f))).1 [])
  ∧ (∀ (s u : State) (id : Nat) (p : Pour) (x : List Byte) (f : Val → Val), StartsResident s id 5 State.operandSpans p →
    p.dA.src = srcBuffer → p.dOut.src = srcBuffer → p.noOut = false → valueFn p.rowFn = some f →
    (s.beginArray p).readOwn p 0 (p.dA.tileOff p.packed 0 0) p.dA.tb = .ok x u p → u.pour? id = some p → (∀ q ∈ u.tc2, q.pour ≠ some id) →
    ∃ t, exec (.row id) s = .next t ∧ (t.pour? id).map (·.stage) = some Stage.ran
      ∧ (t.array p.array).store p.dOut.bufSel = ((u.array p.array).store p.dOut.bufSel).writeWords (p.dOut.tileOff (ceilDiv p.nMax 32) 0 0)
          (convertTile p.dOut 0 (Tile.full ((p.crop ⟨0, 0, 0, false⟩ (tileOf 32 32 (fun i j => tileVal p.dA (leNat x) i j))).each f))).1 [])
  ∧ (∀ (s u : State) (id : Nat) (p : Pour) (rs : List RdRes) (x : Stop), s.pour? id = some p → p.stage = .loading → p.cancelled = false →
    p.isArray = true → p.meshComplete = true → s.banksFree p = true → s.loadsHeld p = false → p.opcode ≠ 3 → p.opcode ≠ 4 →
    s.load p p.array (s.operandLoads p) = .got rs u → u.pour? id = some p → loadStop ((s.operandLoads p).map (·.span)) rs = some x →
    ∃ t, exec (.operandsLanded id) s = .next t
      ∧ (t.pour? id).map (fun q => (q.stage, q.code, q.failed)) = some (Stage.faulted, x.code, x.failed) ∧ t.mem = u.mem)
  ∧ (∀ (s u : State) (id : Nat) (p : Pour) (rs : List RdRes), s.pour? id = some p → p.stage = .loading → p.cancelled = false →
    p.opcode = 2 → p.meshComplete = true → s.banksFree p = true → s.loadsHeld p = false → p.initKind = 0 → p.tileShape = 0 → 1 ≤ p.m → 1 ≤ p.n → p.mmcDone = false →
    s.load p p.array (s.operandLoads p) = .got rs u → u.pour? id = some p → loadStop ((s.operandLoads p).map (·.span)) rs = none →
    ∃ t, exec (.operandsLanded id) s = .next t ∧ t.pour? id = some { p with stage := .running } ∧ t.mem = u.mem ∧ t.csr = u.csr
      ∧ ∀ i < 32, ∀ j < 32, Sp.getD (t.array p.array).banks (1024 * p.bank + 32 * i + j) 0 = 0)

/-- The product of one tile: an MM pour of one pass over one tile along K, without initial value, whose operands have landed and whose
bank is held, leaves in its bank for each row of A and column of B the accumulation of the two tiles' lines from zero. -/
def Obligations.MatrixProduct : Prop :=
  ∀ (s u u1 u2 : State) (id : Nat) (p : Pour) (rs : List RdRes) (x y : List Byte), s.pour? id = some p → p.stage = .loading →
    p.cancelled = false → p.opcode = 1 → p.meshComplete = true → s.banksFree p = true → s.loadsHeld p = false →
    s.load p p.array (s.operandLoads p) = .got rs u → u.pour? id = some p → loadStop ((s.operandLoads p).map (·.span)) rs = none →
    p.tileShape = 0 → 1 ≤ p.m → 1 ≤ p.n → 1 ≤ p.k → p.k ≤ 32 → p.initKind = 0 → p.visitMask = false → p.dOut.src = srcBank →
    p.progress = 0 → p.due = [] → p.held = [] → p.empties = [] → u.wayClear p = true →
    u.readOwn p 0 (p.dA.tileOff p.packed 0 0) p.dA.tb = .ok x u1 p → u1.readOwn p 1 (p.dB.tileOff p.packed 0 0) p.dB.tb = .ok y u2 p →
    u2.pour? id = some p →
    ∃ t, exec (.operandsLanded id) s = .next t ∧ (t.pour? id).map (·.stage) = some Stage.ran ∧ (t.array p.array).held = some p.bank
      ∧ ∀ i < 32, ∀ j < 32, Sp.getD (t.array p.array).banks (1024 * p.bank + 32 * i + j) 0
          = (accumulate p.dA p.dB (leNat x) (leNat y) p.k none i j .zero).bits

/-! ### The mesh -/

/-- Arrivals: a tile, or zeros for an empty marker, lands in its place in the receiver's operand region, which no other running pour reads, and
counts; a tile whose format or
trailer disagrees faults the receiver; items of a sender that is discarded are taken away; a break faults the pour that waits for its
sender and voids that sender's credits; a credit is the sender's, and the item that its router holds leaves with it. -/
def Obligations.MeshArrivals : Prop :=
  (∀ (s : State) (a src pid fmt : Nat) (b16 : Bool) (tr : Option (List Byte)) (data : List Byte) (rest : List (Nat × Nat × MeshItem)),
    (s.array a).inbox = (src, pid, .tile fmt b16 tr data) :: rest →
    let s1 := s.onArray a (fun r => { r with inbox := rest })
    (1 ≤ Sp.getD (s.array a).discard src 0 → ∃ t, exec (.meshTileArrive a) s = .next t
      ∧ Sp.getD (t.array a).discard src 0 = Sp.getD (s.array a).discard src 0 - 1 ∧ (t.array a).inbox = rest ∧ t.pours = s.pours
      ∧ t.mem = s.mem ∧ t.csr = s.csr)
    ∧ (∀ (p : Pour) (op : Nat), Sp.getD (s.array a).discard src 0 = 0 → s1.receiver a src = some (p, op) → s.pour? p.id = some p →
      s1.itemHeld p op = false →
      (op = 0 → p.agrees fmt tr.isSome = false → ∃ t, exec (.meshTileArrive a) s = .next t
        ∧ (t.pour? p.id).map (fun q => (q.stage, q.code)) = some (Stage.faulted, 0x40) ∧ t.mem = s.mem ∧ t.csr = s.csr)
      ∧ ((op = 0 → p.agrees fmt tr.isSome = true) → ¬ (p.opcode = 2 ∧ op = 0) →
        let w := p.itemPlace op (p.arrived op)
        data.length = w.2.2 → ∃ t, exec (.meshTileArrive a) s = .next t ∧ t.pour? p.id = some (p.took op)
          ∧ (t.array p.array).store w.1 = ((s.array p.array).store w.1).writeWords w.2.1 data [] ∧ t.mem = s.mem ∧ t.csr = s.csr)))
  ∧ (∀ (s : State) (a src pid : Nat) (rest : List (Nat × Nat × MeshItem)), (s.array a).inbox = (src, pid, .empty) :: rest →
    let s1 := s.onArray a (fun r => { r with inbox := rest })
    (1 ≤ Sp.getD (s.array a).discard src 0 → ∃ t, exec (.emptyMarkerArrive a) s = .next t
      ∧ Sp.getD (t.array a).discard src 0 = Sp.getD (s.array a).discard src 0 - 1 ∧ t.pours = s.pours)
    ∧ (∀ (p : Pour) (op : Nat), Sp.getD (s.array a).discard src 0 = 0 → s1.receiver a src = some (p, op) → s.pour? p.id = some p →
      s1.itemHeld p op = false → ¬ (p.opcode = 2 ∧ op = 0) →
      let w := p.itemPlace op (p.arrived op)
      ∃ t, exec (.emptyMarkerArrive a) s = .next t ∧ t.pour? p.id = some (({ p with empties := p.empties ++ [(op, p.arrived op)] }).took op)
        ∧ (t.array p.array).store w.1 = ((s.array p.array).store w.1).writeWords w.2.1 (List.replicate w.2.2 0) [] ∧ t.mem = s.mem
        ∧ t.csr = s.csr))
  ∧ (∀ (s : State) (a src pid code : Nat) (rest : List (Nat × Nat × MeshItem)), (s.array a).inbox = (src, pid, .brk code) :: rest →
    let s1 := s.onArray a (fun r => { r with inbox := rest })
    (1 ≤ Sp.getD (s.array a).discard src 0 → ∃ t, exec (.breakArrive a) s = .next t ∧ Sp.getD (t.array a).discard src 0 = 0
      ∧ Sp.getD (t.array src).credits a 0 = 0 ∧ t.pours = s.pours)
    ∧ (∀ (p : Pour) (op : Nat), Sp.getD (s.array a).discard src 0 = 0 → s1.receiver a src = some (p, op) → s.pour? p.id = some p →
      ∃ t, exec (.breakArrive a) s = .next t ∧ (t.pour? p.id).map (fun q => (q.stage, q.code)) = some (Stage.faulted, code)
        ∧ Sp.getD (t.array src).credits a 0 = 0 ∧ t.mem = s.mem ∧ t.csr = s.csr))
  ∧ (∀ (s : State) (a recv pid : Nat) (rest : List (Nat × Nat × MeshItem)), (s.array a).inbox = (recv, pid, .credit) :: rest →
    (∀ p ∈ s.pours, p.unit = .array a → p.stage ≠ .running) →
    ((s.array a).outbox = [] → ∃ t, exec (.creditArrive a) s = .next t
      ∧ Sp.getD (t.array a).credits recv 0 = Sp.getD (s.array a).credits recv 0 + 1 ∧ (t.array a).inbox = rest ∧ t.pours = s.pours
      ∧ t.mem = s.mem ∧ t.csr = s.csr)
    ∧ (∀ (id : Nat) (item : MeshItem), (s.array a).outbox = [(id, [recv], item)] → recv ≠ a → ∃ t, exec (.creditArrive a) s = .next t
      ∧ (t.array a).outbox = [] ∧ Sp.getD (t.array a).credits recv 0 = Sp.getD (s.array a).credits recv 0 ∧ (t.array a).inbox = rest
      ∧ (t.array recv).inbox = (s.array recv).inbox ++ [(a, id, item)] ∧ t.pours = s.pours ∧ t.mem = s.mem ∧ t.csr = s.csr))

/-- A running MMC pour of one pass takes its next tile: the tile lands in its ring slot, the bank holds the accumulation of the tile and the
tile of B, and the count goes up and a further credit goes to the sender; after the last tile the pour has run and holds its bank. A drained bank is released, and a bank that is held or that no pour has drained is not. A
parity fault faults the pour in progress and is counted, and the fourth within a day fences the array. -/
def Obligations.StreamsBanksParity : Prop :=
  (∀ (s u : State) (a src pid fmt : Nat) (b16 : Bool) (data y : List Byte) (rest : List (Nat × Nat × MeshItem)) (p : Pour),
    (s.array a).inbox = (src, pid, .tile fmt b16 none data) :: rest → Sp.getD (s.array a).discard src 0 = 0 →
    let s1 := s.onArray a (fun r => { r with inbox := rest })
    let w := s1.writeStore p.array 0 (p.dA.bufOff + p.arrived 0 % p.ringSlots * p.slotBytes) data []
    s1.receiver a src = some (p, 0) → s.pour? p.id = some p → s1.itemHeld p 0 = false → p.opcode = 2 → p.agrees fmt false = true → p.tileShape = 0 → 1 ≤ p.m → 1 ≤ p.n →
    data.length = p.dA.tb → w.readOwn p 1 (p.dB.tileOff p.packed 0 (p.arrived 0)) p.dB.tb = .ok y u p → u.pour? p.id = some p →
    (p.arrived 0 + 1 < ceilDiv p.k 32 ∨ (p.initKind = 0 ∧ p.dOut.src = srcBank ∧ p.progress = 0 ∧ p.due = [] ∧ p.held = []
      ∧ u.wayClear p = true)) →
    ∃ t, exec (.meshTileArrive a) s = .next t
      ∧ (p.arrived 0 + 1 < ceilDiv p.k 32 → t.pour? p.id = some (p.took 0) ∧ (p.array, 0, MeshItem.credit) ∈ (t.array src).inbox)
      ∧ (ceilDiv p.k 32 ≤ p.arrived 0 + 1 → (t.pour? p.id).map (·.stage) = some Stage.ran ∧ (t.array p.array).held = some p.bank)
      ∧ ∀ i < 32, ∀ j < 32,
          let acc := accumulate p.dA p.dB (leNat data) (leNat y) (p.tileWidth (p.arrived 0)) none i j
            (ofBits (Sp.getD (u.array p.array).banks (1024 * p.bank + 32 * i + j) 0))
          Sp.getD (t.array p.array).banks (1024 * p.bank + 32 * i + j) 0 = (if p.arrived 0 + 1 < ceilDiv p.k 32 then acc else rnd acc).bits)
  ∧ (∀ (s : State) (a bank : Nat), bank ∈ (s.array a).claimed → (s.array a).held ≠ some bank →
    ∃ t, exec (.bankRelease a bank) s = .next t ∧ bank ∉ (t.array a).claimed ∧ (∀ b, b ≠ bank → (b ∈ (t.array a).claimed ↔ b ∈ (s.array a).claimed))
      ∧ t.pours = s.pours ∧ t.mem = s.mem ∧ t.csr = s.csr ∧ ∀ b, b ≠ a → t.array b = s.array b)
  ∧ (∀ (s : State) (a bank : Nat), bank ∉ (s.array a).claimed ∨ (s.array a).held = some bank →
    ∃ t, exec (.bankRelease a bank) s = .next t ∧ t.arrays = s.arrays)
  ∧ (∀ (s : State) (a : Nat), s.ready = true → a < 512 →
    (∃ t, exec (.datapathParity a false) s = .next t ∧ (t.array a).parityTimes = recent s.now (s.array a).parityTimes ++ [s.now]
      ∧ (3 ≤ (recent s.now (s.array a).parityTimes).length → t.fenced a = true)
      ∧ ((recent s.now (s.array a).parityTimes).length < 3 → t.csr = s.csr))
    ∧ (∃ t, exec (.datapathParity a true) s = .next t ∧ (t.array a).routerTimes = recent s.now (s.array a).routerTimes ++ [s.now]
      ∧ (1 ≤ (recent s.now (s.array a).routerTimes).length → t.routeFenced a = true))
    ∧ (∀ (p : Pour) (router : Bool), s.pours = [p] → p.unit = .array a → p.stage = .running → p.zeroSize = false → p.cancelled = false →
      ∃ t, exec (.datapathParity a router) s = .next t
        ∧ (t.pour? p.id).map (fun q => (q.stage, q.code)) = some (Stage.faulted, 0x12)))

/-! ### Sharing of arrays -/

/-- An array without owner takes the flask that has waited longest, with its stores cleared and its parked pours back in the queue; an
idle array whose owner has left eligibility parks what is queued and becomes unowned, its live stores saved; a restore ends with the saved
stores live again. -/
def Obligations.ArraySharing : Prop :=
  (∀ (s : State) (a f : Nat), s.ready = true → s.bit .arrayOwned a = false → a < 512 → s.nextOwner a = some f →
    ∃ t, exec (.arrayTakeOwner a) s = .next t ∧ t.bit .arrayOwned a = true ∧ t.rd .arrayOwnerFlask a = f % 64
      ∧ (t.array a).bufA = { zeroed := true } ∧ (t.array a).bufB = { zeroed := true } ∧ (t.array a).scratch = { zeroed := true }
      ∧ (t.array a).banks = [] ∧ (t.array a).planes = [] ∧ (t.array a).restoring = decide (Sp.getD (s.array a).saved f 0 ≠ 0)
      ∧ (∀ p ∈ t.pours, p.unit = .array a → p.flask = f → p.parked = false) ∧ t.mem = s.mem)
  ∧ (∀ (s : State) (a : Nat), s.nextOwner a = none → ∃ t, exec (.arrayTakeOwner a) s = .next t ∧ t.csr = s.csr ∧ t.arrays = s.arrays)
  ∧ (∀ (s : State) (a : Nat), s.arrayIdle a = true →
    let f := s.rd .arrayOwnerFlask a
    let live := (s.array a).lastLive
    s.derived .flaskEligible f = 0 → (live = 0 ∨ s.drains (s.saveArea f a) 598016 = false) →
    ∃ t, exec (.arrayParkSave a) s = .next t ∧ t.bit .arrayOwned a = false ∧ Sp.get? (t.array a).saved f = some live ∧ (t.array a).planes = []
      ∧ (∀ p ∈ t.pours, p.unit = .array a → p.flask = f → p.parked = true ∧ p.stage = .queued) ∧ (live = 0 → t.mem = s.mem))
  ∧ (∀ (s : State) (a : Nat), (s.array a).restoring = true → s.drains (s.saveArea (s.rd .arrayOwnerFlask a) a) 598016 = false →
    ∃ t, exec (.arrayRestoreDone a) s = .next t ∧ (t.array a).restoring = false
      ∧ (t.array a).lastLive = Sp.getD (s.array a).saved (s.rd .arrayOwnerFlask a) 0
      ∧ Sp.get? (t.array a).saved (s.rd .arrayOwnerFlask a) = none ∧ t.pours = s.pours ∧ t.bit .arrayOwned a = s.bit .arrayOwned a)

/-! ### Runners -/

/-- A runner that takes a pour up: its checks fault it, or it has nothing to do, or it goes through its transfers in order, a read and then
the writes of its pieces, as far as it need not wait; a transfer that faults ends it with that code (with a buffer as its source, where no pour of that array stands, which
would go on). A tile of a TILES move between memory
ranges of one form arrives unchanged, a FILL writes copies of its value, and a VISIT of one request lands its brick in the slot of its entry. -/
def Obligations.RunnerMoves : Prop :=
  (∀ (s : State) (p : Pour), s.pour? p.id = some p → (p.opcode = 6 ∨ p.opcode = 7) → s.runnerMay p p.opcode = true →
    let cmd : Instr := if p.opcode = 7 then .fill p.id else if p.moveMode = 1 then .visit p.id else if p.moveMode = 2 then .regroup p.id
      else .tiles p.id
    let mv : Move := if p.opcode = 7 then moveFillMode else if p.moveMode = 1 then moveVisitMode else if p.moveMode = 2 then moveRegroupMode
      else moveTilesMode
    (p.stage ≠ .running → s.checkRunner p ≠ 0 → ∃ t, exec cmd s = .next t
      ∧ (t.pour? p.id).map (fun q => (q.stage, q.code)) = some (Stage.faulted, s.checkRunner p)
      ∧ t.mem = s.mem ∧ t.arrays = s.arrays ∧ t.csr = s.csr)
    ∧ (p.stage ≠ .running → s.checkRunner p = 0 → p.idleMove = true → ∃ t, exec cmd s = .next t
      ∧ (t.pour? p.id).map (·.stage) = some Stage.ran ∧ t.mem = s.mem ∧ t.arrays = s.arrays ∧ t.csr = s.csr)
    ∧ ((p.opcode = 6 → p.dA.src = srcBuffer → ∀ q ∈ s.pours, q.unit = .array (meshFirst p.dA.addr) → q.stands = false) →
      (p.stage = .running → GoesThrough s cmd mv s p)
      ∧ (p.stage ≠ .running → s.checkRunner p = 0 → p.idleMove = false → GoesThrough s cmd mv s { p with stage := .running, begun := true })))
  ∧ (∀ (s : State) (p : Pour), s.pour? p.id = some p → p.opcode = 6 → p.moveMode = 0 → s.runnerMay p 6 = true → p.stage ≠ .running →
    s.checkRunner p = 0 → p.idleMove = false → p.m ≤ 32 → p.n ≤ 32 → p.progress = 0 → p.held = [] → p.code = 0 → p.dA.src = srcMemory →
    p.dOut.src = srcMemory → p.dA.remote = false → p.dOut.remote = false → p.dA.haze = p.dOut.haze →
    (∀ q ∈ s.tc2, q.pour = some p.id → q.op ≠ 0x82) →
    let nr := ceilDiv p.nMax 32
    let src := p.dA.tileAddr nr 0 0
    let dst := p.dOut.tileAddr nr 0 0
    let m := s.readLocal p.runnerWho (s.hintOf p.flask src p.dA.mb p.dA.hint .read) src p.dA.mb
    farKey src = false → farKey dst = false → dst % 8 = 0 → s.drains src p.dA.mb = false → m.1.code = 0 → m.1.failed = [] →
    m.1.bytes.length = p.dA.mb → p.dA.mb % 8 = 0 → m.2.drains dst p.dA.mb = false →
    ∃ t, exec (.tiles p.id) s = .next t ∧ (t.pour? p.id).map (·.stage) = some Stage.ran
      ∧ t.mem = (m.2.writeLocal (m.2.hintOf p.flask dst m.1.bytes.length p.dOut.hint .write) dst m.1.bytes []).mem)
  ∧ (∀ (s : State) (p : Pour), s.pour? p.id = some p → p.opcode = 7 → s.runnerMay p 7 = true → p.stage ≠ .running → s.checkRunner p = 0 →
    p.idleMove = false → p.progress = 0 → p.held = [] → p.code = 0 → p.fillParts = [(0, p.k)] → p.dOut.src = srcMemory →
    (∀ q ∈ s.tc2, q.pour = some p.id → q.op ≠ 0x82) → farKey p.dOut.addr = false → p.dOut.addr % 8 = 0 →
    s.drains p.dOut.addr (64 * p.k) = false →
    ∃ t, exec (.fill p.id) s = .next t ∧ (t.pour? p.id).map (·.stage) = some Stage.ran
      ∧ t.mem = (s.writeLocal (s.hintOf p.flask p.dOut.addr (64 * p.k) p.dOut.hint .write) p.dOut.addr
          (List.replicate (8 * p.k) (leBytes (p.f bitB 64) 8)).flatten []).mem)
  ∧ (∀ (s : State) (p : Pour) (a : Nat), s.pour? p.id = some p → p.opcode = 6 → p.moveMode = 1 → s.runnerMay p 6 = true → p.stage ≠ .running →
    s.checkRunner p = 0 → p.idleMove = false → p.progress = 0 → p.held = [] → p.code = 0 → meshSegment p.dOut.addr = [a] →
    p.visitParts = [(0, p.visitSize)] →
    let m := s.readLocal p.runnerWho (s.hintOf p.flask p.visitFrom p.visitSize p.dA.hint .read) p.visitFrom p.visitSize
    let off := p.dOut.bufOff + p.shapeAddr / 32 % p.visitSlots * p.visitSize
    farKey p.visitFrom = false → s.drains p.visitFrom p.visitSize = false → m.1.code = 0 → m.1.failed = [] →
    m.2.stillRead p.id a p.dOut.bufSel off m.1.bytes.length = false →
    ∃ t, exec (.visit p.id) s = .next t ∧ (t.pour? p.id).map (·.stage) = some Stage.ran ∧ t.mem = m.2.mem
      ∧ (t.array a).store p.dOut.bufSel = ((m.2.array a).store p.dOut.bufSel).writeWords off m.1.bytes [])

/-! ### Regions -/

/-- A region unit that takes a pour up: a form that breaks a rule, an extent above its maximum, a parameter block that breaks a rule, or a
range that its block asks for and no segment grants faults it, in this order; one without work has run; otherwise it goes through its boxes
in order. NMS keeps at most its limit of boxes, in order of the sort, and no kept box overlaps a later one beyond the limit. -/
def Obligations.RegionPours : Prop :=
  (∀ (s : State) (p : Pour), s.pour? p.id = some p → s.regionMay p = true →
    let cmd : Instr := if p.subop = 2 then .nms p.id else if p.subop = 3 then .crop p.id else if p.subop = 4 then .paste p.id else .decode p.id
    let mv : Move := regionMove (if p.subop = 2 then (fun p blk s n => s.nmsPart p blk n) else if p.subop = 3 then (fun p blk s n => s.cropPart p blk n)
      else if p.subop = 4 then (fun p blk s n => s.pastePart p blk n) else (fun p blk s n => s.decodePart p blk n))
    let m := s.readLocal p.runnerWho (s.hintOf p.flask p.biasAddr 64 0 .read) p.biasAddr 64
    let blk := m.1.bytes
    (p.stage = .running → GoesThrough s cmd mv s p)
    ∧ (p.stage ≠ .running →
      (p.regionOk = false → ∃ t, exec cmd s = .next t ∧ (t.pour? p.id).map (fun q => (q.stage, q.code)) = some (Stage.faulted, 0x40)
        ∧ t.mem = s.mem ∧ t.csr = s.csr)
      ∧ (p.regionOk = true → p.overflows = true → ∃ t, exec cmd s = .next t
        ∧ (t.pour? p.id).map (fun q => (q.stage, q.code)) = some (Stage.faulted, cShapeOverflow) ∧ t.mem = s.mem ∧ t.csr = s.csr)
      ∧ (p.regionOk = true → p.overflows = false → farKey p.biasAddr = false → s.drains p.biasAddr 64 = false → m.1.code = 0 →
        (p.blockOk blk = false → ∃ t, exec cmd s = .next t ∧ (t.pour? p.id).map (fun q => (q.stage, q.code)) = some (Stage.faulted, 0x40)
          ∧ t.mem = m.2.mem)
        ∧ (p.blockOk blk = true → (∃ r ∈ p.regionRanges blk, (m.2.asPour p.id).allowed p.flask r.addr r.len r.right = false) →
          ∃ t, exec cmd s = .next t ∧ (t.pour? p.id).map (fun q => (q.stage, q.code)) = some (Stage.faulted, 0x30) ∧ t.mem = m.2.mem)
        ∧ (p.blockOk blk = true → (∀ r ∈ p.regionRanges blk, (m.2.asPour p.id).allowed p.flask r.addr r.len r.right = true) →
          (p.zeroSize = true → ∃ t, exec cmd s = .next t ∧ (t.pour? p.id).map (·.stage) = some Stage.ran ∧ t.mem = m.2.mem
            ∧ t.csr = m.2.csr)
          ∧ (p.zeroSize = false → GoesThrough s cmd mv m.2 { p with stage := .running, begun := true, parts := [blk] })))))
  ∧ (∀ (limit : Val) (n : Nat) (l : List BoxRec), (nmsKeep limit n l).length ≤ n ∧ (nmsKeep limit n l).Sublist l
    ∧ (nmsKeep limit n l).Pairwise (fun b x => limit.lt (iou b x) = false))
  ∧ (∀ l : List BoxRec, (nmsSort l).Perm l)

/-! ### Pattern tables -/

/-- GATHER, FLIP and their ends: a GATHER that its table does not serve faults; one that it serves binds to the current slot, or to the
slot of its pinned generation, and writes its tile rows in order, with POOL after every offset has been checked; one without bags has run; its end leaves the slot, and a retiring slot that nothing uses retires.
A FLIP enters the queue of the engine once its ladle has drained; it waits while the other slot is in use, and at the switch that slot
becomes current with the next generation. -/
def Obligations.PatternPours : Prop :=
  (∀ (s : State) (id : Nat) (p : Pour), s.pour? id = some p → p.opcode = 8 → p.unit = .pattern → s.starts p = true → p.stage ≠ .running →
    s.gathers < 16 →
    (s.checkGather p ≠ 0 → ∃ t, exec (.gather id) s = .next t ∧ (t.pour? id).map (fun q => (q.stage, q.code)) = some (Stage.faulted, s.checkGather p)
      ∧ t.mem = s.mem ∧ t.csr = s.csr)
    ∧ (s.checkGather p = 0 → s.bindTo p = none → ∃ t, exec (.gather id) s = .next t
      ∧ (t.pour? id).map (fun q => (q.stage, q.code)) = some (Stage.faulted, 0x50) ∧ t.mem = s.mem ∧ t.csr = s.csr)
    ∧ (∀ slot : Nat, s.checkGather p = 0 → s.bindTo p = some slot →
      let granted := (s.asPour id).allowed p.flask (s.slotAddr p.table slot) (s.tableRows p.table * s.rowBytes p.table) .read
      (granted = false → ∃ t, exec (.gather id) s = .next t ∧ (t.pour? id).map (fun q => (q.stage, q.code)) = some (Stage.faulted, 0x30)
        ∧ t.mem = s.mem ∧ t.csr = s.csr)
      ∧ (granted = true → p.m = 0 → ∃ t, exec (.gather id) s = .next t ∧ (t.pour? id).map (·.stage) = some Stage.ran ∧ t.mem = s.mem
        ∧ t.csr = s.csr)
      ∧ (granted = true → p.m ≠ 0 → p.code = 0 → p.parts = [] → p.progress = 0 →
        let p1 : Pour := { p with stage := .running, begun := true, aux := [p.table, slot] }
        let b := (s.wr (slotInflight slot) p.table (s.rd (slotInflight slot) p.table + 1)).onPour id (fun _ => p1)
        let m := b.readLocal p.patternWho (b.hintOf p.flask p.dB.addr (4 * p.m) p.dB.hint .read) p.dB.addr (4 * p.m)
        let off := words32 m.1.bytes
        (p.pool = poolNone → ∀ S : Nat → State, S 0 = b.onPour id (fun q => { q with parts := [[]] }) →
          (∀ i < ceilDiv p.m 32, (∀ q ∈ (S i).tc2, q.pour = some id → q.op ≠ 0x82) ∧ (S i).gatherRow p1 p.table slot i = .next (S (i + 1)) p1) →
          ∃ t, exec (.gather id) s = .next t ∧ t.mem = (S (ceilDiv p.m 32)).mem ∧ t.csr = (S (ceilDiv p.m 32)).csr
            ∧ t.pour? id = ((S (ceilDiv p.m 32)).pour? id).map (fun q => { q with progress := ceilDiv p.m 32 }))
        ∧ (p.pool ≠ poolNone → farKey p.dB.addr = false → b.drains p.dB.addr (4 * p.m) = false → m.1.code = 0 →
          (off.headD 0 ≠ 0 ∨ offsetsOk p.k 0 off = false → ∃ t, exec (.gather id) s = .next t
            ∧ (t.pour? id).map (fun q => (q.stage, q.code)) = some (Stage.running, 0x40) ∧ t.mem = m.2.mem)
          ∧ (off.headD 0 = 0 → offsetsOk p.k 0 off = true → ∀ S : Nat → State,
            let p2 : Pour := { p1 with words := off }
            S 0 = m.2.onPour id (fun q => { q with parts := [[]], words := off }) →
            (∀ i < ceilDiv p.m 32, (∀ q ∈ (S i).tc2, q.pour = some id → q.op ≠ 0x82)
              ∧ (S i).gatherRow p2 p.table slot i = .next (S (i + 1)) p2) →
            ∃ t, exec (.gather id) s = .next t ∧ t.mem = (S (ceilDiv p.m 32)).mem ∧ t.csr = (S (ceilDiv p.m 32)).csr
              ∧ t.pour? id = ((S (ceilDiv p.m 32)).pour? id).map (fun q => { q with progress := ceilDiv p.m 32 }))))))
  ∧ (∀ (s : State) (id n slot : Nat) (p : Pour), s.pour? id = some p → p.opcode = 8 → p.cancelled = false → p.stage = .running →
    p.aux = [n, slot] → slot < 2 → (p.code ≠ 0 ∨ (p.parts ≠ [] ∧ p.progress = ceilDiv p.m 32)) → (∀ q ∈ s.tc2, q.pour ≠ some id) →
    s.rd (slotInflight slot) n ≤ 31 →
    ∃ t, exec (.gatherEnd id) s = .next t ∧ (t.pour? id).map (·.stage) = some (if p.code = 0 then Stage.ran else .faulted)
      ∧ t.rd (slotInflight slot) n = s.rd (slotInflight slot) n - 1
      ∧ t.rd (slotState slot) n = (if s.rd (slotState slot) n = 2 ∧ s.rd (slotInflight slot) n ≤ 1 then 0 else s.rd (slotState slot) n)
      ∧ t.rd (slotState (1 - slot)) n = s.rd (slotState (1 - slot)) n ∧ t.mem = s.mem)
  ∧ (∀ (s : State) (id : Nat) (p : Pour), s.pour? id = some p → p.opcode = 9 → p.unit = .dispatcher → p.stage = .queued → p.cancelled = false →
    (s.fenceDrained p = true → s.queueRoom .pattern = true → ∃ t, exec (.flip id) s = .next t
      ∧ t.pours = s.pours.filter (fun q => q.id ≠ id) ++ [{ p with unit := .pattern }] ∧ t.csr = s.csr ∧ t.mem = s.mem)
    ∧ (s.fenceDrained p = false → ∃ t, exec (.flip id) s = .next t ∧ t.pours = s.pours ∧ t.csr = s.csr ∧ t.mem = s.mem))
  ∧ (∀ (s : State) (id : Nat) (p : Pour), s.pour? id = some p → p.opcode = 9 → p.unit = .pattern → s.starts p = true → p.watchEn = false →
    p.subop = 0 → p.tileShape = 0 → p.overflows = false → p.index ∉ Sp.getD (s.ladle p.ladle).skipFlips p.source [] → s.bit .tableValid p.table = true →
    s.rd .tableOwner p.table = p.flask → s.cutCovers p.ladle p.index = false →
    let old := s.currentSlot p.table
    let gen := s.rd (slotGen old) p.table
    (s.rd (slotState (1 - old)) p.table ≠ 0 → ∃ t, exec (.flipSwitch id) s = .next t ∧ t.pours = s.pours ∧ t.csr = s.csr ∧ t.mem = s.mem)
    ∧ (s.rd (slotState (1 - old)) p.table = 0 → gen ≤ 0xFFFF → ∃ t, exec (.flipSwitch id) s = .next t ∧ t.pour? id = none
      ∧ t.rd (slotState (1 - old)) p.table = 1 ∧ t.rd (slotGen (1 - old)) p.table = (if gen = 0xFFFF then 1 else gen + 1)
      ∧ t.rd (slotState old) p.table = (if s.rd (slotInflight old) p.table = 0 then 0 else 2)
      ∧ t.rd (slotGen old) p.table = gen ∧ t.rd (slotInflight old) p.table = s.rd (slotInflight old) p.table))

/-! ### Enumerator and scrub -/

/-- ENUMERATE without the right to read the descriptor, or with a descriptor that breaks a rule, writes nothing and keeps the code; a
descriptor without global bricks is expanded into its lists in order. Every entry has 32 bytes, a list that fits has as many entries as
VISIT_MAX, and a descriptor has one list for each query brick and stacked block, and one for each global brick. Patrol scrub passes over a
stack outside its window, skips a stack that is not in its normal class, and otherwise goes on to the next page, or back to page 0 with
one pass more. -/
def Obligations.EnumeratorAndScrub : Prop :=
  ((∀ (s : State) (f a : Nat), s.ready = true → f < 64 → s.bit .flaskEnabled f = true → s.bit .resetBusy f = false →
    (s.allowed f a 64 .read = false → ∃ t, exec (.enumerate f a) s = .next t ∧ t.enumCode = 0x30 ∧ t.enumPos = 0 ∧ t.mem = s.mem ∧ t.csr = s.csr)
    ∧ (let m := s.readLocal (enumWho f) (s.hintOf f a 64 0 .read) a 64
      s.allowed f a 64 .read = true → farKey a = false → s.drains a 64 = false → m.1.code = 0 →
      ((patternOf m.1.bytes).ok = false → ∃ t, exec (.enumerate f a) s = .next t ∧ t.enumCode = 0x40 ∧ t.enumPos = 0 ∧ t.mem = m.2.mem)
      ∧ ((patternOf m.1.bytes).ok = true → (patternOf m.1.bytes).globals = 0 →
        let r := State.writeLists f (patternOf m.1.bytes) ((patternOf m.1.bytes).lists []) 0 m.2
        ∃ t, exec (.enumerate f a) s = .next t ∧ t.enumCode = r.enumCode ∧ t.enumPos = r.enumPos ∧ t.mem = r.mem ∧ t.tc2 = r.tc2)))
  ∧ (∀ (d : Pattern) (j : Nat) (v : Option Visit), (d.entry j v).length = 32)
  ∧ (∀ (d : Pattern) (vs : List (Option Visit)), vs.length ≤ d.visitMax → (d.steps vs).length = d.visitMax)
  ∧ (∀ (d : Pattern) (gl : List GlobalEntry), d.qFirst ≤ d.qLast → (d.lists gl).length
      = (d.qLast - d.qFirst + 1) * 2 ^ d.stackLog2 + if d.globalQuery = true then d.globals else 0)
  ∧ (∀ (d : Pattern) (gl : List GlobalEntry) (q : Nat) (v : Visit), d.causal = true → some v ∈ d.gridVisits gl q → v.isGlobal = false →
      v.brick / (d.bh * d.bw) ≤ q / (d.bh * d.bw) ∧ d.areaFirst ≤ v.brick ∧ v.brick ≤ d.areaLast
        ∧ v.addr = d.localBase + (v.brick - d.areaFirst) * d.stride))
  ∧ (∀ (s : State) (k : Nat), k < 16 →
    (s.scrubOpen.any (fun e => e.2.testBit k) = false → ∃ t, exec (.scrubPage k) s = .next t ∧ t.csr = s.csr ∧ t.mem = s.mem)
    ∧ (s.scrubOpen.any (fun e => e.2.testBit k) = true → s.rd .stackClass k ≠ 0 → ∃ t, exec (.scrubPage k) s = .next t
      ∧ t.bit .scrubSkipped = true ∧ t.rd .scrubPos k = s.rd .scrubPos k ∧ t.mem = s.mem)
    ∧ (s.scrubOpen.any (fun e => e.2.testBit k) = true → s.rd .stackClass k = 0 → ∃ t, exec (.scrubPage k) s = .next t
      ∧ t.rd .scrubPos k = (if s.rd .scrubPos k + 1 < s.stackPages then s.rd .scrubPos k + 1 else 0)
      ∧ t.rd .scrubPasses k = (if s.rd .scrubPos k + 1 < s.stackPages then s.rd .scrubPasses k else (s.rd .scrubPasses k + 1) % 2 ^ 32)
      ∧ ∀ j, j ≠ k → t.rd .scrubPos j = s.rd .scrubPos j))

/-! ### Riser points and replay -/

/-- A MARK whose fence is satisfied runs; its record is written into the slot that is not current, which becomes current with ATTEMPT 0. A
journal entry gives back the index and every semaphore that it saved. -/
def Obligations.RiserPoints : Prop :=
  (∀ (s : State) (id : Nat) (p : Pour), s.pour? id = some p → p.opcode = 0xF → s.starts p = true → ∃ t, exec (.mark id) s = .next t
    ∧ t.csr = s.csr ∧ t.mem = s.mem
    ∧ if s.markFence p then (t.pour? id).map (·.stage) = some Stage.running else t.pours = s.pours)
  ∧ (∀ (s u : State) (id : Nat) (p : Pour), s.pour? id = some p → p.opcode = 0xF → p.stage = .running → p.cancelled = false →
    s.cutCovers p.ladle p.index = false → s.rd .riserSlot p.ladle ≤ 1 →
    s.put { rq := rqPour, flask := p.flask } none 0 (s.journalSlot p.ladle (1 - s.rd .riserSlot p.ladle)) (s.journalEntry p) [] = .ok u →
    ∃ t, exec (.markRecord id) s = .next t ∧ t.rd .riserSlot p.ladle = 1 - s.rd .riserSlot p.ladle ∧ t.bit .hasRiser p.ladle = true
      ∧ t.rd .riserAttempt p.ladle = 0 ∧ t.rd .riserMark p.ladle = (p.heat.elim p.index (·.prog)) % 2 ^ 32 ∧ t.pour? p.id = none
      ∧ (p.completeEn = false → t.mem = u.mem))
  ∧ (∀ (s : State) (p : Pour), jField (s.journalEntry p) 0 4 = p.index % 2 ^ 32
    ∧ jField (s.journalEntry p) 0x28 8 = p.f bitA 64
    ∧ (∀ i < 64, jField (s.journalEntry p) (0x80 + 4 * i) 4 = s.rd .sem (64 * p.flask + i) % 2 ^ 32)
    ∧ (s.journalEntry p).length = 0x280 + 8 * p.markCount)

/-- A replay: a transient fault stops its ladle and cancels its pours; with them stopped and their writes answered ATTEMPT goes up and the replay waits, or the
third failure stops the ladle REPLAY_FAILED; once its condition holds the riser point's HEAD and masked semaphores are restored and
dispatch goes on; a wait beyond its limit stops the ladle REPLAY_FAILED. -/
def Obligations.Replays : Prop :=
  (∀ (s : State) (n : Nat) (p : Pour), s.transient n = some p → s.bit .replaying n = false → s.bit .resetBusy (ladleFlask n) = false →
    ∃ t, exec (.transientFault n) s = .next t ∧ t.bit .replaying n = true ∧ t.rd .riserLastCode n = p.code % 2 ^ 16
      ∧ (t.ladle n).replay = some p ∧ (∀ q ∈ t.pours, q.ladle = n → q.cancelled = true) ∧ t.rd .ladleState n = s.rd .ladleState n)
  ∧ (∀ (s : State) (n : Nat) (p : Pour), (s.ladle n).replay = some p → s.bit .replaying n = true → (s.ladle n).replayWaiting = false →
    s.cancelFlies n = false →
    (s.rd .riserAttempt n < 2 → ∃ t, exec (.replayCancelDone n) s = .next t ∧ t.rd .riserAttempt n = s.rd .riserAttempt n + 1
      ∧ t.rd .replays = min (s.rd .replays + 1) 0xFFFFFFFF ∧ (t.ladle n).replayWaiting = true
      ∧ (∀ q ∈ t.pours, q.ladle = n → q.cancelled = false) ∧ t.bit .replaying n = true)
    ∧ (s.rd .riserAttempt n = 2 → p.opcode ≠ 0xC0 → p.ladle = n → s.rd .ladleState n = 1 → ∃ t, exec (.replayCancelDone n) s = .next t
      ∧ t.bit .replaying n = false ∧ t.rd .replaysFailed = min (s.rd .replaysFailed + 1) 0xFFFFFFFF ∧ t.rd .ladleState n = 2
      ∧ t.rd .stopCode n = 0x90 ∧ (t.ladle n).replay = none))
  ∧ (∀ (s : State) (n : Nat) (p : Pour), (s.ladle n).replay = some p → s.bit .replaying n = true → (s.ladle n).replayWaiting = true →
    let j := (s.readJournal n).1
    (s.replayCondition p = true → (s.ladle n).riserHeat = none → ∃ t, exec (.replayConditionMet n) s = .next t ∧ t.bit .replaying n = false
      ∧ (t.ladle n).replay = none ∧ Sp.get? t.heats n = none ∧ t.rd .ladleHead n = (jField j 0 4 + 1) % 2 ^ 32
      ∧ (∀ i < 64, t.rd .sem (64 * ladleFlask n + i) = if (jField j 0x28 8).testBit i then jField j (0x80 + 4 * i) 4 % 2 ^ 32
          else s.rd .sem (64 * ladleFlask n + i)))
    ∧ (s.replayCondition p = false →
      (∃ t, exec (.replayConditionMet n) s = .next t ∧ t.csr = s.csr ∧ t.mem = s.mem ∧ t.pours = s.pours)
      ∧ (p.opcode ≠ 0xC0 → p.ladle = n → s.rd .ladleState n = 1 → ∃ t, exec (.replayWaitTimeout n) s = .next t ∧ t.bit .replaying n = false
        ∧ t.rd .replaysFailed = min (s.rd .replaysFailed + 1) 0xFFFFFFFF ∧ t.rd .ladleState n = 2 ∧ t.rd .stopCode n = 0x90)))
end

