-- ==== Sys2Proof/Laws/Sparse.lean ====
section
/-!
SUPPORT. Sparse tables: what a read gives after a store or a removal, and that every operation keeps the rising order.
-/
namespace Sys2Proof.Machine

variable {α : Type}

/-- A store is read back. -/
@[simp] theorem Sp.get?_put_same (m : Sp α) (k : Nat) (v : α) : Sp.get? (Sp.put m k v) k = some v := by
  induction m with
  | nil => simp [Sp.put, Sp.get?]
  | cons e r ih =>
    obtain ⟨k', v'⟩ := e
    simp only [Sp.put]
    split
    · simp [Sp.get?]
    · split
      · simp [Sp.get?]
      · simp [Sp.get?, *]

/-- A store leaves every other index alone. -/
theorem Sp.get?_put_ne (m : Sp α) {k j : Nat} (v : α) (h : j ≠ k) : Sp.get? (Sp.put m k v) j = Sp.get? m j := by
  induction m with
  | nil => simp [Sp.put, Sp.get?, Ne.symm h]
  | cons e r ih =>
    obtain ⟨k', v'⟩ := e
    simp only [Sp.put]
    split
    next hk => subst hk; simp [Sp.get?, Ne.symm h]
    next =>
      split
      · simp [Sp.get?, Ne.symm h]
      · simp only [Sp.get?]; split <;> simp_all

/-- A read after a store, at any index. -/
theorem Sp.get?_put (m : Sp α) (k j : Nat) (v : α) : Sp.get? (Sp.put m k v) j = if j = k then some v else Sp.get? m j := by
  split
  next h => subst h; simp
  next h => exact Sp.get?_put_ne m v h

/-- A removed index reads as absent. -/
@[simp] theorem Sp.get?_del_same (m : Sp α) (k : Nat) : Sp.get? (Sp.del m k) k = none := by
  induction m with
  | nil => rfl
  | cons e r ih =>
    obtain ⟨k', v'⟩ := e
    simp only [Sp.del, List.filter_cons]
    split
    · simp only [Sp.get?]; split
      · simp_all
      · exact ih
    · exact ih

/-- A removal leaves every other index alone. -/
theorem Sp.get?_del_ne (m : Sp α) {k j : Nat} (h : j ≠ k) : Sp.get? (Sp.del m k) j = Sp.get? m j := by
  induction m with
  | nil => rfl
  | cons e r ih =>
    obtain ⟨k', v'⟩ := e
    have ih' : Sp.get? (List.filter (fun e => decide (e.1 ≠ k)) r) j = Sp.get? r j := ih
    simp only [Sp.del, List.filter_cons]
    split
    · simp only [Sp.get?, ih']
    next hk =>
      have : k' = k := by simpa using hk
      subst this
      simp only [Sp.get?, Ne.symm h, if_false, ih']

/-- The default of a read after a store. -/
@[simp] theorem Sp.getD_put_same (m : Sp α) (k : Nat) (v d : α) : Sp.getD (Sp.put m k v) k d = v := by simp [Sp.getD]

theorem Sp.getD_put_ne (m : Sp α) {k j : Nat} (v d : α) (h : j ≠ k) : Sp.getD (Sp.put m k v) j d = Sp.getD m j d := by
  simp [Sp.getD, Sp.get?_put_ne m v h]

/-- Rising order, said of the list: every index lies below those after it. -/
theorem Sp.sorted_cons {k : Nat} {v : α} {r : Sp α} :
    Sp.sorted ((k, v) :: r) = true ↔ (∀ e ∈ r, k < e.1) ∧ Sp.sorted r = true := by
  induction r generalizing k v with
  | nil => simp [Sp.sorted]
  | cons e r ih =>
    obtain ⟨k', v'⟩ := e
    simp only [Sp.sorted, Bool.and_eq_true, decide_eq_true_eq]
    rw [ih]
    constructor
    · rintro ⟨h, h1, h2⟩
      refine ⟨fun e he => ?_, h1, h2⟩
      rcases List.mem_cons.mp he with rfl | he
      · exact h
      · exact Nat.lt_trans h (h1 e he)
    · rintro ⟨h, h1, h2⟩
      exact ⟨h _ (List.mem_cons_self ..), h1, h2⟩

/-- The indices after a store are the old ones and the new one. -/
theorem Sp.mem_put {m : Sp α} {k : Nat} {v : α} {e : Nat × α} (h : e ∈ Sp.put m k v) : e = (k, v) ∨ e ∈ m := by
  induction m with
  | nil => simpa [Sp.put] using h
  | cons x r ih =>
    obtain ⟨k', v'⟩ := x
    simp only [Sp.put] at h
    split at h
    · rcases List.mem_cons.mp h with h | h
      · exact .inl h
      · exact .inr (List.mem_cons_of_mem _ h)
    · split at h
      · rcases List.mem_cons.mp h with h | h
        · exact .inl h
        · exact .inr h
      · rcases List.mem_cons.mp h with h | h
        · exact .inr (h ▸ List.mem_cons_self ..)
        · exact (ih h).imp id (List.mem_cons_of_mem _)

/-- A store keeps the rising order. -/
theorem Sp.sorted_put {m : Sp α} (k : Nat) (v : α) (h : Sp.sorted m = true) : Sp.sorted (Sp.put m k v) = true := by
  induction m with
  | nil => rfl
  | cons x r ih =>
    obtain ⟨k', v'⟩ := x
    have hc := Sp.sorted_cons.mp h
    simp only [Sp.put]
    split
    next e => subst e; exact Sp.sorted_cons.mpr hc
    next =>
      split
      next lt =>
        exact Sp.sorted_cons.mpr ⟨fun e he => by
          rcases List.mem_cons.mp he with rfl | he
          · exact lt
          · exact Nat.lt_trans lt (hc.1 e he), h⟩
      next hne hlt =>
        refine Sp.sorted_cons.mpr ⟨fun e he => ?_, ih hc.2⟩
        rcases Sp.mem_put he with rfl | he
        · exact Nat.lt_of_le_of_ne (Nat.le_of_not_lt hlt) hne
        · exact hc.1 e he

/-- Keeping some entries keeps the rising order. -/
theorem Sp.sorted_filter {m : Sp α} (f : Nat × α → Bool) (h : Sp.sorted m = true) : Sp.sorted (m.filter f) = true := by
  induction m with
  | nil => rfl
  | cons x r ih =>
    obtain ⟨k', v'⟩ := x
    have hc := Sp.sorted_cons.mp h
    simp only [List.filter_cons]
    split
    · exact Sp.sorted_cons.mpr ⟨fun e he => hc.1 e (List.mem_filter.mp he).1, ih hc.2⟩
    · exact ih hc.2

/-- A map that keeps the indices keeps the rising order. -/
theorem Sp.sorted_map {m : Sp α} (f : Nat × α → Nat × α) (hf : ∀ e, (f e).1 = e.1) (h : Sp.sorted m = true) : Sp.sorted (m.map f) = true := by
  induction m with
  | nil => rfl
  | cons x r ih =>
    have hc := Sp.sorted_cons.mp h
    rw [List.map_cons]
    refine Sp.sorted_cons.mpr ⟨fun e he => ?_, ih hc.2⟩
    obtain ⟨y, hy, rfl⟩ := List.mem_map.mp he
    rw [hf, hf]; exact hc.1 y hy

/-- A removal keeps the rising order. -/
theorem Sp.sorted_del {m : Sp α} (k : Nat) (h : Sp.sorted m = true) : Sp.sorted (Sp.del m k) = true :=
  Sp.sorted_filter _ h

end Sys2Proof.Machine
end

