-- ==== Sys2Proof/Laws/State.lean ====
section
/-!
SUPPORT. What each named update of the state leaves alone: one lemma per field and update; and what a register field reads after a
write.
-/
namespace Sys2Proof.Machine

/-! ### One lemma per field and update -/

@[simp] theorem State.wr_pending (s : State) (k : FKind) (i v : Nat) : (s.wr k i v).pending = s.pending := rfl
@[simp] theorem State.wr_phase (s : State) (k : FKind) (i v : Nat) : (s.wr k i v).phase = s.phase := rfl
@[simp] theorem State.wr_start (s : State) (k : FKind) (i v : Nat) : (s.wr k i v).start = s.start := rfl
@[simp] theorem State.wr_pins (s : State) (k : FKind) (i v : Nat) : (s.wr k i v).pins = s.pins := rfl
@[simp] theorem State.wr_part1024 (s : State) (k : FKind) (i v : Nat) : (s.wr k i v).part1024 = s.part1024 := rfl
@[simp] theorem State.wr_fresh (s : State) (k : FKind) (i v : Nat) : (s.wr k i v).fresh = s.fresh := rfl
@[simp] theorem State.wr_mem (s : State) (k : FKind) (i v : Nat) : (s.wr k i v).mem = s.mem := rfl
@[simp] theorem State.wr_cache (s : State) (k : FKind) (i v : Nat) : (s.wr k i v).cache = s.cache := rfl
@[simp] theorem State.wr_pours (s : State) (k : FKind) (i v : Nat) : (s.wr k i v).pours = s.pours := rfl
@[simp] theorem State.wr_nextPour (s : State) (k : FKind) (i v : Nat) : (s.wr k i v).nextPour = s.nextPour := rfl
@[simp] theorem State.wr_ladles (s : State) (k : FKind) (i v : Nat) : (s.wr k i v).ladles = s.ladles := rfl
@[simp] theorem State.wr_heats (s : State) (k : FKind) (i v : Nat) : (s.wr k i v).heats = s.heats := rfl
@[simp] theorem State.wr_heldCq (s : State) (k : FKind) (i v : Nat) : (s.wr k i v).heldCq = s.heldCq := rfl
@[simp] theorem State.wr_arrays (s : State) (k : FKind) (i v : Nat) : (s.wr k i v).arrays = s.arrays := rfl
@[simp] theorem State.wr_host (s : State) (k : FKind) (i v : Nat) : (s.wr k i v).host = s.host := rfl
@[simp] theorem State.wr_mbox (s : State) (k : FKind) (i v : Nat) : (s.wr k i v).mbox = s.mbox := rfl
@[simp] theorem State.wr_time (s : State) (k : FKind) (i v : Nat) : (s.wr k i v).time = s.time := rfl
@[simp] theorem State.wr_entries (s : State) (k : FKind) (i v : Nat) : (s.wr k i v).entries = s.entries := rfl
@[simp] theorem State.wr_power (s : State) (k : FKind) (i v : Nat) : (s.wr k i v).power = s.power := rfl
@[simp] theorem State.wr_loanEnds (s : State) (k : FKind) (i v : Nat) : (s.wr k i v).loanEnds = s.loanEnds := rfl
@[simp] theorem State.wr_scrubOpen (s : State) (k : FKind) (i v : Nat) : (s.wr k i v).scrubOpen = s.scrubOpen := rfl
@[simp] theorem State.wr_sramPos (s : State) (k : FKind) (i v : Nat) : (s.wr k i v).sramPos = s.sramPos := rfl
@[simp] theorem State.wr_enumPos (s : State) (k : FKind) (i v : Nat) : (s.wr k i v).enumPos = s.enumPos := rfl
@[simp] theorem State.wr_enumCode (s : State) (k : FKind) (i v : Nat) : (s.wr k i v).enumCode = s.enumCode := rfl
@[simp] theorem State.wr_ports (s : State) (k : FKind) (i v : Nat) : (s.wr k i v).ports = s.ports := rfl
@[simp] theorem State.wr_tc2 (s : State) (k : FKind) (i v : Nat) : (s.wr k i v).tc2 = s.tc2 := rfl
@[simp] theorem State.wr_tc2Next (s : State) (k : FKind) (i v : Nat) : (s.wr k i v).tc2Next = s.tc2Next := rfl
@[simp] theorem State.wr_staged (s : State) (k : FKind) (i v : Nat) : (s.wr k i v).staged = s.staged := rfl
@[simp] theorem State.wr_colls (s : State) (k : FKind) (i v : Nat) : (s.wr k i v).colls = s.colls := rfl
@[simp] theorem State.wr_sec (s : State) (k : FKind) (i v : Nat) : (s.wr k i v).sec = s.sec := rfl
@[simp] theorem State.wr_contrail (s : State) (k : FKind) (i v : Nat) : (s.wr k i v).contrail = s.contrail := rfl
@[simp] theorem State.wr_tgen (s : State) (k : FKind) (i v : Nat) : (s.wr k i v).tgen = s.tgen := rfl
@[simp] theorem State.wr_tap (s : State) (k : FKind) (i v : Nat) : (s.wr k i v).tap = s.tap := rfl
@[simp] theorem State.wr_probe (s : State) (k : FKind) (i v : Nat) : (s.wr k i v).probe = s.probe := rfl

@[simp] theorem State.setBit_pending (s : State) (k : FKind) (i : Nat) : (s.setBit k i).pending = s.pending := rfl
@[simp] theorem State.setBit_phase (s : State) (k : FKind) (i : Nat) : (s.setBit k i).phase = s.phase := rfl
@[simp] theorem State.setBit_start (s : State) (k : FKind) (i : Nat) : (s.setBit k i).start = s.start := rfl
@[simp] theorem State.setBit_pins (s : State) (k : FKind) (i : Nat) : (s.setBit k i).pins = s.pins := rfl
@[simp] theorem State.setBit_part1024 (s : State) (k : FKind) (i : Nat) : (s.setBit k i).part1024 = s.part1024 := rfl
@[simp] theorem State.setBit_fresh (s : State) (k : FKind) (i : Nat) : (s.setBit k i).fresh = s.fresh := rfl
@[simp] theorem State.setBit_mem (s : State) (k : FKind) (i : Nat) : (s.setBit k i).mem = s.mem := rfl
@[simp] theorem State.setBit_cache (s : State) (k : FKind) (i : Nat) : (s.setBit k i).cache = s.cache := rfl
@[simp] theorem State.setBit_pours (s : State) (k : FKind) (i : Nat) : (s.setBit k i).pours = s.pours := rfl
@[simp] theorem State.setBit_nextPour (s : State) (k : FKind) (i : Nat) : (s.setBit k i).nextPour = s.nextPour := rfl
@[simp] theorem State.setBit_ladles (s : State) (k : FKind) (i : Nat) : (s.setBit k i).ladles = s.ladles := rfl
@[simp] theorem State.setBit_heats (s : State) (k : FKind) (i : Nat) : (s.setBit k i).heats = s.heats := rfl
@[simp] theorem State.setBit_heldCq (s : State) (k : FKind) (i : Nat) : (s.setBit k i).heldCq = s.heldCq := rfl
@[simp] theorem State.setBit_arrays (s : State) (k : FKind) (i : Nat) : (s.setBit k i).arrays = s.arrays := rfl
@[simp] theorem State.setBit_host (s : State) (k : FKind) (i : Nat) : (s.setBit k i).host = s.host := rfl
@[simp] theorem State.setBit_mbox (s : State) (k : FKind) (i : Nat) : (s.setBit k i).mbox = s.mbox := rfl
@[simp] theorem State.setBit_time (s : State) (k : FKind) (i : Nat) : (s.setBit k i).time = s.time := rfl
@[simp] theorem State.setBit_entries (s : State) (k : FKind) (i : Nat) : (s.setBit k i).entries = s.entries := rfl
@[simp] theorem State.setBit_power (s : State) (k : FKind) (i : Nat) : (s.setBit k i).power = s.power := rfl
@[simp] theorem State.setBit_loanEnds (s : State) (k : FKind) (i : Nat) : (s.setBit k i).loanEnds = s.loanEnds := rfl
@[simp] theorem State.setBit_scrubOpen (s : State) (k : FKind) (i : Nat) : (s.setBit k i).scrubOpen = s.scrubOpen := rfl
@[simp] theorem State.setBit_sramPos (s : State) (k : FKind) (i : Nat) : (s.setBit k i).sramPos = s.sramPos := rfl
@[simp] theorem State.setBit_enumPos (s : State) (k : FKind) (i : Nat) : (s.setBit k i).enumPos = s.enumPos := rfl
@[simp] theorem State.setBit_enumCode (s : State) (k : FKind) (i : Nat) : (s.setBit k i).enumCode = s.enumCode := rfl
@[simp] theorem State.setBit_ports (s : State) (k : FKind) (i : Nat) : (s.setBit k i).ports = s.ports := rfl
@[simp] theorem State.setBit_tc2 (s : State) (k : FKind) (i : Nat) : (s.setBit k i).tc2 = s.tc2 := rfl
@[simp] theorem State.setBit_tc2Next (s : State) (k : FKind) (i : Nat) : (s.setBit k i).tc2Next = s.tc2Next := rfl
@[simp] theorem State.setBit_staged (s : State) (k : FKind) (i : Nat) : (s.setBit k i).staged = s.staged := rfl
@[simp] theorem State.setBit_colls (s : State) (k : FKind) (i : Nat) : (s.setBit k i).colls = s.colls := rfl
@[simp] theorem State.setBit_sec (s : State) (k : FKind) (i : Nat) : (s.setBit k i).sec = s.sec := rfl
@[simp] theorem State.setBit_contrail (s : State) (k : FKind) (i : Nat) : (s.setBit k i).contrail = s.contrail := rfl
@[simp] theorem State.setBit_tgen (s : State) (k : FKind) (i : Nat) : (s.setBit k i).tgen = s.tgen := rfl
@[simp] theorem State.setBit_tap (s : State) (k : FKind) (i : Nat) : (s.setBit k i).tap = s.tap := rfl
@[simp] theorem State.setBit_probe (s : State) (k : FKind) (i : Nat) : (s.setBit k i).probe = s.probe := rfl

@[simp] theorem State.clr_pending (s : State) (k : FKind) (i : Nat) : (s.clr k i).pending = s.pending := rfl
@[simp] theorem State.clr_phase (s : State) (k : FKind) (i : Nat) : (s.clr k i).phase = s.phase := rfl
@[simp] theorem State.clr_start (s : State) (k : FKind) (i : Nat) : (s.clr k i).start = s.start := rfl
@[simp] theorem State.clr_pins (s : State) (k : FKind) (i : Nat) : (s.clr k i).pins = s.pins := rfl
@[simp] theorem State.clr_part1024 (s : State) (k : FKind) (i : Nat) : (s.clr k i).part1024 = s.part1024 := rfl
@[simp] theorem State.clr_fresh (s : State) (k : FKind) (i : Nat) : (s.clr k i).fresh = s.fresh := rfl
@[simp] theorem State.clr_mem (s : State) (k : FKind) (i : Nat) : (s.clr k i).mem = s.mem := rfl
@[simp] theorem State.clr_cache (s : State) (k : FKind) (i : Nat) : (s.clr k i).cache = s.cache := rfl
@[simp] theorem State.clr_pours (s : State) (k : FKind) (i : Nat) : (s.clr k i).pours = s.pours := rfl
@[simp] theorem State.clr_nextPour (s : State) (k : FKind) (i : Nat) : (s.clr k i).nextPour = s.nextPour := rfl
@[simp] theorem State.clr_ladles (s : State) (k : FKind) (i : Nat) : (s.clr k i).ladles = s.ladles := rfl
@[simp] theorem State.clr_heats (s : State) (k : FKind) (i : Nat) : (s.clr k i).heats = s.heats := rfl
@[simp] theorem State.clr_heldCq (s : State) (k : FKind) (i : Nat) : (s.clr k i).heldCq = s.heldCq := rfl
@[simp] theorem State.clr_arrays (s : State) (k : FKind) (i : Nat) : (s.clr k i).arrays = s.arrays := rfl
@[simp] theorem State.clr_host (s : State) (k : FKind) (i : Nat) : (s.clr k i).host = s.host := rfl
@[simp] theorem State.clr_mbox (s : State) (k : FKind) (i : Nat) : (s.clr k i).mbox = s.mbox := rfl
@[simp] theorem State.clr_time (s : State) (k : FKind) (i : Nat) : (s.clr k i).time = s.time := rfl
@[simp] theorem State.clr_entries (s : State) (k : FKind) (i : Nat) : (s.clr k i).entries = s.entries := rfl
@[simp] theorem State.clr_power (s : State) (k : FKind) (i : Nat) : (s.clr k i).power = s.power := rfl
@[simp] theorem State.clr_loanEnds (s : State) (k : FKind) (i : Nat) : (s.clr k i).loanEnds = s.loanEnds := rfl
@[simp] theorem State.clr_scrubOpen (s : State) (k : FKind) (i : Nat) : (s.clr k i).scrubOpen = s.scrubOpen := rfl
@[simp] theorem State.clr_sramPos (s : State) (k : FKind) (i : Nat) : (s.clr k i).sramPos = s.sramPos := rfl
@[simp] theorem State.clr_enumPos (s : State) (k : FKind) (i : Nat) : (s.clr k i).enumPos = s.enumPos := rfl
@[simp] theorem State.clr_enumCode (s : State) (k : FKind) (i : Nat) : (s.clr k i).enumCode = s.enumCode := rfl
@[simp] theorem State.clr_ports (s : State) (k : FKind) (i : Nat) : (s.clr k i).ports = s.ports := rfl
@[simp] theorem State.clr_tc2 (s : State) (k : FKind) (i : Nat) : (s.clr k i).tc2 = s.tc2 := rfl
@[simp] theorem State.clr_tc2Next (s : State) (k : FKind) (i : Nat) : (s.clr k i).tc2Next = s.tc2Next := rfl
@[simp] theorem State.clr_staged (s : State) (k : FKind) (i : Nat) : (s.clr k i).staged = s.staged := rfl
@[simp] theorem State.clr_colls (s : State) (k : FKind) (i : Nat) : (s.clr k i).colls = s.colls := rfl
@[simp] theorem State.clr_sec (s : State) (k : FKind) (i : Nat) : (s.clr k i).sec = s.sec := rfl
@[simp] theorem State.clr_contrail (s : State) (k : FKind) (i : Nat) : (s.clr k i).contrail = s.contrail := rfl
@[simp] theorem State.clr_tgen (s : State) (k : FKind) (i : Nat) : (s.clr k i).tgen = s.tgen := rfl
@[simp] theorem State.clr_tap (s : State) (k : FKind) (i : Nat) : (s.clr k i).tap = s.tap := rfl
@[simp] theorem State.clr_probe (s : State) (k : FKind) (i : Nat) : (s.clr k i).probe = s.probe := rfl

@[simp] theorem State.cause_pending (s : State) (b : Nat) : (s.cause b).pending = s.pending := rfl
@[simp] theorem State.cause_phase (s : State) (b : Nat) : (s.cause b).phase = s.phase := rfl
@[simp] theorem State.cause_start (s : State) (b : Nat) : (s.cause b).start = s.start := rfl
@[simp] theorem State.cause_pins (s : State) (b : Nat) : (s.cause b).pins = s.pins := rfl
@[simp] theorem State.cause_part1024 (s : State) (b : Nat) : (s.cause b).part1024 = s.part1024 := rfl
@[simp] theorem State.cause_fresh (s : State) (b : Nat) : (s.cause b).fresh = s.fresh := rfl
@[simp] theorem State.cause_mem (s : State) (b : Nat) : (s.cause b).mem = s.mem := rfl
@[simp] theorem State.cause_cache (s : State) (b : Nat) : (s.cause b).cache = s.cache := rfl
@[simp] theorem State.cause_pours (s : State) (b : Nat) : (s.cause b).pours = s.pours := rfl
@[simp] theorem State.cause_nextPour (s : State) (b : Nat) : (s.cause b).nextPour = s.nextPour := rfl
@[simp] theorem State.cause_ladles (s : State) (b : Nat) : (s.cause b).ladles = s.ladles := rfl
@[simp] theorem State.cause_heats (s : State) (b : Nat) : (s.cause b).heats = s.heats := rfl
@[simp] theorem State.cause_heldCq (s : State) (b : Nat) : (s.cause b).heldCq = s.heldCq := rfl
@[simp] theorem State.cause_arrays (s : State) (b : Nat) : (s.cause b).arrays = s.arrays := rfl
@[simp] theorem State.cause_host (s : State) (b : Nat) : (s.cause b).host = s.host := rfl
@[simp] theorem State.cause_mbox (s : State) (b : Nat) : (s.cause b).mbox = s.mbox := rfl
@[simp] theorem State.cause_time (s : State) (b : Nat) : (s.cause b).time = s.time := rfl
@[simp] theorem State.cause_entries (s : State) (b : Nat) : (s.cause b).entries = s.entries := rfl
@[simp] theorem State.cause_power (s : State) (b : Nat) : (s.cause b).power = s.power := rfl
@[simp] theorem State.cause_loanEnds (s : State) (b : Nat) : (s.cause b).loanEnds = s.loanEnds := rfl
@[simp] theorem State.cause_scrubOpen (s : State) (b : Nat) : (s.cause b).scrubOpen = s.scrubOpen := rfl
@[simp] theorem State.cause_sramPos (s : State) (b : Nat) : (s.cause b).sramPos = s.sramPos := rfl
@[simp] theorem State.cause_enumPos (s : State) (b : Nat) : (s.cause b).enumPos = s.enumPos := rfl
@[simp] theorem State.cause_enumCode (s : State) (b : Nat) : (s.cause b).enumCode = s.enumCode := rfl
@[simp] theorem State.cause_ports (s : State) (b : Nat) : (s.cause b).ports = s.ports := rfl
@[simp] theorem State.cause_tc2 (s : State) (b : Nat) : (s.cause b).tc2 = s.tc2 := rfl
@[simp] theorem State.cause_tc2Next (s : State) (b : Nat) : (s.cause b).tc2Next = s.tc2Next := rfl
@[simp] theorem State.cause_staged (s : State) (b : Nat) : (s.cause b).staged = s.staged := rfl
@[simp] theorem State.cause_colls (s : State) (b : Nat) : (s.cause b).colls = s.colls := rfl
@[simp] theorem State.cause_sec (s : State) (b : Nat) : (s.cause b).sec = s.sec := rfl
@[simp] theorem State.cause_contrail (s : State) (b : Nat) : (s.cause b).contrail = s.contrail := rfl
@[simp] theorem State.cause_tgen (s : State) (b : Nat) : (s.cause b).tgen = s.tgen := rfl
@[simp] theorem State.cause_tap (s : State) (b : Nat) : (s.cause b).tap = s.tap := rfl
@[simp] theorem State.cause_probe (s : State) (b : Nat) : (s.cause b).probe = s.probe := rfl

@[simp] theorem State.raise_pending (s : State) (k : FKind) (i b : Nat) : (s.raise k i b).pending = s.pending := by
  unfold State.raise; split <;> rfl
@[simp] theorem State.raise_phase (s : State) (k : FKind) (i b : Nat) : (s.raise k i b).phase = s.phase := by
  unfold State.raise; split <;> rfl
@[simp] theorem State.raise_start (s : State) (k : FKind) (i b : Nat) : (s.raise k i b).start = s.start := by
  unfold State.raise; split <;> rfl
@[simp] theorem State.raise_pins (s : State) (k : FKind) (i b : Nat) : (s.raise k i b).pins = s.pins := by
  unfold State.raise; split <;> rfl
@[simp] theorem State.raise_part1024 (s : State) (k : FKind) (i b : Nat) : (s.raise k i b).part1024 = s.part1024 := by
  unfold State.raise; split <;> rfl
@[simp] theorem State.raise_fresh (s : State) (k : FKind) (i b : Nat) : (s.raise k i b).fresh = s.fresh := by
  unfold State.raise; split <;> rfl
@[simp] theorem State.raise_mem (s : State) (k : FKind) (i b : Nat) : (s.raise k i b).mem = s.mem := by
  unfold State.raise; split <;> rfl
@[simp] theorem State.raise_cache (s : State) (k : FKind) (i b : Nat) : (s.raise k i b).cache = s.cache := by
  unfold State.raise; split <;> rfl
@[simp] theorem State.raise_pours (s : State) (k : FKind) (i b : Nat) : (s.raise k i b).pours = s.pours := by
  unfold State.raise; split <;> rfl
@[simp] theorem State.raise_nextPour (s : State) (k : FKind) (i b : Nat) : (s.raise k i b).nextPour = s.nextPour := by
  unfold State.raise; split <;> rfl
@[simp] theorem State.raise_ladles (s : State) (k : FKind) (i b : Nat) : (s.raise k i b).ladles = s.ladles := by
  unfold State.raise; split <;> rfl
@[simp] theorem State.raise_heats (s : State) (k : FKind) (i b : Nat) : (s.raise k i b).heats = s.heats := by
  unfold State.raise; split <;> rfl
@[simp] theorem State.raise_heldCq (s : State) (k : FKind) (i b : Nat) : (s.raise k i b).heldCq = s.heldCq := by
  unfold State.raise; split <;> rfl
@[simp] theorem State.raise_arrays (s : State) (k : FKind) (i b : Nat) : (s.raise k i b).arrays = s.arrays := by
  unfold State.raise; split <;> rfl
@[simp] theorem State.raise_host (s : State) (k : FKind) (i b : Nat) : (s.raise k i b).host = s.host := by
  unfold State.raise; split <;> rfl
@[simp] theorem State.raise_mbox (s : State) (k : FKind) (i b : Nat) : (s.raise k i b).mbox = s.mbox := by
  unfold State.raise; split <;> rfl
@[simp] theorem State.raise_time (s : State) (k : FKind) (i b : Nat) : (s.raise k i b).time = s.time := by
  unfold State.raise; split <;> rfl
@[simp] theorem State.raise_entries (s : State) (k : FKind) (i b : Nat) : (s.raise k i b).entries = s.entries := by
  unfold State.raise; split <;> rfl
@[simp] theorem State.raise_power (s : State) (k : FKind) (i b : Nat) : (s.raise k i b).power = s.power := by
  unfold State.raise; split <;> rfl
@[simp] theorem State.raise_loanEnds (s : State) (k : FKind) (i b : Nat) : (s.raise k i b).loanEnds = s.loanEnds := by
  unfold State.raise; split <;> rfl
@[simp] theorem State.raise_scrubOpen (s : State) (k : FKind) (i b : Nat) : (s.raise k i b).scrubOpen = s.scrubOpen := by
  unfold State.raise; split <;> rfl
@[simp] theorem State.raise_sramPos (s : State) (k : FKind) (i b : Nat) : (s.raise k i b).sramPos = s.sramPos := by
  unfold State.raise; split <;> rfl
@[simp] theorem State.raise_enumPos (s : State) (k : FKind) (i b : Nat) : (s.raise k i b).enumPos = s.enumPos := by
  unfold State.raise; split <;> rfl
@[simp] theorem State.raise_enumCode (s : State) (k : FKind) (i b : Nat) : (s.raise k i b).enumCode = s.enumCode := by
  unfold State.raise; split <;> rfl
@[simp] theorem State.raise_ports (s : State) (k : FKind) (i b : Nat) : (s.raise k i b).ports = s.ports := by
  unfold State.raise; split <;> rfl
@[simp] theorem State.raise_tc2 (s : State) (k : FKind) (i b : Nat) : (s.raise k i b).tc2 = s.tc2 := by
  unfold State.raise; split <;> rfl
@[simp] theorem State.raise_tc2Next (s : State) (k : FKind) (i b : Nat) : (s.raise k i b).tc2Next = s.tc2Next := by
  unfold State.raise; split <;> rfl
@[simp] theorem State.raise_staged (s : State) (k : FKind) (i b : Nat) : (s.raise k i b).staged = s.staged := by
  unfold State.raise; split <;> rfl
@[simp] theorem State.raise_colls (s : State) (k : FKind) (i b : Nat) : (s.raise k i b).colls = s.colls := by
  unfold State.raise; split <;> rfl
@[simp] theorem State.raise_sec (s : State) (k : FKind) (i b : Nat) : (s.raise k i b).sec = s.sec := by
  unfold State.raise; split <;> rfl
@[simp] theorem State.raise_contrail (s : State) (k : FKind) (i b : Nat) : (s.raise k i b).contrail = s.contrail := by
  unfold State.raise; split <;> rfl
@[simp] theorem State.raise_tgen (s : State) (k : FKind) (i b : Nat) : (s.raise k i b).tgen = s.tgen := by
  unfold State.raise; split <;> rfl
@[simp] theorem State.raise_tap (s : State) (k : FKind) (i b : Nat) : (s.raise k i b).tap = s.tap := by
  unfold State.raise; split <;> rfl
@[simp] theorem State.raise_probe (s : State) (k : FKind) (i b : Nat) : (s.raise k i b).probe = s.probe := by
  unfold State.raise; split <;> rfl

@[simp] theorem State.count_pending (s : State) (k : FKind) (i n : Nat) : (s.count k i n).pending = s.pending := by
  unfold State.count; cases integrityPlace k i <;> rfl
@[simp] theorem State.count_phase (s : State) (k : FKind) (i n : Nat) : (s.count k i n).phase = s.phase := by
  unfold State.count; cases integrityPlace k i <;> rfl
@[simp] theorem State.count_start (s : State) (k : FKind) (i n : Nat) : (s.count k i n).start = s.start := by
  unfold State.count; cases integrityPlace k i <;> rfl
@[simp] theorem State.count_pins (s : State) (k : FKind) (i n : Nat) : (s.count k i n).pins = s.pins := by
  unfold State.count; cases integrityPlace k i <;> rfl
@[simp] theorem State.count_part1024 (s : State) (k : FKind) (i n : Nat) : (s.count k i n).part1024 = s.part1024 := by
  unfold State.count; cases integrityPlace k i <;> rfl
@[simp] theorem State.count_fresh (s : State) (k : FKind) (i n : Nat) : (s.count k i n).fresh = s.fresh := by
  unfold State.count; cases integrityPlace k i <;> rfl
@[simp] theorem State.count_mem (s : State) (k : FKind) (i n : Nat) : (s.count k i n).mem = s.mem := by
  unfold State.count; cases integrityPlace k i <;> rfl
@[simp] theorem State.count_cache (s : State) (k : FKind) (i n : Nat) : (s.count k i n).cache = s.cache := by
  unfold State.count; cases integrityPlace k i <;> rfl
@[simp] theorem State.count_pours (s : State) (k : FKind) (i n : Nat) : (s.count k i n).pours = s.pours := by
  unfold State.count; cases integrityPlace k i <;> rfl
@[simp] theorem State.count_nextPour (s : State) (k : FKind) (i n : Nat) : (s.count k i n).nextPour = s.nextPour := by
  unfold State.count; cases integrityPlace k i <;> rfl
@[simp] theorem State.count_ladles (s : State) (k : FKind) (i n : Nat) : (s.count k i n).ladles = s.ladles := by
  unfold State.count; cases integrityPlace k i <;> rfl
@[simp] theorem State.count_heats (s : State) (k : FKind) (i n : Nat) : (s.count k i n).heats = s.heats := by
  unfold State.count; cases integrityPlace k i <;> rfl
@[simp] theorem State.count_heldCq (s : State) (k : FKind) (i n : Nat) : (s.count k i n).heldCq = s.heldCq := by
  unfold State.count; cases integrityPlace k i <;> rfl
@[simp] theorem State.count_arrays (s : State) (k : FKind) (i n : Nat) : (s.count k i n).arrays = s.arrays := by
  unfold State.count; cases integrityPlace k i <;> rfl
@[simp] theorem State.count_host (s : State) (k : FKind) (i n : Nat) : (s.count k i n).host = s.host := by
  unfold State.count; cases integrityPlace k i <;> rfl
@[simp] theorem State.count_mbox (s : State) (k : FKind) (i n : Nat) : (s.count k i n).mbox = s.mbox := by
  unfold State.count; cases integrityPlace k i <;> rfl
@[simp] theorem State.count_time (s : State) (k : FKind) (i n : Nat) : (s.count k i n).time = s.time := by
  unfold State.count; cases integrityPlace k i <;> rfl
@[simp] theorem State.count_entries (s : State) (k : FKind) (i n : Nat) : (s.count k i n).entries = s.entries := by
  unfold State.count; cases integrityPlace k i <;> rfl
@[simp] theorem State.count_loanEnds (s : State) (k : FKind) (i n : Nat) : (s.count k i n).loanEnds = s.loanEnds := by
  unfold State.count; cases integrityPlace k i <;> rfl
@[simp] theorem State.count_scrubOpen (s : State) (k : FKind) (i n : Nat) : (s.count k i n).scrubOpen = s.scrubOpen := by
  unfold State.count; cases integrityPlace k i <;> rfl
@[simp] theorem State.count_sramPos (s : State) (k : FKind) (i n : Nat) : (s.count k i n).sramPos = s.sramPos := by
  unfold State.count; cases integrityPlace k i <;> rfl
@[simp] theorem State.count_enumPos (s : State) (k : FKind) (i n : Nat) : (s.count k i n).enumPos = s.enumPos := by
  unfold State.count; cases integrityPlace k i <;> rfl
@[simp] theorem State.count_enumCode (s : State) (k : FKind) (i n : Nat) : (s.count k i n).enumCode = s.enumCode := by
  unfold State.count; cases integrityPlace k i <;> rfl
@[simp] theorem State.count_ports (s : State) (k : FKind) (i n : Nat) : (s.count k i n).ports = s.ports := by
  unfold State.count; cases integrityPlace k i <;> rfl
@[simp] theorem State.count_tc2 (s : State) (k : FKind) (i n : Nat) : (s.count k i n).tc2 = s.tc2 := by
  unfold State.count; cases integrityPlace k i <;> rfl
@[simp] theorem State.count_tc2Next (s : State) (k : FKind) (i n : Nat) : (s.count k i n).tc2Next = s.tc2Next := by
  unfold State.count; cases integrityPlace k i <;> rfl
@[simp] theorem State.count_staged (s : State) (k : FKind) (i n : Nat) : (s.count k i n).staged = s.staged := by
  unfold State.count; cases integrityPlace k i <;> rfl
@[simp] theorem State.count_colls (s : State) (k : FKind) (i n : Nat) : (s.count k i n).colls = s.colls := by
  unfold State.count; cases integrityPlace k i <;> rfl
@[simp] theorem State.count_sec (s : State) (k : FKind) (i n : Nat) : (s.count k i n).sec = s.sec := by
  unfold State.count; cases integrityPlace k i <;> rfl
@[simp] theorem State.count_contrail (s : State) (k : FKind) (i n : Nat) : (s.count k i n).contrail = s.contrail := by
  unfold State.count; cases integrityPlace k i <;> rfl
@[simp] theorem State.count_tgen (s : State) (k : FKind) (i n : Nat) : (s.count k i n).tgen = s.tgen := by
  unfold State.count; cases integrityPlace k i <;> rfl
@[simp] theorem State.count_tap (s : State) (k : FKind) (i n : Nat) : (s.count k i n).tap = s.tap := by
  unfold State.count; cases integrityPlace k i <;> rfl
@[simp] theorem State.count_probe (s : State) (k : FKind) (i n : Nat) : (s.count k i n).probe = s.probe := by
  unfold State.count; cases integrityPlace k i <;> rfl

@[simp] theorem State.resetBlock_pending (s : State) (b : Block) : (s.resetBlock b).pending = s.pending := rfl
@[simp] theorem State.resetBlock_phase (s : State) (b : Block) : (s.resetBlock b).phase = s.phase := rfl
@[simp] theorem State.resetBlock_start (s : State) (b : Block) : (s.resetBlock b).start = s.start := rfl
@[simp] theorem State.resetBlock_pins (s : State) (b : Block) : (s.resetBlock b).pins = s.pins := rfl
@[simp] theorem State.resetBlock_part1024 (s : State) (b : Block) : (s.resetBlock b).part1024 = s.part1024 := rfl
@[simp] theorem State.resetBlock_fresh (s : State) (b : Block) : (s.resetBlock b).fresh = s.fresh := rfl
@[simp] theorem State.resetBlock_mem (s : State) (b : Block) : (s.resetBlock b).mem = s.mem := rfl
@[simp] theorem State.resetBlock_cache (s : State) (b : Block) : (s.resetBlock b).cache = s.cache := rfl
@[simp] theorem State.resetBlock_pours (s : State) (b : Block) : (s.resetBlock b).pours = s.pours := rfl
@[simp] theorem State.resetBlock_nextPour (s : State) (b : Block) : (s.resetBlock b).nextPour = s.nextPour := rfl
@[simp] theorem State.resetBlock_ladles (s : State) (b : Block) : (s.resetBlock b).ladles = s.ladles := rfl
@[simp] theorem State.resetBlock_heats (s : State) (b : Block) : (s.resetBlock b).heats = s.heats := rfl
@[simp] theorem State.resetBlock_heldCq (s : State) (b : Block) : (s.resetBlock b).heldCq = s.heldCq := rfl
@[simp] theorem State.resetBlock_arrays (s : State) (b : Block) : (s.resetBlock b).arrays = s.arrays := rfl
@[simp] theorem State.resetBlock_host (s : State) (b : Block) : (s.resetBlock b).host = s.host := rfl
@[simp] theorem State.resetBlock_mbox (s : State) (b : Block) : (s.resetBlock b).mbox = s.mbox := rfl
@[simp] theorem State.resetBlock_time (s : State) (b : Block) : (s.resetBlock b).time = s.time := rfl
@[simp] theorem State.resetBlock_entries (s : State) (b : Block) : (s.resetBlock b).entries = s.entries := rfl
@[simp] theorem State.resetBlock_power (s : State) (b : Block) : (s.resetBlock b).power = s.power := rfl
@[simp] theorem State.resetBlock_loanEnds (s : State) (b : Block) : (s.resetBlock b).loanEnds = s.loanEnds := rfl
@[simp] theorem State.resetBlock_scrubOpen (s : State) (b : Block) : (s.resetBlock b).scrubOpen = s.scrubOpen := rfl
@[simp] theorem State.resetBlock_sramPos (s : State) (b : Block) : (s.resetBlock b).sramPos = s.sramPos := rfl
@[simp] theorem State.resetBlock_enumPos (s : State) (b : Block) : (s.resetBlock b).enumPos = s.enumPos := rfl
@[simp] theorem State.resetBlock_enumCode (s : State) (b : Block) : (s.resetBlock b).enumCode = s.enumCode := rfl
@[simp] theorem State.resetBlock_ports (s : State) (b : Block) : (s.resetBlock b).ports = s.ports := rfl
@[simp] theorem State.resetBlock_tc2 (s : State) (b : Block) : (s.resetBlock b).tc2 = s.tc2 := rfl
@[simp] theorem State.resetBlock_tc2Next (s : State) (b : Block) : (s.resetBlock b).tc2Next = s.tc2Next := rfl
@[simp] theorem State.resetBlock_staged (s : State) (b : Block) : (s.resetBlock b).staged = s.staged := rfl
@[simp] theorem State.resetBlock_colls (s : State) (b : Block) : (s.resetBlock b).colls = s.colls := rfl
@[simp] theorem State.resetBlock_sec (s : State) (b : Block) : (s.resetBlock b).sec = s.sec := rfl
@[simp] theorem State.resetBlock_contrail (s : State) (b : Block) : (s.resetBlock b).contrail = s.contrail := rfl
@[simp] theorem State.resetBlock_tgen (s : State) (b : Block) : (s.resetBlock b).tgen = s.tgen := rfl
@[simp] theorem State.resetBlock_tap (s : State) (b : Block) : (s.resetBlock b).tap = s.tap := rfl
@[simp] theorem State.resetBlock_probe (s : State) (b : Block) : (s.resetBlock b).probe = s.probe := rfl

@[simp] theorem State.fire_pending (s : State) (v : Nat) : (s.fire v).pending = s.pending := by
  unfold State.fire; split <;> rfl
@[simp] theorem State.fire_phase (s : State) (v : Nat) : (s.fire v).phase = s.phase := by
  unfold State.fire; split <;> rfl
@[simp] theorem State.fire_start (s : State) (v : Nat) : (s.fire v).start = s.start := by
  unfold State.fire; split <;> rfl
@[simp] theorem State.fire_pins (s : State) (v : Nat) : (s.fire v).pins = s.pins := by
  unfold State.fire; split <;> rfl
@[simp] theorem State.fire_part1024 (s : State) (v : Nat) : (s.fire v).part1024 = s.part1024 := by
  unfold State.fire; split <;> rfl
@[simp] theorem State.fire_fresh (s : State) (v : Nat) : (s.fire v).fresh = s.fresh := by
  unfold State.fire; split <;> rfl
@[simp] theorem State.fire_csr (s : State) (v : Nat) : (s.fire v).csr = s.csr := by
  unfold State.fire; split <;> rfl
@[simp] theorem State.fire_mem (s : State) (v : Nat) : (s.fire v).mem = s.mem := by
  unfold State.fire; split <;> rfl
@[simp] theorem State.fire_cache (s : State) (v : Nat) : (s.fire v).cache = s.cache := by
  unfold State.fire; split <;> rfl
@[simp] theorem State.fire_pours (s : State) (v : Nat) : (s.fire v).pours = s.pours := by
  unfold State.fire; split <;> rfl
@[simp] theorem State.fire_nextPour (s : State) (v : Nat) : (s.fire v).nextPour = s.nextPour := by
  unfold State.fire; split <;> rfl
@[simp] theorem State.fire_ladles (s : State) (v : Nat) : (s.fire v).ladles = s.ladles := by
  unfold State.fire; split <;> rfl
@[simp] theorem State.fire_heats (s : State) (v : Nat) : (s.fire v).heats = s.heats := by
  unfold State.fire; split <;> rfl
@[simp] theorem State.fire_heldCq (s : State) (v : Nat) : (s.fire v).heldCq = s.heldCq := by
  unfold State.fire; split <;> rfl
@[simp] theorem State.fire_arrays (s : State) (v : Nat) : (s.fire v).arrays = s.arrays := by
  unfold State.fire; split <;> rfl
@[simp] theorem State.fire_mbox (s : State) (v : Nat) : (s.fire v).mbox = s.mbox := by
  unfold State.fire; split <;> rfl
@[simp] theorem State.fire_time (s : State) (v : Nat) : (s.fire v).time = s.time := by
  unfold State.fire; split <;> rfl
@[simp] theorem State.fire_entries (s : State) (v : Nat) : (s.fire v).entries = s.entries := by
  unfold State.fire; split <;> rfl
@[simp] theorem State.fire_power (s : State) (v : Nat) : (s.fire v).power = s.power := by
  unfold State.fire; split <;> rfl
@[simp] theorem State.fire_loanEnds (s : State) (v : Nat) : (s.fire v).loanEnds = s.loanEnds := by
  unfold State.fire; split <;> rfl
@[simp] theorem State.fire_scrubOpen (s : State) (v : Nat) : (s.fire v).scrubOpen = s.scrubOpen := by
  unfold State.fire; split <;> rfl
@[simp] theorem State.fire_sramPos (s : State) (v : Nat) : (s.fire v).sramPos = s.sramPos := by
  unfold State.fire; split <;> rfl
@[simp] theorem State.fire_enumPos (s : State) (v : Nat) : (s.fire v).enumPos = s.enumPos := by
  unfold State.fire; split <;> rfl
@[simp] theorem State.fire_enumCode (s : State) (v : Nat) : (s.fire v).enumCode = s.enumCode := by
  unfold State.fire; split <;> rfl
@[simp] theorem State.fire_ports (s : State) (v : Nat) : (s.fire v).ports = s.ports := by
  unfold State.fire; split <;> rfl
@[simp] theorem State.fire_tc2 (s : State) (v : Nat) : (s.fire v).tc2 = s.tc2 := by
  unfold State.fire; split <;> rfl
@[simp] theorem State.fire_tc2Next (s : State) (v : Nat) : (s.fire v).tc2Next = s.tc2Next := by
  unfold State.fire; split <;> rfl
@[simp] theorem State.fire_staged (s : State) (v : Nat) : (s.fire v).staged = s.staged := by
  unfold State.fire; split <;> rfl
@[simp] theorem State.fire_colls (s : State) (v : Nat) : (s.fire v).colls = s.colls := by
  unfold State.fire; split <;> rfl
@[simp] theorem State.fire_sec (s : State) (v : Nat) : (s.fire v).sec = s.sec := by
  unfold State.fire; split <;> rfl
@[simp] theorem State.fire_contrail (s : State) (v : Nat) : (s.fire v).contrail = s.contrail := by
  unfold State.fire; split <;> rfl
@[simp] theorem State.fire_tgen (s : State) (v : Nat) : (s.fire v).tgen = s.tgen := by
  unfold State.fire; split <;> rfl
@[simp] theorem State.fire_tap (s : State) (v : Nat) : (s.fire v).tap = s.tap := by
  unfold State.fire; split <;> rfl
@[simp] theorem State.fire_probe (s : State) (v : Nat) : (s.fire v).probe = s.probe := by
  unfold State.fire; split <;> rfl

@[simp] theorem State.onPort_pending (s : State) (n : Nat) (f : PortRt → PortRt) : (s.onPort n f).pending = s.pending := rfl
@[simp] theorem State.onPort_phase (s : State) (n : Nat) (f : PortRt → PortRt) : (s.onPort n f).phase = s.phase := rfl
@[simp] theorem State.onPort_start (s : State) (n : Nat) (f : PortRt → PortRt) : (s.onPort n f).start = s.start := rfl
@[simp] theorem State.onPort_pins (s : State) (n : Nat) (f : PortRt → PortRt) : (s.onPort n f).pins = s.pins := rfl
@[simp] theorem State.onPort_part1024 (s : State) (n : Nat) (f : PortRt → PortRt) : (s.onPort n f).part1024 = s.part1024 := rfl
@[simp] theorem State.onPort_fresh (s : State) (n : Nat) (f : PortRt → PortRt) : (s.onPort n f).fresh = s.fresh := rfl
@[simp] theorem State.onPort_csr (s : State) (n : Nat) (f : PortRt → PortRt) : (s.onPort n f).csr = s.csr := rfl
@[simp] theorem State.onPort_mem (s : State) (n : Nat) (f : PortRt → PortRt) : (s.onPort n f).mem = s.mem := rfl
@[simp] theorem State.onPort_cache (s : State) (n : Nat) (f : PortRt → PortRt) : (s.onPort n f).cache = s.cache := rfl
@[simp] theorem State.onPort_pours (s : State) (n : Nat) (f : PortRt → PortRt) : (s.onPort n f).pours = s.pours := rfl
@[simp] theorem State.onPort_nextPour (s : State) (n : Nat) (f : PortRt → PortRt) : (s.onPort n f).nextPour = s.nextPour := rfl
@[simp] theorem State.onPort_ladles (s : State) (n : Nat) (f : PortRt → PortRt) : (s.onPort n f).ladles = s.ladles := rfl
@[simp] theorem State.onPort_heats (s : State) (n : Nat) (f : PortRt → PortRt) : (s.onPort n f).heats = s.heats := rfl
@[simp] theorem State.onPort_heldCq (s : State) (n : Nat) (f : PortRt → PortRt) : (s.onPort n f).heldCq = s.heldCq := rfl
@[simp] theorem State.onPort_arrays (s : State) (n : Nat) (f : PortRt → PortRt) : (s.onPort n f).arrays = s.arrays := rfl
@[simp] theorem State.onPort_host (s : State) (n : Nat) (f : PortRt → PortRt) : (s.onPort n f).host = s.host := rfl
@[simp] theorem State.onPort_mbox (s : State) (n : Nat) (f : PortRt → PortRt) : (s.onPort n f).mbox = s.mbox := rfl
@[simp] theorem State.onPort_time (s : State) (n : Nat) (f : PortRt → PortRt) : (s.onPort n f).time = s.time := rfl
@[simp] theorem State.onPort_entries (s : State) (n : Nat) (f : PortRt → PortRt) : (s.onPort n f).entries = s.entries := rfl
@[simp] theorem State.onPort_power (s : State) (n : Nat) (f : PortRt → PortRt) : (s.onPort n f).power = s.power := rfl
@[simp] theorem State.onPort_loanEnds (s : State) (n : Nat) (f : PortRt → PortRt) : (s.onPort n f).loanEnds = s.loanEnds := rfl
@[simp] theorem State.onPort_scrubOpen (s : State) (n : Nat) (f : PortRt → PortRt) : (s.onPort n f).scrubOpen = s.scrubOpen := rfl
@[simp] theorem State.onPort_sramPos (s : State) (n : Nat) (f : PortRt → PortRt) : (s.onPort n f).sramPos = s.sramPos := rfl
@[simp] theorem State.onPort_enumPos (s : State) (n : Nat) (f : PortRt → PortRt) : (s.onPort n f).enumPos = s.enumPos := rfl
@[simp] theorem State.onPort_enumCode (s : State) (n : Nat) (f : PortRt → PortRt) : (s.onPort n f).enumCode = s.enumCode := rfl
@[simp] theorem State.onPort_tc2 (s : State) (n : Nat) (f : PortRt → PortRt) : (s.onPort n f).tc2 = s.tc2 := rfl
@[simp] theorem State.onPort_tc2Next (s : State) (n : Nat) (f : PortRt → PortRt) : (s.onPort n f).tc2Next = s.tc2Next := rfl
@[simp] theorem State.onPort_staged (s : State) (n : Nat) (f : PortRt → PortRt) : (s.onPort n f).staged = s.staged := rfl
@[simp] theorem State.onPort_colls (s : State) (n : Nat) (f : PortRt → PortRt) : (s.onPort n f).colls = s.colls := rfl
@[simp] theorem State.onPort_sec (s : State) (n : Nat) (f : PortRt → PortRt) : (s.onPort n f).sec = s.sec := rfl
@[simp] theorem State.onPort_contrail (s : State) (n : Nat) (f : PortRt → PortRt) : (s.onPort n f).contrail = s.contrail := rfl
@[simp] theorem State.onPort_tgen (s : State) (n : Nat) (f : PortRt → PortRt) : (s.onPort n f).tgen = s.tgen := rfl
@[simp] theorem State.onPort_tap (s : State) (n : Nat) (f : PortRt → PortRt) : (s.onPort n f).tap = s.tap := rfl
@[simp] theorem State.onPort_probe (s : State) (n : Nat) (f : PortRt → PortRt) : (s.onPort n f).probe = s.probe := rfl

@[simp] theorem State.onArray_pending (s : State) (a : Nat) (f : ArrayRt → ArrayRt) : (s.onArray a f).pending = s.pending := rfl
@[simp] theorem State.onArray_phase (s : State) (a : Nat) (f : ArrayRt → ArrayRt) : (s.onArray a f).phase = s.phase := rfl
@[simp] theorem State.onArray_start (s : State) (a : Nat) (f : ArrayRt → ArrayRt) : (s.onArray a f).start = s.start := rfl
@[simp] theorem State.onArray_pins (s : State) (a : Nat) (f : ArrayRt → ArrayRt) : (s.onArray a f).pins = s.pins := rfl
@[simp] theorem State.onArray_part1024 (s : State) (a : Nat) (f : ArrayRt → ArrayRt) : (s.onArray a f).part1024 = s.part1024 := rfl
@[simp] theorem State.onArray_fresh (s : State) (a : Nat) (f : ArrayRt → ArrayRt) : (s.onArray a f).fresh = s.fresh := rfl
@[simp] theorem State.onArray_csr (s : State) (a : Nat) (f : ArrayRt → ArrayRt) : (s.onArray a f).csr = s.csr := rfl
@[simp] theorem State.onArray_mem (s : State) (a : Nat) (f : ArrayRt → ArrayRt) : (s.onArray a f).mem = s.mem := rfl
@[simp] theorem State.onArray_cache (s : State) (a : Nat) (f : ArrayRt → ArrayRt) : (s.onArray a f).cache = s.cache := rfl
@[simp] theorem State.onArray_pours (s : State) (a : Nat) (f : ArrayRt → ArrayRt) : (s.onArray a f).pours = s.pours := rfl
@[simp] theorem State.onArray_nextPour (s : State) (a : Nat) (f : ArrayRt → ArrayRt) : (s.onArray a f).nextPour = s.nextPour := rfl
@[simp] theorem State.onArray_ladles (s : State) (a : Nat) (f : ArrayRt → ArrayRt) : (s.onArray a f).ladles = s.ladles := rfl
@[simp] theorem State.onArray_heats (s : State) (a : Nat) (f : ArrayRt → ArrayRt) : (s.onArray a f).heats = s.heats := rfl
@[simp] theorem State.onArray_heldCq (s : State) (a : Nat) (f : ArrayRt → ArrayRt) : (s.onArray a f).heldCq = s.heldCq := rfl
@[simp] theorem State.onArray_host (s : State) (a : Nat) (f : ArrayRt → ArrayRt) : (s.onArray a f).host = s.host := rfl
@[simp] theorem State.onArray_mbox (s : State) (a : Nat) (f : ArrayRt → ArrayRt) : (s.onArray a f).mbox = s.mbox := rfl
@[simp] theorem State.onArray_time (s : State) (a : Nat) (f : ArrayRt → ArrayRt) : (s.onArray a f).time = s.time := rfl
@[simp] theorem State.onArray_entries (s : State) (a : Nat) (f : ArrayRt → ArrayRt) : (s.onArray a f).entries = s.entries := rfl
@[simp] theorem State.onArray_power (s : State) (a : Nat) (f : ArrayRt → ArrayRt) : (s.onArray a f).power = s.power := rfl
@[simp] theorem State.onArray_loanEnds (s : State) (a : Nat) (f : ArrayRt → ArrayRt) : (s.onArray a f).loanEnds = s.loanEnds := rfl
@[simp] theorem State.onArray_scrubOpen (s : State) (a : Nat) (f : ArrayRt → ArrayRt) : (s.onArray a f).scrubOpen = s.scrubOpen := rfl
@[simp] theorem State.onArray_sramPos (s : State) (a : Nat) (f : ArrayRt → ArrayRt) : (s.onArray a f).sramPos = s.sramPos := rfl
@[simp] theorem State.onArray_enumPos (s : State) (a : Nat) (f : ArrayRt → ArrayRt) : (s.onArray a f).enumPos = s.enumPos := rfl
@[simp] theorem State.onArray_enumCode (s : State) (a : Nat) (f : ArrayRt → ArrayRt) : (s.onArray a f).enumCode = s.enumCode := rfl
@[simp] theorem State.onArray_ports (s : State) (a : Nat) (f : ArrayRt → ArrayRt) : (s.onArray a f).ports = s.ports := rfl
@[simp] theorem State.onArray_tc2 (s : State) (a : Nat) (f : ArrayRt → ArrayRt) : (s.onArray a f).tc2 = s.tc2 := rfl
@[simp] theorem State.onArray_tc2Next (s : State) (a : Nat) (f : ArrayRt → ArrayRt) : (s.onArray a f).tc2Next = s.tc2Next := rfl
@[simp] theorem State.onArray_staged (s : State) (a : Nat) (f : ArrayRt → ArrayRt) : (s.onArray a f).staged = s.staged := rfl
@[simp] theorem State.onArray_colls (s : State) (a : Nat) (f : ArrayRt → ArrayRt) : (s.onArray a f).colls = s.colls := rfl
@[simp] theorem State.onArray_sec (s : State) (a : Nat) (f : ArrayRt → ArrayRt) : (s.onArray a f).sec = s.sec := rfl
@[simp] theorem State.onArray_contrail (s : State) (a : Nat) (f : ArrayRt → ArrayRt) : (s.onArray a f).contrail = s.contrail := rfl
@[simp] theorem State.onArray_tgen (s : State) (a : Nat) (f : ArrayRt → ArrayRt) : (s.onArray a f).tgen = s.tgen := rfl
@[simp] theorem State.onArray_tap (s : State) (a : Nat) (f : ArrayRt → ArrayRt) : (s.onArray a f).tap = s.tap := rfl
@[simp] theorem State.onArray_probe (s : State) (a : Nat) (f : ArrayRt → ArrayRt) : (s.onArray a f).probe = s.probe := rfl

@[simp] theorem State.onLadle_pending (s : State) (n : Nat) (f : LadleRt → LadleRt) : (s.onLadle n f).pending = s.pending := rfl
@[simp] theorem State.onLadle_phase (s : State) (n : Nat) (f : LadleRt → LadleRt) : (s.onLadle n f).phase = s.phase := rfl
@[simp] theorem State.onLadle_start (s : State) (n : Nat) (f : LadleRt → LadleRt) : (s.onLadle n f).start = s.start := rfl
@[simp] theorem State.onLadle_pins (s : State) (n : Nat) (f : LadleRt → LadleRt) : (s.onLadle n f).pins = s.pins := rfl
@[simp] theorem State.onLadle_part1024 (s : State) (n : Nat) (f : LadleRt → LadleRt) : (s.onLadle n f).part1024 = s.part1024 := rfl
@[simp] theorem State.onLadle_fresh (s : State) (n : Nat) (f : LadleRt → LadleRt) : (s.onLadle n f).fresh = s.fresh := rfl
@[simp] theorem State.onLadle_csr (s : State) (n : Nat) (f : LadleRt → LadleRt) : (s.onLadle n f).csr = s.csr := rfl
@[simp] theorem State.onLadle_mem (s : State) (n : Nat) (f : LadleRt → LadleRt) : (s.onLadle n f).mem = s.mem := rfl
@[simp] theorem State.onLadle_cache (s : State) (n : Nat) (f : LadleRt → LadleRt) : (s.onLadle n f).cache = s.cache := rfl
@[simp] theorem State.onLadle_pours (s : State) (n : Nat) (f : LadleRt → LadleRt) : (s.onLadle n f).pours = s.pours := rfl
@[simp] theorem State.onLadle_nextPour (s : State) (n : Nat) (f : LadleRt → LadleRt) : (s.onLadle n f).nextPour = s.nextPour := rfl
@[simp] theorem State.onLadle_heats (s : State) (n : Nat) (f : LadleRt → LadleRt) : (s.onLadle n f).heats = s.heats := rfl
@[simp] theorem State.onLadle_heldCq (s : State) (n : Nat) (f : LadleRt → LadleRt) : (s.onLadle n f).heldCq = s.heldCq := rfl
@[simp] theorem State.onLadle_arrays (s : State) (n : Nat) (f : LadleRt → LadleRt) : (s.onLadle n f).arrays = s.arrays := rfl
@[simp] theorem State.onLadle_host (s : State) (n : Nat) (f : LadleRt → LadleRt) : (s.onLadle n f).host = s.host := rfl
@[simp] theorem State.onLadle_mbox (s : State) (n : Nat) (f : LadleRt → LadleRt) : (s.onLadle n f).mbox = s.mbox := rfl
@[simp] theorem State.onLadle_time (s : State) (n : Nat) (f : LadleRt → LadleRt) : (s.onLadle n f).time = s.time := rfl
@[simp] theorem State.onLadle_entries (s : State) (n : Nat) (f : LadleRt → LadleRt) : (s.onLadle n f).entries = s.entries := rfl
@[simp] theorem State.onLadle_power (s : State) (n : Nat) (f : LadleRt → LadleRt) : (s.onLadle n f).power = s.power := rfl
@[simp] theorem State.onLadle_loanEnds (s : State) (n : Nat) (f : LadleRt → LadleRt) : (s.onLadle n f).loanEnds = s.loanEnds := rfl
@[simp] theorem State.onLadle_scrubOpen (s : State) (n : Nat) (f : LadleRt → LadleRt) : (s.onLadle n f).scrubOpen = s.scrubOpen := rfl
@[simp] theorem State.onLadle_sramPos (s : State) (n : Nat) (f : LadleRt → LadleRt) : (s.onLadle n f).sramPos = s.sramPos := rfl
@[simp] theorem State.onLadle_enumPos (s : State) (n : Nat) (f : LadleRt → LadleRt) : (s.onLadle n f).enumPos = s.enumPos := rfl
@[simp] theorem State.onLadle_enumCode (s : State) (n : Nat) (f : LadleRt → LadleRt) : (s.onLadle n f).enumCode = s.enumCode := rfl
@[simp] theorem State.onLadle_ports (s : State) (n : Nat) (f : LadleRt → LadleRt) : (s.onLadle n f).ports = s.ports := rfl
@[simp] theorem State.onLadle_tc2 (s : State) (n : Nat) (f : LadleRt → LadleRt) : (s.onLadle n f).tc2 = s.tc2 := rfl
@[simp] theorem State.onLadle_tc2Next (s : State) (n : Nat) (f : LadleRt → LadleRt) : (s.onLadle n f).tc2Next = s.tc2Next := rfl
@[simp] theorem State.onLadle_staged (s : State) (n : Nat) (f : LadleRt → LadleRt) : (s.onLadle n f).staged = s.staged := rfl
@[simp] theorem State.onLadle_colls (s : State) (n : Nat) (f : LadleRt → LadleRt) : (s.onLadle n f).colls = s.colls := rfl
@[simp] theorem State.onLadle_sec (s : State) (n : Nat) (f : LadleRt → LadleRt) : (s.onLadle n f).sec = s.sec := rfl
@[simp] theorem State.onLadle_contrail (s : State) (n : Nat) (f : LadleRt → LadleRt) : (s.onLadle n f).contrail = s.contrail := rfl
@[simp] theorem State.onLadle_tgen (s : State) (n : Nat) (f : LadleRt → LadleRt) : (s.onLadle n f).tgen = s.tgen := rfl
@[simp] theorem State.onLadle_tap (s : State) (n : Nat) (f : LadleRt → LadleRt) : (s.onLadle n f).tap = s.tap := rfl
@[simp] theorem State.onLadle_probe (s : State) (n : Nat) (f : LadleRt → LadleRt) : (s.onLadle n f).probe = s.probe := rfl

@[simp] theorem State.onEntry_pending (s : State) (e : Nat) (f : EntryRt → EntryRt) : (s.onEntry e f).pending = s.pending := rfl
@[simp] theorem State.onEntry_phase (s : State) (e : Nat) (f : EntryRt → EntryRt) : (s.onEntry e f).phase = s.phase := rfl
@[simp] theorem State.onEntry_start (s : State) (e : Nat) (f : EntryRt → EntryRt) : (s.onEntry e f).start = s.start := rfl
@[simp] theorem State.onEntry_pins (s : State) (e : Nat) (f : EntryRt → EntryRt) : (s.onEntry e f).pins = s.pins := rfl
@[simp] theorem State.onEntry_part1024 (s : State) (e : Nat) (f : EntryRt → EntryRt) : (s.onEntry e f).part1024 = s.part1024 := rfl
@[simp] theorem State.onEntry_fresh (s : State) (e : Nat) (f : EntryRt → EntryRt) : (s.onEntry e f).fresh = s.fresh := rfl
@[simp] theorem State.onEntry_csr (s : State) (e : Nat) (f : EntryRt → EntryRt) : (s.onEntry e f).csr = s.csr := rfl
@[simp] theorem State.onEntry_mem (s : State) (e : Nat) (f : EntryRt → EntryRt) : (s.onEntry e f).mem = s.mem := rfl
@[simp] theorem State.onEntry_cache (s : State) (e : Nat) (f : EntryRt → EntryRt) : (s.onEntry e f).cache = s.cache := rfl
@[simp] theorem State.onEntry_pours (s : State) (e : Nat) (f : EntryRt → EntryRt) : (s.onEntry e f).pours = s.pours := rfl
@[simp] theorem State.onEntry_nextPour (s : State) (e : Nat) (f : EntryRt → EntryRt) : (s.onEntry e f).nextPour = s.nextPour := rfl
@[simp] theorem State.onEntry_ladles (s : State) (e : Nat) (f : EntryRt → EntryRt) : (s.onEntry e f).ladles = s.ladles := rfl
@[simp] theorem State.onEntry_heats (s : State) (e : Nat) (f : EntryRt → EntryRt) : (s.onEntry e f).heats = s.heats := rfl
@[simp] theorem State.onEntry_heldCq (s : State) (e : Nat) (f : EntryRt → EntryRt) : (s.onEntry e f).heldCq = s.heldCq := rfl
@[simp] theorem State.onEntry_arrays (s : State) (e : Nat) (f : EntryRt → EntryRt) : (s.onEntry e f).arrays = s.arrays := rfl
@[simp] theorem State.onEntry_host (s : State) (e : Nat) (f : EntryRt → EntryRt) : (s.onEntry e f).host = s.host := rfl
@[simp] theorem State.onEntry_mbox (s : State) (e : Nat) (f : EntryRt → EntryRt) : (s.onEntry e f).mbox = s.mbox := rfl
@[simp] theorem State.onEntry_time (s : State) (e : Nat) (f : EntryRt → EntryRt) : (s.onEntry e f).time = s.time := rfl
@[simp] theorem State.onEntry_power (s : State) (e : Nat) (f : EntryRt → EntryRt) : (s.onEntry e f).power = s.power := rfl
@[simp] theorem State.onEntry_loanEnds (s : State) (e : Nat) (f : EntryRt → EntryRt) : (s.onEntry e f).loanEnds = s.loanEnds := rfl
@[simp] theorem State.onEntry_scrubOpen (s : State) (e : Nat) (f : EntryRt → EntryRt) : (s.onEntry e f).scrubOpen = s.scrubOpen := rfl
@[simp] theorem State.onEntry_sramPos (s : State) (e : Nat) (f : EntryRt → EntryRt) : (s.onEntry e f).sramPos = s.sramPos := rfl
@[simp] theorem State.onEntry_enumPos (s : State) (e : Nat) (f : EntryRt → EntryRt) : (s.onEntry e f).enumPos = s.enumPos := rfl
@[simp] theorem State.onEntry_enumCode (s : State) (e : Nat) (f : EntryRt → EntryRt) : (s.onEntry e f).enumCode = s.enumCode := rfl
@[simp] theorem State.onEntry_ports (s : State) (e : Nat) (f : EntryRt → EntryRt) : (s.onEntry e f).ports = s.ports := rfl
@[simp] theorem State.onEntry_tc2 (s : State) (e : Nat) (f : EntryRt → EntryRt) : (s.onEntry e f).tc2 = s.tc2 := rfl
@[simp] theorem State.onEntry_tc2Next (s : State) (e : Nat) (f : EntryRt → EntryRt) : (s.onEntry e f).tc2Next = s.tc2Next := rfl
@[simp] theorem State.onEntry_staged (s : State) (e : Nat) (f : EntryRt → EntryRt) : (s.onEntry e f).staged = s.staged := rfl
@[simp] theorem State.onEntry_colls (s : State) (e : Nat) (f : EntryRt → EntryRt) : (s.onEntry e f).colls = s.colls := rfl
@[simp] theorem State.onEntry_sec (s : State) (e : Nat) (f : EntryRt → EntryRt) : (s.onEntry e f).sec = s.sec := rfl
@[simp] theorem State.onEntry_contrail (s : State) (e : Nat) (f : EntryRt → EntryRt) : (s.onEntry e f).contrail = s.contrail := rfl
@[simp] theorem State.onEntry_tgen (s : State) (e : Nat) (f : EntryRt → EntryRt) : (s.onEntry e f).tgen = s.tgen := rfl
@[simp] theorem State.onEntry_tap (s : State) (e : Nat) (f : EntryRt → EntryRt) : (s.onEntry e f).tap = s.tap := rfl
@[simp] theorem State.onEntry_probe (s : State) (e : Nat) (f : EntryRt → EntryRt) : (s.onEntry e f).probe = s.probe := rfl

@[simp] theorem State.onPour_pending (s : State) (id : Nat) (f : Pour → Pour) : (s.onPour id f).pending = s.pending := rfl
@[simp] theorem State.onPour_phase (s : State) (id : Nat) (f : Pour → Pour) : (s.onPour id f).phase = s.phase := rfl
@[simp] theorem State.onPour_start (s : State) (id : Nat) (f : Pour → Pour) : (s.onPour id f).start = s.start := rfl
@[simp] theorem State.onPour_pins (s : State) (id : Nat) (f : Pour → Pour) : (s.onPour id f).pins = s.pins := rfl
@[simp] theorem State.onPour_part1024 (s : State) (id : Nat) (f : Pour → Pour) : (s.onPour id f).part1024 = s.part1024 := rfl
@[simp] theorem State.onPour_fresh (s : State) (id : Nat) (f : Pour → Pour) : (s.onPour id f).fresh = s.fresh := rfl
@[simp] theorem State.onPour_csr (s : State) (id : Nat) (f : Pour → Pour) : (s.onPour id f).csr = s.csr := rfl
@[simp] theorem State.onPour_mem (s : State) (id : Nat) (f : Pour → Pour) : (s.onPour id f).mem = s.mem := rfl
@[simp] theorem State.onPour_cache (s : State) (id : Nat) (f : Pour → Pour) : (s.onPour id f).cache = s.cache := rfl
@[simp] theorem State.onPour_nextPour (s : State) (id : Nat) (f : Pour → Pour) : (s.onPour id f).nextPour = s.nextPour := rfl
@[simp] theorem State.onPour_ladles (s : State) (id : Nat) (f : Pour → Pour) : (s.onPour id f).ladles = s.ladles := rfl
@[simp] theorem State.onPour_heats (s : State) (id : Nat) (f : Pour → Pour) : (s.onPour id f).heats = s.heats := rfl
@[simp] theorem State.onPour_heldCq (s : State) (id : Nat) (f : Pour → Pour) : (s.onPour id f).heldCq = s.heldCq := rfl
@[simp] theorem State.onPour_arrays (s : State) (id : Nat) (f : Pour → Pour) : (s.onPour id f).arrays = s.arrays := rfl
@[simp] theorem State.onPour_host (s : State) (id : Nat) (f : Pour → Pour) : (s.onPour id f).host = s.host := rfl
@[simp] theorem State.onPour_mbox (s : State) (id : Nat) (f : Pour → Pour) : (s.onPour id f).mbox = s.mbox := rfl
@[simp] theorem State.onPour_time (s : State) (id : Nat) (f : Pour → Pour) : (s.onPour id f).time = s.time := rfl
@[simp] theorem State.onPour_entries (s : State) (id : Nat) (f : Pour → Pour) : (s.onPour id f).entries = s.entries := rfl
@[simp] theorem State.onPour_power (s : State) (id : Nat) (f : Pour → Pour) : (s.onPour id f).power = s.power := rfl
@[simp] theorem State.onPour_loanEnds (s : State) (id : Nat) (f : Pour → Pour) : (s.onPour id f).loanEnds = s.loanEnds := rfl
@[simp] theorem State.onPour_scrubOpen (s : State) (id : Nat) (f : Pour → Pour) : (s.onPour id f).scrubOpen = s.scrubOpen := rfl
@[simp] theorem State.onPour_sramPos (s : State) (id : Nat) (f : Pour → Pour) : (s.onPour id f).sramPos = s.sramPos := rfl
@[simp] theorem State.onPour_enumPos (s : State) (id : Nat) (f : Pour → Pour) : (s.onPour id f).enumPos = s.enumPos := rfl
@[simp] theorem State.onPour_enumCode (s : State) (id : Nat) (f : Pour → Pour) : (s.onPour id f).enumCode = s.enumCode := rfl
@[simp] theorem State.onPour_ports (s : State) (id : Nat) (f : Pour → Pour) : (s.onPour id f).ports = s.ports := rfl
@[simp] theorem State.onPour_tc2 (s : State) (id : Nat) (f : Pour → Pour) : (s.onPour id f).tc2 = s.tc2 := rfl
@[simp] theorem State.onPour_tc2Next (s : State) (id : Nat) (f : Pour → Pour) : (s.onPour id f).tc2Next = s.tc2Next := rfl
@[simp] theorem State.onPour_staged (s : State) (id : Nat) (f : Pour → Pour) : (s.onPour id f).staged = s.staged := rfl
@[simp] theorem State.onPour_colls (s : State) (id : Nat) (f : Pour → Pour) : (s.onPour id f).colls = s.colls := rfl
@[simp] theorem State.onPour_sec (s : State) (id : Nat) (f : Pour → Pour) : (s.onPour id f).sec = s.sec := rfl
@[simp] theorem State.onPour_contrail (s : State) (id : Nat) (f : Pour → Pour) : (s.onPour id f).contrail = s.contrail := rfl
@[simp] theorem State.onPour_tgen (s : State) (id : Nat) (f : Pour → Pour) : (s.onPour id f).tgen = s.tgen := rfl
@[simp] theorem State.onPour_tap (s : State) (id : Nat) (f : Pour → Pour) : (s.onPour id f).tap = s.tap := rfl
@[simp] theorem State.onPour_probe (s : State) (id : Nat) (f : Pour → Pour) : (s.onPour id f).probe = s.probe := rfl

@[simp] theorem State.dropPour_pending (s : State) (id : Nat) : (s.dropPour id).pending = s.pending := rfl
@[simp] theorem State.dropPour_phase (s : State) (id : Nat) : (s.dropPour id).phase = s.phase := rfl
@[simp] theorem State.dropPour_start (s : State) (id : Nat) : (s.dropPour id).start = s.start := rfl
@[simp] theorem State.dropPour_pins (s : State) (id : Nat) : (s.dropPour id).pins = s.pins := rfl
@[simp] theorem State.dropPour_part1024 (s : State) (id : Nat) : (s.dropPour id).part1024 = s.part1024 := rfl
@[simp] theorem State.dropPour_fresh (s : State) (id : Nat) : (s.dropPour id).fresh = s.fresh := rfl
@[simp] theorem State.dropPour_csr (s : State) (id : Nat) : (s.dropPour id).csr = s.csr := rfl
@[simp] theorem State.dropPour_mem (s : State) (id : Nat) : (s.dropPour id).mem = s.mem := rfl
@[simp] theorem State.dropPour_cache (s : State) (id : Nat) : (s.dropPour id).cache = s.cache := rfl
@[simp] theorem State.dropPour_nextPour (s : State) (id : Nat) : (s.dropPour id).nextPour = s.nextPour := rfl
@[simp] theorem State.dropPour_ladles (s : State) (id : Nat) : (s.dropPour id).ladles = s.ladles := rfl
@[simp] theorem State.dropPour_heats (s : State) (id : Nat) : (s.dropPour id).heats = s.heats := rfl
@[simp] theorem State.dropPour_heldCq (s : State) (id : Nat) : (s.dropPour id).heldCq = s.heldCq := rfl
@[simp] theorem State.dropPour_arrays (s : State) (id : Nat) : (s.dropPour id).arrays = s.arrays := rfl
@[simp] theorem State.dropPour_host (s : State) (id : Nat) : (s.dropPour id).host = s.host := rfl
@[simp] theorem State.dropPour_mbox (s : State) (id : Nat) : (s.dropPour id).mbox = s.mbox := rfl
@[simp] theorem State.dropPour_time (s : State) (id : Nat) : (s.dropPour id).time = s.time := rfl
@[simp] theorem State.dropPour_entries (s : State) (id : Nat) : (s.dropPour id).entries = s.entries := rfl
@[simp] theorem State.dropPour_power (s : State) (id : Nat) : (s.dropPour id).power = s.power := rfl
@[simp] theorem State.dropPour_loanEnds (s : State) (id : Nat) : (s.dropPour id).loanEnds = s.loanEnds := rfl
@[simp] theorem State.dropPour_scrubOpen (s : State) (id : Nat) : (s.dropPour id).scrubOpen = s.scrubOpen := rfl
@[simp] theorem State.dropPour_sramPos (s : State) (id : Nat) : (s.dropPour id).sramPos = s.sramPos := rfl
@[simp] theorem State.dropPour_enumPos (s : State) (id : Nat) : (s.dropPour id).enumPos = s.enumPos := rfl
@[simp] theorem State.dropPour_enumCode (s : State) (id : Nat) : (s.dropPour id).enumCode = s.enumCode := rfl
@[simp] theorem State.dropPour_ports (s : State) (id : Nat) : (s.dropPour id).ports = s.ports := rfl
@[simp] theorem State.dropPour_tc2 (s : State) (id : Nat) : (s.dropPour id).tc2 = s.tc2 := rfl
@[simp] theorem State.dropPour_tc2Next (s : State) (id : Nat) : (s.dropPour id).tc2Next = s.tc2Next := rfl
@[simp] theorem State.dropPour_colls (s : State) (id : Nat) : (s.dropPour id).colls = s.colls := rfl
@[simp] theorem State.dropPour_sec (s : State) (id : Nat) : (s.dropPour id).sec = s.sec := rfl
@[simp] theorem State.dropPour_contrail (s : State) (id : Nat) : (s.dropPour id).contrail = s.contrail := rfl
@[simp] theorem State.dropPour_tgen (s : State) (id : Nat) : (s.dropPour id).tgen = s.tgen := rfl
@[simp] theorem State.dropPour_tap (s : State) (id : Nat) : (s.dropPour id).tap = s.tap := rfl
@[simp] theorem State.dropPour_probe (s : State) (id : Nat) : (s.dropPour id).probe = s.probe := rfl

@[simp] theorem State.contrailAdd_pending (s : State) (kind flask code : Nat) (arg : List Byte) : (s.contrailAdd kind flask code arg).pending = s.pending := by
  unfold State.contrailAdd; split
  · rfl
  · simp
@[simp] theorem State.contrailAdd_phase (s : State) (kind flask code : Nat) (arg : List Byte) : (s.contrailAdd kind flask code arg).phase = s.phase := by
  unfold State.contrailAdd; split
  · rfl
  · simp
@[simp] theorem State.contrailAdd_start (s : State) (kind flask code : Nat) (arg : List Byte) : (s.contrailAdd kind flask code arg).start = s.start := by
  unfold State.contrailAdd; split
  · rfl
  · simp
@[simp] theorem State.contrailAdd_pins (s : State) (kind flask code : Nat) (arg : List Byte) : (s.contrailAdd kind flask code arg).pins = s.pins := by
  unfold State.contrailAdd; split
  · rfl
  · simp
@[simp] theorem State.contrailAdd_part1024 (s : State) (kind flask code : Nat) (arg : List Byte) : (s.contrailAdd kind flask code arg).part1024 = s.part1024 := by
  unfold State.contrailAdd; split
  · rfl
  · simp
@[simp] theorem State.contrailAdd_fresh (s : State) (kind flask code : Nat) (arg : List Byte) : (s.contrailAdd kind flask code arg).fresh = s.fresh := by
  unfold State.contrailAdd; split
  · rfl
  · simp
@[simp] theorem State.contrailAdd_mem (s : State) (kind flask code : Nat) (arg : List Byte) : (s.contrailAdd kind flask code arg).mem = s.mem := by
  unfold State.contrailAdd; split
  · rfl
  · simp
@[simp] theorem State.contrailAdd_cache (s : State) (kind flask code : Nat) (arg : List Byte) : (s.contrailAdd kind flask code arg).cache = s.cache := by
  unfold State.contrailAdd; split
  · rfl
  · simp
@[simp] theorem State.contrailAdd_pours (s : State) (kind flask code : Nat) (arg : List Byte) : (s.contrailAdd kind flask code arg).pours = s.pours := by
  unfold State.contrailAdd; split
  · rfl
  · simp
@[simp] theorem State.contrailAdd_nextPour (s : State) (kind flask code : Nat) (arg : List Byte) : (s.contrailAdd kind flask code arg).nextPour = s.nextPour := by
  unfold State.contrailAdd; split
  · rfl
  · simp
@[simp] theorem State.contrailAdd_ladles (s : State) (kind flask code : Nat) (arg : List Byte) : (s.contrailAdd kind flask code arg).ladles = s.ladles := by
  unfold State.contrailAdd; split
  · rfl
  · simp
@[simp] theorem State.contrailAdd_heats (s : State) (kind flask code : Nat) (arg : List Byte) : (s.contrailAdd kind flask code arg).heats = s.heats := by
  unfold State.contrailAdd; split
  · rfl
  · simp
@[simp] theorem State.contrailAdd_heldCq (s : State) (kind flask code : Nat) (arg : List Byte) : (s.contrailAdd kind flask code arg).heldCq = s.heldCq := by
  unfold State.contrailAdd; split
  · rfl
  · simp
@[simp] theorem State.contrailAdd_arrays (s : State) (kind flask code : Nat) (arg : List Byte) : (s.contrailAdd kind flask code arg).arrays = s.arrays := by
  unfold State.contrailAdd; split
  · rfl
  · simp
@[simp] theorem State.contrailAdd_host (s : State) (kind flask code : Nat) (arg : List Byte) : (s.contrailAdd kind flask code arg).host = s.host := by
  unfold State.contrailAdd; split
  · rfl
  · simp
@[simp] theorem State.contrailAdd_mbox (s : State) (kind flask code : Nat) (arg : List Byte) : (s.contrailAdd kind flask code arg).mbox = s.mbox := by
  unfold State.contrailAdd; split
  · rfl
  · simp
@[simp] theorem State.contrailAdd_time (s : State) (kind flask code : Nat) (arg : List Byte) : (s.contrailAdd kind flask code arg).time = s.time := by
  unfold State.contrailAdd; split
  · rfl
  · simp
@[simp] theorem State.contrailAdd_entries (s : State) (kind flask code : Nat) (arg : List Byte) : (s.contrailAdd kind flask code arg).entries = s.entries := by
  unfold State.contrailAdd; split
  · rfl
  · simp
@[simp] theorem State.contrailAdd_loanEnds (s : State) (kind flask code : Nat) (arg : List Byte) : (s.contrailAdd kind flask code arg).loanEnds = s.loanEnds := by
  unfold State.contrailAdd; split
  · rfl
  · simp
@[simp] theorem State.contrailAdd_scrubOpen (s : State) (kind flask code : Nat) (arg : List Byte) : (s.contrailAdd kind flask code arg).scrubOpen = s.scrubOpen := by
  unfold State.contrailAdd; split
  · rfl
  · simp
@[simp] theorem State.contrailAdd_sramPos (s : State) (kind flask code : Nat) (arg : List Byte) : (s.contrailAdd kind flask code arg).sramPos = s.sramPos := by
  unfold State.contrailAdd; split
  · rfl
  · simp
@[simp] theorem State.contrailAdd_enumPos (s : State) (kind flask code : Nat) (arg : List Byte) : (s.contrailAdd kind flask code arg).enumPos = s.enumPos := by
  unfold State.contrailAdd; split
  · rfl
  · simp
@[simp] theorem State.contrailAdd_enumCode (s : State) (kind flask code : Nat) (arg : List Byte) : (s.contrailAdd kind flask code arg).enumCode = s.enumCode := by
  unfold State.contrailAdd; split
  · rfl
  · simp
@[simp] theorem State.contrailAdd_ports (s : State) (kind flask code : Nat) (arg : List Byte) : (s.contrailAdd kind flask code arg).ports = s.ports := by
  unfold State.contrailAdd; split
  · rfl
  · simp
@[simp] theorem State.contrailAdd_tc2 (s : State) (kind flask code : Nat) (arg : List Byte) : (s.contrailAdd kind flask code arg).tc2 = s.tc2 := by
  unfold State.contrailAdd; split
  · rfl
  · simp
@[simp] theorem State.contrailAdd_tc2Next (s : State) (kind flask code : Nat) (arg : List Byte) : (s.contrailAdd kind flask code arg).tc2Next = s.tc2Next := by
  unfold State.contrailAdd; split
  · rfl
  · simp
@[simp] theorem State.contrailAdd_staged (s : State) (kind flask code : Nat) (arg : List Byte) : (s.contrailAdd kind flask code arg).staged = s.staged := by
  unfold State.contrailAdd; split
  · rfl
  · simp
@[simp] theorem State.contrailAdd_colls (s : State) (kind flask code : Nat) (arg : List Byte) : (s.contrailAdd kind flask code arg).colls = s.colls := by
  unfold State.contrailAdd; split
  · rfl
  · simp
@[simp] theorem State.contrailAdd_sec (s : State) (kind flask code : Nat) (arg : List Byte) : (s.contrailAdd kind flask code arg).sec = s.sec := by
  unfold State.contrailAdd; split
  · rfl
  · simp
@[simp] theorem State.contrailAdd_tgen (s : State) (kind flask code : Nat) (arg : List Byte) : (s.contrailAdd kind flask code arg).tgen = s.tgen := by
  unfold State.contrailAdd; split
  · rfl
  · simp
@[simp] theorem State.contrailAdd_tap (s : State) (kind flask code : Nat) (arg : List Byte) : (s.contrailAdd kind flask code arg).tap = s.tap := by
  unfold State.contrailAdd; split
  · rfl
  · simp
@[simp] theorem State.contrailAdd_probe (s : State) (kind flask code : Nat) (arg : List Byte) : (s.contrailAdd kind flask code arg).probe = s.probe := by
  unfold State.contrailAdd; split
  · rfl
  · simp

@[simp] theorem State.partEvent_pending (s : State) : s.partEvent.pending = s.pending := by
  unfold State.partEvent; simp only; split <;> simp
@[simp] theorem State.partEvent_phase (s : State) : s.partEvent.phase = s.phase := by
  unfold State.partEvent; simp only; split <;> simp
@[simp] theorem State.partEvent_start (s : State) : s.partEvent.start = s.start := by
  unfold State.partEvent; simp only; split <;> simp
@[simp] theorem State.partEvent_pins (s : State) : s.partEvent.pins = s.pins := by
  unfold State.partEvent; simp only; split <;> simp
@[simp] theorem State.partEvent_part1024 (s : State) : s.partEvent.part1024 = s.part1024 := by
  unfold State.partEvent; simp only; split <;> simp
@[simp] theorem State.partEvent_fresh (s : State) : s.partEvent.fresh = s.fresh := by
  unfold State.partEvent; simp only; split <;> simp
@[simp] theorem State.partEvent_csr (s : State) : s.partEvent.csr = s.csr := by
  unfold State.partEvent; simp only; split <;> simp
@[simp] theorem State.partEvent_mem (s : State) : s.partEvent.mem = s.mem := by
  unfold State.partEvent; simp only; split <;> simp
@[simp] theorem State.partEvent_cache (s : State) : s.partEvent.cache = s.cache := by
  unfold State.partEvent; simp only; split <;> simp
@[simp] theorem State.partEvent_pours (s : State) : s.partEvent.pours = s.pours := by
  unfold State.partEvent; simp only; split <;> simp
@[simp] theorem State.partEvent_nextPour (s : State) : s.partEvent.nextPour = s.nextPour := by
  unfold State.partEvent; simp only; split <;> simp
@[simp] theorem State.partEvent_ladles (s : State) : s.partEvent.ladles = s.ladles := by
  unfold State.partEvent; simp only; split <;> simp
@[simp] theorem State.partEvent_heats (s : State) : s.partEvent.heats = s.heats := by
  unfold State.partEvent; simp only; split <;> simp
@[simp] theorem State.partEvent_heldCq (s : State) : s.partEvent.heldCq = s.heldCq := by
  unfold State.partEvent; simp only; split <;> simp
@[simp] theorem State.partEvent_arrays (s : State) : s.partEvent.arrays = s.arrays := by
  unfold State.partEvent; simp only; split <;> simp
@[simp] theorem State.partEvent_mbox (s : State) : s.partEvent.mbox = s.mbox := by
  unfold State.partEvent; simp only; split <;> simp
@[simp] theorem State.partEvent_time (s : State) : s.partEvent.time = s.time := by
  unfold State.partEvent; simp only; split <;> simp
@[simp] theorem State.partEvent_entries (s : State) : s.partEvent.entries = s.entries := by
  unfold State.partEvent; simp only; split <;> simp
@[simp] theorem State.partEvent_power (s : State) : s.partEvent.power = s.power := by
  unfold State.partEvent; simp only; split <;> simp
@[simp] theorem State.partEvent_loanEnds (s : State) : s.partEvent.loanEnds = s.loanEnds := by
  unfold State.partEvent; simp only; split <;> simp
@[simp] theorem State.partEvent_scrubOpen (s : State) : s.partEvent.scrubOpen = s.scrubOpen := by
  unfold State.partEvent; simp only; split <;> simp
@[simp] theorem State.partEvent_sramPos (s : State) : s.partEvent.sramPos = s.sramPos := by
  unfold State.partEvent; simp only; split <;> simp
@[simp] theorem State.partEvent_enumPos (s : State) : s.partEvent.enumPos = s.enumPos := by
  unfold State.partEvent; simp only; split <;> simp
@[simp] theorem State.partEvent_enumCode (s : State) : s.partEvent.enumCode = s.enumCode := by
  unfold State.partEvent; simp only; split <;> simp
@[simp] theorem State.partEvent_ports (s : State) : s.partEvent.ports = s.ports := by
  unfold State.partEvent; simp only; split <;> simp
@[simp] theorem State.partEvent_tc2 (s : State) : s.partEvent.tc2 = s.tc2 := by
  unfold State.partEvent; simp only; split <;> simp
@[simp] theorem State.partEvent_tc2Next (s : State) : s.partEvent.tc2Next = s.tc2Next := by
  unfold State.partEvent; simp only; split <;> simp
@[simp] theorem State.partEvent_staged (s : State) : s.partEvent.staged = s.staged := by
  unfold State.partEvent; simp only; split <;> simp
@[simp] theorem State.partEvent_colls (s : State) : s.partEvent.colls = s.colls := by
  unfold State.partEvent; simp only; split <;> simp
@[simp] theorem State.partEvent_sec (s : State) : s.partEvent.sec = s.sec := by
  unfold State.partEvent; simp only; split <;> simp
@[simp] theorem State.partEvent_contrail (s : State) : s.partEvent.contrail = s.contrail := by
  unfold State.partEvent; simp only; split <;> simp
@[simp] theorem State.partEvent_tgen (s : State) : s.partEvent.tgen = s.tgen := by
  unfold State.partEvent; simp only; split <;> simp
@[simp] theorem State.partEvent_tap (s : State) : s.partEvent.tap = s.tap := by
  unfold State.partEvent; simp only; split <;> simp
@[simp] theorem State.partEvent_probe (s : State) : s.partEvent.probe = s.probe := by
  unfold State.partEvent; simp only; split <;> simp

@[simp] theorem State.sendHeld_pending (s : State) : s.sendHeld.pending = s.pending := rfl
@[simp] theorem State.sendHeld_phase (s : State) : s.sendHeld.phase = s.phase := rfl
@[simp] theorem State.sendHeld_start (s : State) : s.sendHeld.start = s.start := rfl
@[simp] theorem State.sendHeld_pins (s : State) : s.sendHeld.pins = s.pins := rfl
@[simp] theorem State.sendHeld_part1024 (s : State) : s.sendHeld.part1024 = s.part1024 := rfl
@[simp] theorem State.sendHeld_fresh (s : State) : s.sendHeld.fresh = s.fresh := rfl
@[simp] theorem State.sendHeld_csr (s : State) : s.sendHeld.csr = s.csr := rfl
@[simp] theorem State.sendHeld_mem (s : State) : s.sendHeld.mem = s.mem := rfl
@[simp] theorem State.sendHeld_cache (s : State) : s.sendHeld.cache = s.cache := rfl
@[simp] theorem State.sendHeld_pours (s : State) : s.sendHeld.pours = s.pours := rfl
@[simp] theorem State.sendHeld_nextPour (s : State) : s.sendHeld.nextPour = s.nextPour := rfl
@[simp] theorem State.sendHeld_ladles (s : State) : s.sendHeld.ladles = s.ladles := rfl
@[simp] theorem State.sendHeld_heats (s : State) : s.sendHeld.heats = s.heats := rfl
@[simp] theorem State.sendHeld_heldCq (s : State) : s.sendHeld.heldCq = s.heldCq := rfl
@[simp] theorem State.sendHeld_arrays (s : State) : s.sendHeld.arrays = s.arrays := rfl
@[simp] theorem State.sendHeld_mbox (s : State) : s.sendHeld.mbox = s.mbox := rfl
@[simp] theorem State.sendHeld_time (s : State) : s.sendHeld.time = s.time := rfl
@[simp] theorem State.sendHeld_entries (s : State) : s.sendHeld.entries = s.entries := rfl
@[simp] theorem State.sendHeld_power (s : State) : s.sendHeld.power = s.power := rfl
@[simp] theorem State.sendHeld_loanEnds (s : State) : s.sendHeld.loanEnds = s.loanEnds := rfl
@[simp] theorem State.sendHeld_scrubOpen (s : State) : s.sendHeld.scrubOpen = s.scrubOpen := rfl
@[simp] theorem State.sendHeld_sramPos (s : State) : s.sendHeld.sramPos = s.sramPos := rfl
@[simp] theorem State.sendHeld_enumPos (s : State) : s.sendHeld.enumPos = s.enumPos := rfl
@[simp] theorem State.sendHeld_enumCode (s : State) : s.sendHeld.enumCode = s.enumCode := rfl
@[simp] theorem State.sendHeld_ports (s : State) : s.sendHeld.ports = s.ports := rfl
@[simp] theorem State.sendHeld_tc2 (s : State) : s.sendHeld.tc2 = s.tc2 := rfl
@[simp] theorem State.sendHeld_tc2Next (s : State) : s.sendHeld.tc2Next = s.tc2Next := rfl
@[simp] theorem State.sendHeld_staged (s : State) : s.sendHeld.staged = s.staged := rfl
@[simp] theorem State.sendHeld_colls (s : State) : s.sendHeld.colls = s.colls := rfl
@[simp] theorem State.sendHeld_sec (s : State) : s.sendHeld.sec = s.sec := rfl
@[simp] theorem State.sendHeld_contrail (s : State) : s.sendHeld.contrail = s.contrail := rfl
@[simp] theorem State.sendHeld_tgen (s : State) : s.sendHeld.tgen = s.tgen := rfl
@[simp] theorem State.sendHeld_tap (s : State) : s.sendHeld.tap = s.tap := rfl
@[simp] theorem State.sendHeld_probe (s : State) : s.sendHeld.probe = s.probe := rfl

@[simp] theorem State.driveAlert_pending (s : State) : s.driveAlert.pending = s.pending := rfl
@[simp] theorem State.driveAlert_phase (s : State) : s.driveAlert.phase = s.phase := rfl
@[simp] theorem State.driveAlert_start (s : State) : s.driveAlert.start = s.start := rfl
@[simp] theorem State.driveAlert_part1024 (s : State) : s.driveAlert.part1024 = s.part1024 := rfl
@[simp] theorem State.driveAlert_fresh (s : State) : s.driveAlert.fresh = s.fresh := rfl
@[simp] theorem State.driveAlert_csr (s : State) : s.driveAlert.csr = s.csr := rfl
@[simp] theorem State.driveAlert_mem (s : State) : s.driveAlert.mem = s.mem := rfl
@[simp] theorem State.driveAlert_cache (s : State) : s.driveAlert.cache = s.cache := rfl
@[simp] theorem State.driveAlert_pours (s : State) : s.driveAlert.pours = s.pours := rfl
@[simp] theorem State.driveAlert_nextPour (s : State) : s.driveAlert.nextPour = s.nextPour := rfl
@[simp] theorem State.driveAlert_ladles (s : State) : s.driveAlert.ladles = s.ladles := rfl
@[simp] theorem State.driveAlert_heats (s : State) : s.driveAlert.heats = s.heats := rfl
@[simp] theorem State.driveAlert_heldCq (s : State) : s.driveAlert.heldCq = s.heldCq := rfl
@[simp] theorem State.driveAlert_arrays (s : State) : s.driveAlert.arrays = s.arrays := rfl
@[simp] theorem State.driveAlert_host (s : State) : s.driveAlert.host = s.host := rfl
@[simp] theorem State.driveAlert_mbox (s : State) : s.driveAlert.mbox = s.mbox := rfl
@[simp] theorem State.driveAlert_time (s : State) : s.driveAlert.time = s.time := rfl
@[simp] theorem State.driveAlert_entries (s : State) : s.driveAlert.entries = s.entries := rfl
@[simp] theorem State.driveAlert_power (s : State) : s.driveAlert.power = s.power := rfl
@[simp] theorem State.driveAlert_loanEnds (s : State) : s.driveAlert.loanEnds = s.loanEnds := rfl
@[simp] theorem State.driveAlert_scrubOpen (s : State) : s.driveAlert.scrubOpen = s.scrubOpen := rfl
@[simp] theorem State.driveAlert_sramPos (s : State) : s.driveAlert.sramPos = s.sramPos := rfl
@[simp] theorem State.driveAlert_enumPos (s : State) : s.driveAlert.enumPos = s.enumPos := rfl
@[simp] theorem State.driveAlert_enumCode (s : State) : s.driveAlert.enumCode = s.enumCode := rfl
@[simp] theorem State.driveAlert_ports (s : State) : s.driveAlert.ports = s.ports := rfl
@[simp] theorem State.driveAlert_tc2 (s : State) : s.driveAlert.tc2 = s.tc2 := rfl
@[simp] theorem State.driveAlert_tc2Next (s : State) : s.driveAlert.tc2Next = s.tc2Next := rfl
@[simp] theorem State.driveAlert_staged (s : State) : s.driveAlert.staged = s.staged := rfl
@[simp] theorem State.driveAlert_colls (s : State) : s.driveAlert.colls = s.colls := rfl
@[simp] theorem State.driveAlert_sec (s : State) : s.driveAlert.sec = s.sec := rfl
@[simp] theorem State.driveAlert_contrail (s : State) : s.driveAlert.contrail = s.contrail := rfl
@[simp] theorem State.driveAlert_tgen (s : State) : s.driveAlert.tgen = s.tgen := rfl
@[simp] theorem State.driveAlert_tap (s : State) : s.driveAlert.tap = s.tap := rfl
@[simp] theorem State.driveAlert_probe (s : State) : s.driveAlert.probe = s.probe := rfl

@[simp] theorem State.pulse_pending (s : State) (g i : Nat) : (s.pulse g i).pending = s.pending := by
  unfold State.pulse; split <;> rfl
@[simp] theorem State.pulse_phase (s : State) (g i : Nat) : (s.pulse g i).phase = s.phase := by
  unfold State.pulse; split <;> rfl
@[simp] theorem State.pulse_start (s : State) (g i : Nat) : (s.pulse g i).start = s.start := by
  unfold State.pulse; split <;> rfl
@[simp] theorem State.pulse_pins (s : State) (g i : Nat) : (s.pulse g i).pins = s.pins := by
  unfold State.pulse; split <;> rfl
@[simp] theorem State.pulse_part1024 (s : State) (g i : Nat) : (s.pulse g i).part1024 = s.part1024 := by
  unfold State.pulse; split <;> rfl
@[simp] theorem State.pulse_fresh (s : State) (g i : Nat) : (s.pulse g i).fresh = s.fresh := by
  unfold State.pulse; split <;> rfl
@[simp] theorem State.pulse_csr (s : State) (g i : Nat) : (s.pulse g i).csr = s.csr := by
  unfold State.pulse; split <;> rfl
@[simp] theorem State.pulse_mem (s : State) (g i : Nat) : (s.pulse g i).mem = s.mem := by
  unfold State.pulse; split <;> rfl
@[simp] theorem State.pulse_cache (s : State) (g i : Nat) : (s.pulse g i).cache = s.cache := by
  unfold State.pulse; split <;> rfl
@[simp] theorem State.pulse_pours (s : State) (g i : Nat) : (s.pulse g i).pours = s.pours := by
  unfold State.pulse; split <;> rfl
@[simp] theorem State.pulse_nextPour (s : State) (g i : Nat) : (s.pulse g i).nextPour = s.nextPour := by
  unfold State.pulse; split <;> rfl
@[simp] theorem State.pulse_ladles (s : State) (g i : Nat) : (s.pulse g i).ladles = s.ladles := by
  unfold State.pulse; split <;> rfl
@[simp] theorem State.pulse_heats (s : State) (g i : Nat) : (s.pulse g i).heats = s.heats := by
  unfold State.pulse; split <;> rfl
@[simp] theorem State.pulse_heldCq (s : State) (g i : Nat) : (s.pulse g i).heldCq = s.heldCq := by
  unfold State.pulse; split <;> rfl
@[simp] theorem State.pulse_arrays (s : State) (g i : Nat) : (s.pulse g i).arrays = s.arrays := by
  unfold State.pulse; split <;> rfl
@[simp] theorem State.pulse_host (s : State) (g i : Nat) : (s.pulse g i).host = s.host := by
  unfold State.pulse; split <;> rfl
@[simp] theorem State.pulse_mbox (s : State) (g i : Nat) : (s.pulse g i).mbox = s.mbox := by
  unfold State.pulse; split <;> rfl
@[simp] theorem State.pulse_time (s : State) (g i : Nat) : (s.pulse g i).time = s.time := by
  unfold State.pulse; split <;> rfl
@[simp] theorem State.pulse_entries (s : State) (g i : Nat) : (s.pulse g i).entries = s.entries := by
  unfold State.pulse; split <;> rfl
@[simp] theorem State.pulse_power (s : State) (g i : Nat) : (s.pulse g i).power = s.power := by
  unfold State.pulse; split <;> rfl
@[simp] theorem State.pulse_loanEnds (s : State) (g i : Nat) : (s.pulse g i).loanEnds = s.loanEnds := by
  unfold State.pulse; split <;> rfl
@[simp] theorem State.pulse_scrubOpen (s : State) (g i : Nat) : (s.pulse g i).scrubOpen = s.scrubOpen := by
  unfold State.pulse; split <;> rfl
@[simp] theorem State.pulse_sramPos (s : State) (g i : Nat) : (s.pulse g i).sramPos = s.sramPos := by
  unfold State.pulse; split <;> rfl
@[simp] theorem State.pulse_enumPos (s : State) (g i : Nat) : (s.pulse g i).enumPos = s.enumPos := by
  unfold State.pulse; split <;> rfl
@[simp] theorem State.pulse_enumCode (s : State) (g i : Nat) : (s.pulse g i).enumCode = s.enumCode := by
  unfold State.pulse; split <;> rfl
@[simp] theorem State.pulse_ports (s : State) (g i : Nat) : (s.pulse g i).ports = s.ports := by
  unfold State.pulse; split <;> rfl
@[simp] theorem State.pulse_tc2 (s : State) (g i : Nat) : (s.pulse g i).tc2 = s.tc2 := by
  unfold State.pulse; split <;> rfl
@[simp] theorem State.pulse_tc2Next (s : State) (g i : Nat) : (s.pulse g i).tc2Next = s.tc2Next := by
  unfold State.pulse; split <;> rfl
@[simp] theorem State.pulse_staged (s : State) (g i : Nat) : (s.pulse g i).staged = s.staged := by
  unfold State.pulse; split <;> rfl
@[simp] theorem State.pulse_colls (s : State) (g i : Nat) : (s.pulse g i).colls = s.colls := by
  unfold State.pulse; split <;> rfl
@[simp] theorem State.pulse_sec (s : State) (g i : Nat) : (s.pulse g i).sec = s.sec := by
  unfold State.pulse; split <;> rfl
@[simp] theorem State.pulse_contrail (s : State) (g i : Nat) : (s.pulse g i).contrail = s.contrail := by
  unfold State.pulse; split <;> rfl
@[simp] theorem State.pulse_tgen (s : State) (g i : Nat) : (s.pulse g i).tgen = s.tgen := by
  unfold State.pulse; split <;> rfl
@[simp] theorem State.pulse_tap (s : State) (g i : Nat) : (s.pulse g i).tap = s.tap := by
  unfold State.pulse; split <;> rfl

@[simp] theorem State.holdProbe_pending (s : State) : s.holdProbe.pending = s.pending := rfl
@[simp] theorem State.holdProbe_phase (s : State) : s.holdProbe.phase = s.phase := rfl
@[simp] theorem State.holdProbe_start (s : State) : s.holdProbe.start = s.start := rfl
@[simp] theorem State.holdProbe_pins (s : State) : s.holdProbe.pins = s.pins := rfl
@[simp] theorem State.holdProbe_part1024 (s : State) : s.holdProbe.part1024 = s.part1024 := rfl
@[simp] theorem State.holdProbe_fresh (s : State) : s.holdProbe.fresh = s.fresh := rfl
@[simp] theorem State.holdProbe_csr (s : State) : s.holdProbe.csr = s.csr := rfl
@[simp] theorem State.holdProbe_mem (s : State) : s.holdProbe.mem = s.mem := rfl
@[simp] theorem State.holdProbe_cache (s : State) : s.holdProbe.cache = s.cache := rfl
@[simp] theorem State.holdProbe_pours (s : State) : s.holdProbe.pours = s.pours := rfl
@[simp] theorem State.holdProbe_nextPour (s : State) : s.holdProbe.nextPour = s.nextPour := rfl
@[simp] theorem State.holdProbe_ladles (s : State) : s.holdProbe.ladles = s.ladles := rfl
@[simp] theorem State.holdProbe_heats (s : State) : s.holdProbe.heats = s.heats := rfl
@[simp] theorem State.holdProbe_heldCq (s : State) : s.holdProbe.heldCq = s.heldCq := rfl
@[simp] theorem State.holdProbe_arrays (s : State) : s.holdProbe.arrays = s.arrays := rfl
@[simp] theorem State.holdProbe_host (s : State) : s.holdProbe.host = s.host := rfl
@[simp] theorem State.holdProbe_mbox (s : State) : s.holdProbe.mbox = s.mbox := rfl
@[simp] theorem State.holdProbe_time (s : State) : s.holdProbe.time = s.time := rfl
@[simp] theorem State.holdProbe_entries (s : State) : s.holdProbe.entries = s.entries := rfl
@[simp] theorem State.holdProbe_power (s : State) : s.holdProbe.power = s.power := rfl
@[simp] theorem State.holdProbe_loanEnds (s : State) : s.holdProbe.loanEnds = s.loanEnds := rfl
@[simp] theorem State.holdProbe_scrubOpen (s : State) : s.holdProbe.scrubOpen = s.scrubOpen := rfl
@[simp] theorem State.holdProbe_sramPos (s : State) : s.holdProbe.sramPos = s.sramPos := rfl
@[simp] theorem State.holdProbe_enumPos (s : State) : s.holdProbe.enumPos = s.enumPos := rfl
@[simp] theorem State.holdProbe_enumCode (s : State) : s.holdProbe.enumCode = s.enumCode := rfl
@[simp] theorem State.holdProbe_ports (s : State) : s.holdProbe.ports = s.ports := rfl
@[simp] theorem State.holdProbe_tc2 (s : State) : s.holdProbe.tc2 = s.tc2 := rfl
@[simp] theorem State.holdProbe_tc2Next (s : State) : s.holdProbe.tc2Next = s.tc2Next := rfl
@[simp] theorem State.holdProbe_staged (s : State) : s.holdProbe.staged = s.staged := rfl
@[simp] theorem State.holdProbe_colls (s : State) : s.holdProbe.colls = s.colls := rfl
@[simp] theorem State.holdProbe_sec (s : State) : s.holdProbe.sec = s.sec := rfl
@[simp] theorem State.holdProbe_contrail (s : State) : s.holdProbe.contrail = s.contrail := rfl
@[simp] theorem State.holdProbe_tgen (s : State) : s.holdProbe.tgen = s.tgen := rfl
@[simp] theorem State.holdProbe_tap (s : State) : s.holdProbe.tap = s.tap := rfl

@[simp] theorem settle_pending (s : State) : (settle s).pending = s.pending := by simp [settle]
@[simp] theorem settle_phase (s : State) : (settle s).phase = s.phase := by simp [settle]
@[simp] theorem settle_start (s : State) : (settle s).start = s.start := by simp [settle]
@[simp] theorem settle_part1024 (s : State) : (settle s).part1024 = s.part1024 := by simp [settle]
@[simp] theorem settle_csr (s : State) : (settle s).csr = s.csr := by simp [settle]
@[simp] theorem settle_mem (s : State) : (settle s).mem = s.mem := by simp [settle]
@[simp] theorem settle_cache (s : State) : (settle s).cache = s.cache := by simp [settle]
@[simp] theorem settle_pours (s : State) : (settle s).pours = s.pours := by simp [settle]
@[simp] theorem settle_nextPour (s : State) : (settle s).nextPour = s.nextPour := by simp [settle]
@[simp] theorem settle_ladles (s : State) : (settle s).ladles = s.ladles := by simp [settle]
@[simp] theorem settle_heats (s : State) : (settle s).heats = s.heats := by simp [settle]
@[simp] theorem settle_heldCq (s : State) : (settle s).heldCq = s.heldCq := by simp [settle]
@[simp] theorem settle_arrays (s : State) : (settle s).arrays = s.arrays := by simp [settle]
@[simp] theorem settle_mbox (s : State) : (settle s).mbox = s.mbox := by simp [settle]
@[simp] theorem settle_time (s : State) : (settle s).time = s.time := by simp [settle]
@[simp] theorem settle_entries (s : State) : (settle s).entries = s.entries := by simp [settle]
@[simp] theorem settle_power (s : State) : (settle s).power = s.power := by simp [settle]
@[simp] theorem settle_loanEnds (s : State) : (settle s).loanEnds = s.loanEnds := by simp [settle]
@[simp] theorem settle_scrubOpen (s : State) : (settle s).scrubOpen = s.scrubOpen := by simp [settle]
@[simp] theorem settle_sramPos (s : State) : (settle s).sramPos = s.sramPos := by simp [settle]
@[simp] theorem settle_enumPos (s : State) : (settle s).enumPos = s.enumPos := by simp [settle]
@[simp] theorem settle_enumCode (s : State) : (settle s).enumCode = s.enumCode := by simp [settle]
@[simp] theorem settle_ports (s : State) : (settle s).ports = s.ports := by simp [settle]
@[simp] theorem settle_tc2 (s : State) : (settle s).tc2 = s.tc2 := by simp [settle]
@[simp] theorem settle_tc2Next (s : State) : (settle s).tc2Next = s.tc2Next := by simp [settle]
@[simp] theorem settle_staged (s : State) : (settle s).staged = s.staged := by simp [settle]
@[simp] theorem settle_colls (s : State) : (settle s).colls = s.colls := by simp [settle]
@[simp] theorem settle_sec (s : State) : (settle s).sec = s.sec := by simp [settle]
@[simp] theorem settle_contrail (s : State) : (settle s).contrail = s.contrail := by simp [settle]
@[simp] theorem settle_tgen (s : State) : (settle s).tgen = s.tgen := by simp [settle]
@[simp] theorem settle_tap (s : State) : (settle s).tap = s.tap := by simp [settle]

/-! ### Register fields -/

/-- Every field fits 64 bits. -/
theorem FKind.width_le (k : FKind) : k.info.width ≤ 64 := by cases k <;> decide

/-- The row of a field after a row is replaced. -/
theorem csrRow_put (l : List (FKind × Sp (BitVec 64))) (k k' : FKind) (r : Sp (BitVec 64)) :
    csrRow (csrPutRow l k r) k' = if k' = k then r else csrRow l k' := by
  induction l with
  | nil =>
    by_cases h : k' = k
    · subst h; simp [csrPutRow, csrRow]
    · simp [csrPutRow, csrRow, h, Ne.symm h]
  | cons e t ih =>
    obtain ⟨k0, r0⟩ := e
    simp only [csrPutRow]
    split
    next h =>
      subst h
      by_cases h : k' = k0
      · subst h; simp [csrRow]
      · simp [csrRow, h, Ne.symm h]
    next h =>
      split
      · by_cases h : k' = k
        · subst h; simp [csrRow]
        · simp [csrRow, h, Ne.symm h]
      · simp only [csrRow, ih]
        by_cases h1 : k' = k
        · subst h1; simp [h]
        · simp [h1]

/-- What a register field reads after a write: the value cut to the field's width, or what it read before. -/
theorem State.rd_wr (s : State) (k k' : FKind) (i j v : Nat) :
    (s.wr k i v).rd k' j = if k' = k ∧ j = i then v % 2 ^ k.info.width else s.rd k' j := by
  unfold State.rd State.wr
  simp only [csrRow_put]
  by_cases hk : k' = k
  · subst hk
    by_cases hj : j = i
    · subst hj
      have h1 : v % 2 ^ k'.info.width < 2 ^ 64 :=
        Nat.lt_of_lt_of_le (Nat.mod_lt _ (Nat.two_pow_pos _)) (Nat.pow_le_pow_right (by decide) (FKind.width_le k'))
      have h2 : v % 2 ^ k'.info.width % 18446744073709551616 = v % 2 ^ k'.info.width := Nat.mod_eq_of_lt h1
      simp [h2]
    · simp [hj, Sp.get?_put_ne _ _ hj]
  · simp [hk]

@[simp] theorem State.rd_wr_same (s : State) (k : FKind) (i v : Nat) : (s.wr k i v).rd k i = v % 2 ^ k.info.width := by
  simp [State.rd_wr]

/-- A write of one field leaves every other field alone. -/
theorem State.rd_wr_ne (s : State) {k k' : FKind} (i j v : Nat) (h : k' ≠ k) : (s.wr k i v).rd k' j = s.rd k' j := by
  simp [State.rd_wr, h]

/-- A write at one index leaves the other indices alone. -/
theorem State.rd_wr_idx (s : State) (k : FKind) {i j : Nat} (v : Nat) (h : j ≠ i) : (s.wr k i v).rd k j = s.rd k j := by
  simp [State.rd_wr, h]

/-- A register field depends on the register file alone. -/
theorem State.rd_congr {s t : State} (h : t.csr = s.csr) (k : FKind) (i : Nat) : t.rd k i = s.rd k i := by
  unfold State.rd; rw [h]

@[simp] theorem settle_rd (s : State) (k : FKind) (i : Nat) : (settle s).rd k i = s.rd k i := State.rd_congr (settle_csr s) k i
@[simp] theorem settle_bit (s : State) (k : FKind) (i : Nat) : (settle s).bit k i = s.bit k i := by simp [State.bit]

@[simp] theorem State.fire_rd (s : State) (v : Nat) (k' : FKind) (j : Nat) : (s.fire v).rd k' j = s.rd k' j := State.rd_congr (State.fire_csr s v) k' j
@[simp] theorem State.onPort_rd (s : State) (n : Nat) (f : PortRt → PortRt) (k' : FKind) (j : Nat) : (s.onPort n f).rd k' j = s.rd k' j := State.rd_congr (State.onPort_csr s n f) k' j
@[simp] theorem State.onArray_rd (s : State) (a : Nat) (f : ArrayRt → ArrayRt) (k' : FKind) (j : Nat) : (s.onArray a f).rd k' j = s.rd k' j := State.rd_congr (State.onArray_csr s a f) k' j
@[simp] theorem State.onLadle_rd (s : State) (n : Nat) (f : LadleRt → LadleRt) (k' : FKind) (j : Nat) : (s.onLadle n f).rd k' j = s.rd k' j := State.rd_congr (State.onLadle_csr s n f) k' j
@[simp] theorem State.onEntry_rd (s : State) (e : Nat) (f : EntryRt → EntryRt) (k' : FKind) (j : Nat) : (s.onEntry e f).rd k' j = s.rd k' j := State.rd_congr (State.onEntry_csr s e f) k' j
@[simp] theorem State.onPour_rd (s : State) (id : Nat) (f : Pour → Pour) (k' : FKind) (j : Nat) : (s.onPour id f).rd k' j = s.rd k' j := State.rd_congr (State.onPour_csr s id f) k' j
@[simp] theorem State.dropPour_rd (s : State) (id : Nat) (k' : FKind) (j : Nat) : (s.dropPour id).rd k' j = s.rd k' j := State.rd_congr (State.dropPour_csr s id) k' j
@[simp] theorem State.pulse_rd (s : State) (g i : Nat) (k' : FKind) (j : Nat) : (s.pulse g i).rd k' j = s.rd k' j := State.rd_congr (State.pulse_csr s g i) k' j

/-- A raised status bit reads 1 (R859). -/
theorem State.raise_bit (s : State) (k : FKind) (i b : Nat) (h : k ≠ .hostIntCause) (hw : 0 < k.info.width) :
    (s.raise k i b).bit k i = true := by
  unfold State.raise
  split
  · assumption
  · have h1 : (1 : Nat) % 2 ^ k.info.width = 1 := Nat.mod_eq_of_lt (Nat.one_lt_two_pow (Nat.pos_iff_ne_zero.mp hw))
    simp [State.cause, State.setBit, State.bit, State.rd_wr, h, h1]

/-- Raising a status bit changes that bit and HOST_INT_CAUSE only. -/
theorem State.raise_rd_ne (s : State) {k k' : FKind} (i b j : Nat) (h : k' ≠ k) (h' : k' ≠ .hostIntCause) :
    (s.raise k i b).rd k' j = s.rd k' j := by
  unfold State.raise
  split
  · rfl
  · simp [State.cause, State.setBit, State.rd_wr, h, h']

/-- A counter counts and saturates; nothing else of the register file changes (R10). -/
theorem State.count_rd (s : State) (k k' : FKind) (i n j : Nat) :
    (s.count k i n).rd k' j =
      if k' = k ∧ j = i then min (s.rd k i + n) (2 ^ k.info.width - 1) % 2 ^ k.info.width else s.rd k' j := by
  have h : (s.count k i n).csr = (s.wr k i (min (s.rd k i + n) (2 ^ k.info.width - 1))).csr := by
    unfold State.count; cases integrityPlace k i <;> rfl
  rw [State.rd_congr h, State.rd_wr]

/-! ### Ports, arrays, ladles and entries -/

@[simp] theorem State.onPort_port_same (s : State) (n : Nat) (f : PortRt → PortRt) : (s.onPort n f).port n = f (s.port n) := by
  simp [State.onPort, State.port]
theorem State.onPort_port_ne (s : State) {n m : Nat} (f : PortRt → PortRt) (h : m ≠ n) : (s.onPort n f).port m = s.port m := by
  simp [State.onPort, State.port, Sp.getD_put_ne _ _ _ h]
@[simp] theorem State.onArray_array_same (s : State) (a : Nat) (f : ArrayRt → ArrayRt) : (s.onArray a f).array a = f (s.array a) := by
  simp [State.onArray, State.setArray, State.array]
theorem State.onArray_array_ne (s : State) {a b : Nat} (f : ArrayRt → ArrayRt) (h : b ≠ a) : (s.onArray a f).array b = s.array b := by
  simp [State.onArray, State.setArray, State.array, Sp.getD_put_ne _ _ _ h]
@[simp] theorem State.onLadle_ladle_same (s : State) (n : Nat) (f : LadleRt → LadleRt) : (s.onLadle n f).ladle n = f (s.ladle n) := by
  simp [State.onLadle, State.ladle]
@[simp] theorem State.onEntry_entry_same (s : State) (e : Nat) (f : EntryRt → EntryRt) : (s.onEntry e f).entry e = f (s.entry e) := by
  simp [State.onEntry, State.entry]

/-! ### Pins that `settle` leaves alone -/

@[simp] theorem settle_vin50 (s : State) : (settle s).pins.vin50 = s.pins.vin50 := by simp [settle, State.driveAlert]
@[simp] theorem settle_straps (s : State) : (settle s).pins.straps = s.pins.straps := by simp [settle, State.driveAlert]
@[simp] theorem settle_perstN (s : State) : (settle s).pins.perstN = s.pins.perstN := by simp [settle, State.driveAlert]
@[simp] theorem settle_pwrGood (s : State) : (settle s).pins.pwrGood = s.pins.pwrGood := by simp [settle, State.driveAlert]
@[simp] theorem settle_thermTripN (s : State) : (settle s).pins.thermTripN = s.pins.thermTripN := by simp [settle, State.driveAlert]

end Sys2Proof.Machine
end

