-- ==== Sys2Proof/Laws/Memory.lean ====
section
/-!
SUPPORT. Stores of checked words: a word written is read back, other words are left alone, and every operation keeps the canonical form.
-/
namespace Sys2Proof.Machine

/-! ### Bytes of numbers -/

@[simp] theorem leBytes_length (x n : Nat) : (leBytes x n).length = n := by
  induction n generalizing x with
  | zero => rfl
  | succ n ih => simp [leBytes, ih]

/-- The bytes of a number spell the number, cut to their width. -/
theorem leNat_leBytes (x n : Nat) : leNat (leBytes x n) = x % 2 ^ (8 * n) := by
  induction n generalizing x with
  | zero => simp [leBytes, leNat, Nat.mod_one]
  | succ n ih =>
    simp only [leBytes, leNat, ih, BitVec.toNat_ofNat]
    have h : 2 ^ (8 * (n + 1)) = 256 * 2 ^ (8 * n) := by rw [Nat.mul_add, Nat.pow_add]; omega
    rw [h, Nat.mod_mul]

/-! ### Cells -/

/-- A write leaves the bytes outside it alone. -/
theorem get?_writeCells_out (z : Bool) (c : List Host.Cell) (a : Nat) (l : List Byte) (x : Nat) (h : x < a ∨ a + l.length ≤ x) :
    Sp.get? (writeCells z c a l) x = Sp.get? c x := by
  induction l generalizing c a with
  | nil => rfl
  | cons b r ih =>
    simp only [List.length_cons] at h
    have hx : x ≠ a := by omega
    simp only [writeCells]
    rw [ih _ _ (by omega)]
    split
    · exact Sp.get?_del_ne c hx
    · exact Sp.get?_put_ne c b hx

/-- What a store reads at a byte: what is listed, or zero in a store that was cleared. -/
def Store.byte? (st : Store) (x : Nat) : Option Byte := (Sp.get? st.cells x).or (if st.zeroed then some 0 else none)

/-- A byte written is read back. -/
theorem byte?_writeCells (st : Store) (a i : Nat) (l : List Byte) (h : i < l.length) :
    ({ st with cells := writeCells st.zeroed st.cells a l } : Store).byte? (a + i) = some l[i] := by
  obtain ⟨c, m, z⟩ := st
  simp only [Store.byte?]
  induction l generalizing c a i with
  | nil => simp at h
  | cons b r ih =>
    simp only [writeCells]
    cases i with
    | zero =>
      rw [get?_writeCells_out _ _ _ _ _ (by omega)]
      simp only [Nat.add_zero, List.getElem_cons_zero]
      split
      next hz =>
        simp only [Bool.and_eq_true, decide_eq_true_eq] at hz
        simp [hz.1, hz.2]
      next => simp
    | succ i =>
      have := ih (a := a + 1) (i := i) (c := if (z && decide (b = 0)) = true then Sp.del c a else Sp.put c a b) (by simpa using h)
      rw [show a + (i + 1) = a + 1 + i by omega]
      simpa using this

/-- A word reads as the number its bytes spell. -/
theorem Store.word?_eq (st : Store) (w : Nat) :
    st.word? w = ((List.range 8).mapM (fun i => st.byte? (8 * w + i))).map leNat := rfl

/-- A word written is read back. -/
@[simp] theorem Store.word?_writeWord_same (st : Store) (w : Nat) (v : BitVec 64) : (st.writeWord w v).word? w = some v.toNat := by
  have h : ∀ i, i < 8 → (st.writeWord w v).byte? (8 * w + i) = (leBytes v.toNat 8)[i]? := by
    intro i hi
    have := byte?_writeCells st (8 * w) i (leBytes v.toNat 8) (by simpa using hi)
    rw [List.getElem?_eq_getElem (by simpa using hi)]
    exact this
  rw [Store.word?_eq]
  have h8 : List.range 8 = [0, 1, 2, 3, 4, 5, 6, 7] := rfl
  have hb : ∀ i, i < 8 → (st.writeWord w v).byte? (8 * w + i) = some ((leBytes v.toNat 8)[i]?.getD 0) := by
    intro i hi
    rw [h i hi, List.getElem?_eq_getElem (by simpa using hi)]; rfl
  rw [h8]
  simp only [List.mapM_cons, List.mapM_nil, hb 0 (by omega), hb 1 (by omega), hb 2 (by omega), hb 3 (by omega), hb 4 (by omega), hb 5 (by omega),
    hb 6 (by omega), hb 7 (by omega)]
  have hl : leNat (leBytes v.toNat 8) = v.toNat := by
    rw [leNat_leBytes]; exact Nat.mod_eq_of_lt v.isLt
  conv => rhs; rw [← hl]
  simp [leBytes]

/-- A run over a list depends on what its function gives on the list's members. -/
theorem mapM_congr_mem {α β : Type} (f g : α → Option β) (l : List α) (h : ∀ x ∈ l, f x = g x) : l.mapM f = l.mapM g := by
  induction l with
  | nil => rfl
  | cons a r ih =>
    simp only [List.mapM_cons, h a (List.mem_cons_self ..), ih (fun x hx => h x (List.mem_cons_of_mem _ hx))]

/-- A write of one word leaves every other word alone. -/
theorem Store.word?_writeWord_ne (st : Store) {w x : Nat} (v : BitVec 64) (h : x ≠ w) : (st.writeWord w v).word? x = st.word? x := by
  simp only [Store.word?, Store.writeWord]
  have : ∀ i ∈ List.range 8, Sp.get? (writeCells st.zeroed st.cells (8 * w) (leBytes v.toNat 8)) (8 * x + i) = Sp.get? st.cells (8 * x + i) := by
    intro i hi
    have hi := List.mem_range.mp hi
    exact get?_writeCells_out _ _ _ _ _ (by simp only [leBytes_length]; omega)
  congr 1
  exact mapM_congr_mem _ _ _ (fun i hi => congrArg (fun o : Option (BitVec 8) => o.or (if st.zeroed = true then some 0 else none)) (this i hi))

/-- A word written reads clean (R633). -/
theorem Store.readWord_writeWord_same (st : Store) (w fresh : Nat) (v : BitVec 64) : (st.writeWord w v).readWord w fresh = .ok v false := by
  have hm : Sp.get? (st.writeWord w v).marks w = none := Sp.get?_del_same _ _
  simp [Store.readWord, hm]

/-- A write of one word leaves the outcome of reading every other word alone. -/
theorem Store.readWord_writeWord_ne (st : Store) {w x : Nat} (fresh : Nat) (v : BitVec 64) (h : x ≠ w) :
    (st.writeWord w v).readWord x fresh = st.readWord x fresh := by
  have hm : Sp.get? (st.writeWord w v).marks x = Sp.get? st.marks x := Sp.get?_del_ne _ h
  simp only [Store.readWord, hm, Store.word?_writeWord_ne st v h]

@[simp] theorem Mark.decode_poison_zero : (Mark.poison 0).decode = .poisoned := rfl

/-- A poisoned word reads poisoned (R634, R643). -/
theorem Store.readWord_poisonWord_same (st : Store) (w fresh : Nat) : (st.poisonWord w).readWord w fresh = .poison := by
  simp [Store.readWord, Store.poisonWord]

theorem Store.readWord_poisonWord_ne (st : Store) {w x : Nat} (fresh : Nat) (h : x ≠ w) :
    (st.poisonWord w).readWord x fresh = st.readWord x fresh := by
  have hm : Sp.get? (st.poisonWord w).marks x = Sp.get? st.marks x := Sp.get?_put_ne _ _ h
  simp only [Store.readWord, hm]; rfl

/-! ### The canonical form -/

/-- The canonical form, said in full. -/
theorem Store.wf_iff (st : Store) :
    st.wf = true ↔ Sp.sorted st.cells = true ∧ Sp.sorted st.marks = true ∧ (st.zeroed = true → ∀ e ∈ st.cells, e.2 ≠ 0) := by
  simp only [Store.wf, Bool.and_eq_true, Bool.not_eq_true', Bool.and_eq_false_iff, List.any_eq_false, and_assoc]
  constructor
  · rintro ⟨h1, h2, h3⟩
    refine ⟨h1, h2, fun hz e he => ?_⟩
    rcases h3 with h3 | h3
    · simp [hz] at h3
    · simpa using h3 e he
  · rintro ⟨h1, h2, h3⟩
    refine ⟨h1, h2, ?_⟩
    by_cases hz : st.zeroed
    · exact .inr (fun e he => by simpa using h3 hz e he)
    · exact .inl (by simpa using hz)

theorem sorted_writeCells (z : Bool) (c : List Host.Cell) (a : Nat) (l : List Byte) (h : Sp.sorted c = true) :
    Sp.sorted (writeCells z c a l) = true := by
  induction l generalizing c a with
  | nil => exact h
  | cons b r ih =>
    simp only [writeCells]
    split
    · exact ih _ _ (Sp.sorted_del a h)
    · exact ih _ _ (Sp.sorted_put a b h)

theorem nonzero_writeCells (c : List Host.Cell) (a : Nat) (l : List Byte) (h : ∀ e ∈ c, e.2 ≠ 0) :
    ∀ e ∈ writeCells true c a l, e.2 ≠ 0 := by
  induction l generalizing c a with
  | nil => exact h
  | cons b r ih =>
    simp only [writeCells, Bool.true_and, decide_eq_true_eq]
    split
    · exact ih _ _ (fun e he => h e (List.mem_filter.mp he).1)
    next hb =>
      exact ih _ _ (fun e he => by
        rcases Sp.mem_put he with rfl | he
        · exact hb
        · exact h e he)

theorem Store.wf_writeWord {st : Store} (w : Nat) (v : BitVec 64) (h : st.wf = true) : (st.writeWord w v).wf = true := by
  rw [Store.wf_iff] at h ⊢
  refine ⟨sorted_writeCells _ _ _ _ h.1, Sp.sorted_del w h.2.1, fun hz => ?_⟩
  have hz' : st.zeroed = true := hz
  simp only [Store.writeWord, hz']
  exact nonzero_writeCells _ _ _ (h.2.2 hz')

theorem Store.wf_poisonWord {st : Store} (w : Nat) (h : st.wf = true) : (st.poisonWord w).wf = true := by
  rw [Store.wf_iff] at h ⊢
  exact ⟨h.1, Sp.sorted_put w _ h.2.1, h.2.2⟩

theorem Store.wf_scrubWord {st : Store} (w : Nat) (h : st.wf = true) : (st.scrubWord w).wf = true := by
  rw [Store.wf_iff] at h ⊢
  exact ⟨h.1, Sp.sorted_del w h.2.1, h.2.2⟩

theorem Store.wf_forget {st : Store} (w : Nat) (h : st.wf = true) : (st.forget w).wf = true := by
  rw [Store.wf_iff] at h ⊢
  refine ⟨Sp.sorted_filter _ h.1, ?_, fun hz e he => h.2.2 hz e (List.mem_filter.mp he).1⟩
  simp only [Store.forget]
  split
  · exact Sp.sorted_put w _ h.2.1
  · exact Sp.sorted_del w h.2.1

theorem Store.wf_forgetRange {st : Store} (a len : Nat) (h : st.wf = true) : (st.forgetRange a len).wf = true := by
  rw [Store.wf_iff] at h ⊢
  exact ⟨Sp.sorted_filter _ h.1, Sp.sorted_filter _ h.2.1, fun hz e he => h.2.2 hz e (List.mem_filter.mp he).1⟩

/-- Memory after reset is in canonical form. -/
theorem reset_mem_wf : State.reset.mem.wf = true := rfl

/-! ### The operations of the part over local memory -/

/-- A fold keeps what each of its steps keeps. -/
theorem foldl_keeps {α β : Type} (P : β → Prop) (f : β → α → β) (l : List α) (b : β) (hb : P b) (hf : ∀ b a, P b → P (f b a)) :
    P (l.foldl f b) := by
  induction l generalizing b with
  | nil => exact hb
  | cons a r ih => exact ih _ (hf _ _ hb)

/-- Writing a line back keeps the canonical form, and changes no byte. -/
theorem Store.wf_writeBack {st : Store} (line : Nat) (h : st.wf = true) : (st.writeBack line).wf = true := by
  rw [Store.wf_iff] at h ⊢
  exact ⟨h.1, Sp.sorted_map _ (fun e => by split <;> rfl) h.2.1, h.2.2⟩

/-- Writing a line back poisons the uncorrectable words of the line and leaves every other mark. -/
theorem Store.writeBack_mark (st : Store) (line w : Nat) : Sp.get? (st.writeBack line).marks w
    = (Sp.get? st.marks w).map (fun m => if w / 32 = line ∧ m.decode = .uncorrectable then .poison 0 else m) := by
  show Sp.get? (st.marks.map _) w = _
  induction st.marks with
  | nil => simp [Sp.get?]
  | cons e r ih =>
    obtain ⟨k, m⟩ := e
    by_cases hk : k = w
    · subst hk
      by_cases hl : k / 32 = line <;> by_cases hm : m.decode = .uncorrectable <;> simp [Sp.get?, hl, hm]
    · rw [List.map_cons]
      have : ∀ x : Nat × Mark, x.1 = k → ∀ q, Sp.get? (x :: q) w = Sp.get? q w := by
        rintro ⟨k', m'⟩ rfl q; simp [Sp.get?, hk]
      rw [this _ (by split <;> rfl), ih, this _ rfl]

/-- A word that decodes as uncorrectable. -/
def Store.uncorrectable (st : Store) (w : Nat) : Prop := (Sp.get? st.marks w).map Mark.decode = some .uncorrectable

/-- What an access of the cache leaves of the memory: every byte, and every mark but that of an uncorrectable word of a line that is
written back, which is poisoned. -/
def Store.CacheKeeps (a b : Store) : Prop :=
  b.cells = a.cells ∧ b.zeroed = a.zeroed ∧ (a.wf = true → b.wf = true) ∧ ∀ w, Sp.get? b.marks w = Sp.get? a.marks w
    ∨ (a.uncorrectable w ∧ Sp.get? b.marks w = some (.poison 0))

theorem Store.CacheKeeps.refl (a : Store) : a.CacheKeeps a := ⟨rfl, rfl, id, fun _ => .inl rfl⟩

theorem Store.CacheKeeps.trans {a b c : Store} (h : a.CacheKeeps b) (h' : b.CacheKeeps c) : a.CacheKeeps c := by
  refine ⟨h'.1.trans h.1, h'.2.1.trans h.2.1, fun x => h'.2.2.1 (h.2.2.1 x), fun w => ?_⟩
  rcases h.2.2.2 w with e | ⟨e, e'⟩ <;> rcases h'.2.2.2 w with f | ⟨f, f'⟩
  · exact .inl (f.trans e)
  · exact .inr ⟨by unfold Store.uncorrectable at f ⊢; rwa [e] at f, f'⟩
  · exact .inr ⟨e, f.trans e'⟩
  · exact .inr ⟨e, f'⟩

theorem State.evict_mem (s : State) (v : Option CacheLine) : s.mem.CacheKeeps (s.evict v).mem := by
  unfold State.evict
  split
  next l =>
    split
    · refine ⟨rfl, rfl, Store.wf_writeBack _, fun w => ?_⟩
      rw [Store.writeBack_mark]
      unfold Store.uncorrectable
      cases hm : Sp.get? s.mem.marks w with
      | none => exact .inl rfl
      | some m =>
        by_cases h : w / 32 = l.line ∧ m.decode = .uncorrectable
        · exact .inr ⟨by simp [h.2], by simp [h]⟩
        · exact .inl (by simp [h])
    · exact .refl _
  · exact .refl _

theorem State.cacheLine_mem (s : State) (bad : List Nat) (hint : Nat) (w wh : Bool) (l : Nat) :
    s.mem.CacheKeeps (s.cacheLine bad hint w wh l).mem := by
  have same : ∀ t : State, t.mem = s.mem → s.mem.CacheKeeps t.mem := fun t h => h ▸ .refl _
  unfold State.cacheLine
  extract_lets die lines put s1 rest s2 new allocate
  have h1 : s1.mem = s.mem := State.count_mem ..
  have h2 : s2.mem = s.mem := State.count_mem ..
  split
  · split
    · exact same _ ((State.count_mem ..).trans h1)
    · exact same _ h1
  · split
    · have := State.evict_mem (put s2 (cacheFill s.cacheSets die lines new)) (cacheVictim s.cacheSets die lines new)
      rwa [show (put s2 (cacheFill s.cacheSets die lines new)).mem = s.mem from h2] at this
    · exact same _ h2

theorem State.cacheAccess_mem (s : State) (bad : List Nat) (hint : Nat) (w : Bool) (a len : Nat) :
    s.mem.CacheKeeps (s.cacheAccess bad hint w a len).mem := by
  unfold State.cacheAccess
  split
  · exact .refl _
  · exact foldl_keeps (fun t : State => s.mem.CacheKeeps t.mem) _ _ _ (.refl _) (fun t i h => h.trans (State.cacheLine_mem ..))

theorem State.cacheAccess_wf (s : State) (bad : List Nat) (hint : Nat) (w : Bool) (a len : Nat) (h : s.mem.wf = true) :
    (s.cacheAccess bad hint w a len).mem.wf = true := (s.cacheAccess_mem bad hint w a len).2.2.1 h

@[simp] theorem State.logError_mem (s : State) (a st k : Nat) (who : Who) (m : Nat) : (s.logError a st k who m).mem = s.mem := by
  unfold State.logError
  extract_lets tail i s1 s2 s3
  have h1 : s1.mem = s.mem := by
    simp only [s1]; split
    · exact State.setBit_mem ..
    · rfl
  have h2 : s2.mem = s1.mem := by simp only [s2, State.wr_mem]
  have h3 : s3.mem = s2.mem := by
    simp only [s3]; split
    · exact State.raise_mem ..
    · exact State.setBit_mem ..
  rw [State.contrailAdd_mem, h3, h2, h1]

@[simp] theorem State.countCe_mem (s : State) (k : FKind) (i : Nat) : (s.countCe k i).mem = s.mem := by
  unfold State.countCe
  extract_lets s1
  have h1 : s1.mem = s.mem := State.count_mem ..
  split
  · split <;> simp [h1]
  · exact h1

/-- Marking a word that failed keeps the canonical form. -/
theorem Store.wf_stuckWord {st : Store} (w : Nat) (h : st.wf = true) : (st.stuckWord w).wf = true := by
  unfold Store.stuckWord
  split
  · exact h
  · rw [Store.wf_iff] at h ⊢
    exact ⟨h.1, Sp.sorted_put _ _ h.2.1, h.2.2⟩

/-- A word that decodes as uncorrectable already stays as it is (R635). -/
@[simp] theorem Store.stuckWord_of_uncorrectable {st : Store} {w : Nat} (h : st.uncorrectable w) : st.stuckWord w = st := if_pos h

/-- Counting a word's outcome keeps the canonical form. -/
theorem State.noteWord_wf (s : State) (who : Who) (m w : Nat) (r : Rd1) (h : s.mem.wf = true) : (s.noteWord who m w r).mem.wf = true := by
  unfold State.noteWord
  extract_lets a sram d
  split
  · exact h
  · rw [State.countCe_mem]; exact Store.wf_scrubWord w h
  · rw [State.logError_mem, State.count_mem]; exact Store.wf_stuckWord w h
  · rw [State.logError_mem, State.count_mem]; exact h

/-- Reading words keeps the canonical form of the memory. -/
theorem State.readWords_wf (s : State) (who : Who) (first n : Nat) (h : s.mem.wf = true) : (s.readWords who first n).2.mem.wf = true := by
  unfold State.readWords
  refine foldl_keeps (fun x : RdRes × State => x.2.mem.wf = true) _ _ _ h (fun x q hx => ?_)
  show (x.2.readRequest who q.1 q.2).2.mem.wf = true
  unfold State.readRequest
  exact foldl_keeps (fun t : State => t.mem.wf = true) _ _ _ hx (fun t i ht => State.noteWord_wf _ _ _ _ _ ht)

/-- The fill of the lines of a read keeps the canonical form of the memory. -/
theorem State.fillLines_wf (s : State) (who : Who) (hint a len : Nat) (h : s.mem.wf = true) :
    (s.fillLines who hint a len).mem.wf = true := by
  unfold State.fillLines
  split
  · exact h
  · exact foldl_keeps (fun t : State => t.mem.wf = true) _ _ _ h (fun t l ht =>
      foldl_keeps (fun t : State => t.mem.wf = true) _ _ _ ht (fun t e ht => State.noteWord_wf _ _ _ _ _ ht))

/-- A read of local memory keeps its canonical form. -/
theorem State.readLocal_wf (s : State) (who : Who) (hint a len : Nat) (h : s.mem.wf = true) :
    (s.readLocal who hint a len).2.mem.wf = true := by
  unfold State.readLocal
  split
  · exact h
  · dsimp only
    refine foldl_keeps (fun t : State => t.mem.wf = true) _ _ _ ?_ (fun t l ht => ?_)
    · exact State.cacheAccess_wf _ _ _ _ _ _ (State.fillLines_wf _ _ _ _ _ (State.readWords_wf s who _ _ h))
    · exact foldl_keeps (fun t : State => t.mem.wf = true) _ _ _ ht (fun t i ht => Store.wf_forget _ ht)

/-- A write of whole words to local memory keeps its canonical form. -/
theorem State.writeLocal_wf (s : State) (hint a : Nat) (data : List Byte) (bad : List Nat) (h : s.mem.wf = true) :
    (s.writeLocal hint a data bad).mem.wf = true := by
  unfold State.writeLocal
  dsimp only
  apply State.cacheAccess_wf
  refine foldl_keeps (fun m : Store => m.wf = true) _ _ _ h (fun m i hm => ?_)
  split
  · exact Store.wf_poisonWord _ hm
  · exact Store.wf_writeWord _ _ hm

/-- A write of bytes to local memory keeps its canonical form. -/
theorem State.mergeLocal_wf (s : State) (who : Who) (hint a : Nat) (data : List Byte) (h : s.mem.wf = true) :
    (s.mergeLocal who hint a data).mem.wf = true := by
  unfold State.mergeLocal
  split
  · exact h
  · dsimp only
    apply State.cacheAccess_wf
    refine foldl_keeps (fun t : State => t.mem.wf = true) _ _ _ h (fun t i ht => ?_)
    split
    · exact Store.wf_writeWord _ _ ht
    · split
      · exact Store.wf_writeWord _ _ (State.noteWord_wf _ _ _ _ _ ht)
      · exact Store.wf_poisonWord _ (by rw [State.logError_mem, State.count_mem]; exact ht)
      · exact Store.wf_poisonWord _ (by rw [State.logError_mem, State.count_mem]; exact ht)

end Sys2Proof.Machine
end

