-- ==== Sys2Proof/Laws/Work.lean ====
section
/-!
SUPPORT. What the shared operations over memory, rings and the ends of work can change: for each, the parts of the state that it may
change, and the register fields.
-/
namespace Sys2Proof.Machine

/-! ### The cache and local memory -/

/-- What an eviction changes: marks of words, and the list of failed words that are still to be logged. -/
theorem State.evict_only (s : State) (v : Option CacheLine) : ∃ m p, s.evict v = { s with mem := m, power := p } := by
  unfold State.evict
  split
  · split
    · exact ⟨_, _, rfl⟩
    · exact ⟨s.mem, s.power, rfl⟩
  · exact ⟨s.mem, s.power, rfl⟩

@[simp] theorem State.evict_rd (s : State) (v : Option CacheLine) (k : FKind) (i : Nat) : (s.evict v).rd k i = s.rd k i := by
  obtain ⟨m, p, e⟩ := s.evict_only v
  rw [e]; rfl

/-- An access of the cache changes its lines, its counters and marks of words. -/
theorem State.cacheLine_only (s : State) (bad : List Nat) (hint : Nat) (write whole : Bool) (line : Nat) :
    ∃ m c p l, s.cacheLine bad hint write whole line = { s with mem := m, csr := c, power := p, cache := l } := by
  have hc : ∀ (s : State) (k : FKind) (i : Nat), integrityPlace k i = none →
      s.count k i = s.wr k i (min (s.rd k i + 1) (2 ^ k.info.width - 1)) := by
    intro s k i h; simp [State.count, h]
  unfold State.cacheLine
  simp only [hc _ .cacheHit _ rfl, hc _ .cacheMiss _ rfl, hc _ .cacheDrop _ rfl]
  have he : ∀ (t : State) (v : Option CacheLine), (∃ c l, t = { s with csr := c, cache := l }) →
      ∃ m c p l, t.evict v = { s with mem := m, csr := c, power := p, cache := l } := by
    rintro _ v ⟨c, l, rfl⟩
    obtain ⟨m, p, e⟩ := State.evict_only { s with csr := c, cache := l } v
    exact ⟨m, c, p, l, e⟩
  repeat' split
  all_goals first
    | exact ⟨s.mem, _, s.power, _, rfl⟩
    | exact he _ _ ⟨_, _, rfl⟩

/-- Register fields that the cache counts in. -/
theorem State.cacheLine_rd (s : State) (bad : List Nat) (hint : Nat) (write whole : Bool) (line : Nat) (k : FKind) (i : Nat)
    (h : k ∉ [FKind.cacheHit, .cacheMiss, .cacheDrop]) : (s.cacheLine bad hint write whole line).rd k i = s.rd k i := by
  have h1 : k ≠ .cacheHit := fun e => h (by simp [e])
  have h2 : k ≠ .cacheMiss := fun e => h (by simp [e])
  have h3 : k ≠ .cacheDrop := fun e => h (by simp [e])
  have hc : ∀ (s : State) (k' : FKind) (j : Nat), k ≠ k' → (s.count k' j).rd k i = s.rd k i := by
    intro s k' j h; rw [State.count_rd, if_neg (by simp [h])]
  unfold State.cacheLine
  extract_lets die lines put s1 rest s2 new allocate
  split
  · split
    · exact (hc _ _ _ h3).trans ((State.rd_congr rfl k i).trans (hc s _ _ h1))
    · exact (State.rd_congr rfl k i).trans (hc s _ _ h1)
  · split
    · exact (State.evict_rd ..).trans ((State.rd_congr rfl k i).trans (hc s _ _ h2))
    · exact hc s _ _ h2

/-- A fold whose step changes some parts only changes those parts only. -/
theorem foldl_rel {α β : Type} (R : β → β → Prop) (refl : ∀ b, R b b) (trans : ∀ a b c, R a b → R b c → R a c) (f : β → α → β)
    (hf : ∀ b a, R b (f b a)) (l : List α) (b : β) : R b (l.foldl f b) := by
  induction l generalizing b with
  | nil => exact refl b
  | cons a l ih => exact trans _ _ _ (hf b a) (ih (f b a))

theorem State.cacheAccess_only (s : State) (bad : List Nat) (hint : Nat) (write : Bool) (a len : Nat) :
    ∃ m c p l, s.cacheAccess bad hint write a len = { s with mem := m, csr := c, power := p, cache := l } := by
  unfold State.cacheAccess
  split
  · exact ⟨s.mem, s.csr, s.power, s.cache, rfl⟩
  · apply foldl_rel (fun s t : State => ∃ m c p l, t = { s with mem := m, csr := c, power := p, cache := l })
    · exact fun b => ⟨b.mem, b.csr, b.power, b.cache, rfl⟩
    · rintro a b c ⟨_, _, _, _, rfl⟩ ⟨_, _, _, _, rfl⟩; exact ⟨_, _, _, _, rfl⟩
    · intro b a; exact b.cacheLine_only _ _ _ _ _

theorem State.cacheAccess_rd (s : State) (bad : List Nat) (hint : Nat) (write : Bool) (a len : Nat) (k : FKind) (i : Nat)
    (h : k ∉ [FKind.cacheHit, .cacheMiss, .cacheDrop]) : (s.cacheAccess bad hint write a len).rd k i = s.rd k i := by
  unfold State.cacheAccess
  split
  · rfl
  · exact foldl_rel (fun s t : State => t.rd k i = s.rd k i) (fun _ => rfl) (fun _ _ _ e e' => e'.trans e) _
      (fun b a => b.cacheLine_rd _ _ _ _ _ _ _ h) _ _

/-- A write of local memory changes the memory, the cache and its counters. -/
theorem State.writeLocal_only (s : State) (hint a : Nat) (data : List Byte) (bad : List Nat) :
    ∃ m c p l, s.writeLocal hint a data bad = { s with mem := m, csr := c, power := p, cache := l } := by
  unfold State.writeLocal
  obtain ⟨m, c, p, l, e⟩ := State.cacheAccess_only { s with mem := _ } [] hint true a data.length
  exact ⟨m, c, p, l, e⟩

theorem State.writeLocal_rd (s : State) (hint a : Nat) (data : List Byte) (bad : List Nat) (k : FKind) (i : Nat)
    (h : k ∉ [FKind.cacheHit, .cacheMiss, .cacheDrop]) : (s.writeLocal hint a data bad).rd k i = s.rd k i := by
  unfold State.writeLocal
  exact (State.cacheAccess_rd _ _ _ _ _ _ _ _ h).trans rfl

/-- The register fields that say where an address lies and whether a cache serves it. -/
def mapKinds : List FKind := [.memMode, .fastInterleave, .pinValid, .pinStackMask, .pinReserve, .pinGibPerStack]

/-- Two states hold the same memory and the same cache under the same map. -/
def SameMap (s t : State) : Prop :=
  t.mem = s.mem ∧ t.cache = s.cache ∧ t.part1024 = s.part1024 ∧ ∀ k ∈ mapKinds, ∀ i, t.rd k i = s.rd k i

theorem SameMap.dieOf {s t : State} (h : SameMap s t) (a : Nat) : t.dieOf a = s.dieOf a := by
  obtain ⟨_, _, hp, hk⟩ := h
  have h1 := hk .memMode (by decide); have h2 := hk .fastInterleave (by decide); have h3 := hk .pinValid (by decide)
  have h4 := hk .pinStackMask (by decide); have h5 := hk .pinReserve (by decide); have h6 := hk .pinGibPerStack (by decide)
  have hw : t.pinWindows = s.pinWindows := by simp only [State.pinWindows, State.stackGiB, State.bit, hp, h3, h4, h5, h6]
  have hc : t.channelOf a = s.channelOf a := by unfold State.channelOf; rw [hw]
  have hb : t.fastBytes = s.fastBytes := by unfold State.fastBytes; rw [h1]
  have hi : t.bit .fastInterleave 0 = s.bit .fastInterleave 0 := by unfold State.bit; rw [h2]
  unfold State.dieOf State.fastDie
  rw [hc, hb, hi]

/-- Counting an access of the cache keeps the map. -/
theorem SameMap.count {s t : State} (h : SameMap s t) (k' : FKind) (j : Nat) (hk : k' ∉ mapKinds) : SameMap (s.count k' j) (t.count k' j) := by
  obtain ⟨hm, hc, hp, hr⟩ := h
  refine ⟨by rw [State.count_mem, State.count_mem, hm], ?_, ?_, fun k hk' i => ?_⟩
  · simp [hc]
  · simp [hp]
  · have : k ≠ k' := fun e => hk (e ▸ hk')
    rw [State.count_rd, State.count_rd, if_neg (by simp [this]), if_neg (by simp [this]), hr k hk' i]

/-- An access of one line in two states that agree on the map leaves them in agreement. -/
theorem SameMap.cacheLine {s t : State} (h : SameMap s t) (bad : List Nat) (hint : Nat) (write whole : Bool) (line : Nat) :
    SameMap (s.cacheLine bad hint write whole line) (t.cacheLine bad hint write whole line) := by
  have hd := h.dieOf (line * 256)
  have hf : t.fills bad hint line = s.fills bad hint line := by simp only [State.fills, h.1]
  have hput : ∀ {u v : State}, SameMap u v → ∀ l : Sp (List CacheLine), SameMap { u with cache := l } { v with cache := l } :=
    fun hu l => ⟨hu.1, rfl, hu.2.2.1, hu.2.2.2⟩
  have hev : ∀ {u v : State} (x : Option CacheLine), SameMap u v → SameMap (u.evict x) (v.evict x) := by
    intro u v x hu
    cases x with
    | none => exact hu
    | some l =>
      simp only [State.evict]
      split
      · exact ⟨by show v.mem.writeBack _ = u.mem.writeBack _; rw [hu.1], hu.2.1, hu.2.2.1, hu.2.2.2⟩
      · exact hu
  have h1 : ∀ k, k ∈ [FKind.cacheHit, .cacheMiss, .cacheDrop] → k ∉ mapKinds := by decide
  unfold State.cacheLine
  have hs : t.cacheSets = s.cacheSets := by simp only [State.cacheSets, h.2.2.2 .memMode (by decide)]
  simp only [hd, hf, hs, h.2.1]
  have hh := h.count .cacheHit (s.dieOf (line * 256)) (by decide)
  have hm := h.count .cacheMiss (s.dieOf (line * 256)) (by decide)
  rw [hh.2.1, hm.2.1]
  repeat' split
  all_goals first
    | exact hm
    | exact hput hh _
    | exact (hput hh _).count _ _ (by decide)
    | exact hev _ (hput hm _)

theorem SameMap.cacheAccess {s t : State} (h : SameMap s t) (bad : List Nat) (hint : Nat) (write : Bool) (a len : Nat) :
    SameMap (s.cacheAccess bad hint write a len) (t.cacheAccess bad hint write a len) := by
  have hc : t.cached = s.cached := by simp only [State.cached, h.2.2.2 .memMode (by decide)]
  unfold State.cacheAccess
  simp only [hc]
  split
  · exact h
  next hne =>
    clear hne hc
    generalize List.range _ = l
    induction l generalizing s t with
    | nil => exact h
    | cons x r ih =>
      have hn := h.cacheLine bad hint write (decide (a ≤ (a / 256 + x) * 256) && decide ((a / 256 + x) * 256 + 256 ≤ a + len)) (a / 256 + x)
      exact ih hn

/-- What a write of local memory stores depends on the memory, the cache and the map before it alone. -/
theorem State.writeLocal_mem_congr {s t : State} (h : SameMap s t) (hint a : Nat) (data : List Byte) (bad : List Nat) :
    (t.writeLocal hint a data bad).mem = (s.writeLocal hint a data bad).mem := by
  have h' : ∀ m, SameMap { s with mem := m } { t with mem := m } := fun m => ⟨rfl, h.2.1, h.2.2.1, h.2.2.2⟩
  simp only [State.writeLocal, h.1]
  exact ((h' _).cacheAccess [] hint true a data.length).1

/-- Two states agree but for registers, memory, cache, telemetry and the contrail record: what a read of local memory may change. -/
def ReadOnly (s t : State) : Prop := ∃ m c p l q, t = { s with mem := m, csr := c, power := p, cache := l, contrail := q }

theorem ReadOnly.refl (s : State) : ReadOnly s s := ⟨_, _, _, _, _, rfl⟩
theorem ReadOnly.trans {a b c : State} (h : ReadOnly a b) (h' : ReadOnly b c) : ReadOnly a c := by
  obtain ⟨_, _, _, _, _, rfl⟩ := h; obtain ⟨_, _, _, _, _, rfl⟩ := h'; exact ⟨_, _, _, _, _, rfl⟩
theorem State.wr_readOnly (s : State) (k : FKind) (i v : Nat) : ReadOnly s (s.wr k i v) := ⟨_, _, _, _, _, rfl⟩
theorem State.count_readOnly (s : State) (k : FKind) (i n : Nat) : ReadOnly s (s.count k i n) := by
  unfold State.count; cases integrityPlace k i <;> exact ⟨_, _, _, _, _, rfl⟩
theorem State.raise_readOnly (s : State) (k : FKind) (i b : Nat) : ReadOnly s (s.raise k i b) := by
  unfold State.raise; split <;> exact ⟨_, _, _, _, _, rfl⟩
theorem State.contrailAdd_readOnly (s : State) (kind flask code : Nat) (arg : List Byte) : ReadOnly s (s.contrailAdd kind flask code arg) := by
  unfold State.contrailAdd; split
  · exact ⟨_, _, _, _, _, rfl⟩
  · exact ReadOnly.trans ⟨_, _, _, _, _, rfl⟩ (State.count_readOnly _ _ _ _)

/-- The register fields that a read of memory may change: the cache's and the integrity counters and log, and what they raise. -/
def readKinds : List FKind :=
  [.cacheHit, .cacheMiss, .cacheDrop, .eccCe, .eccUe, .eccCeSram, .eccUeSram, .poisonReads, .errAddr, .errStore, .errKind, .errRequester,
   .errFlask, .errTime, .errMask, .errDevice, .errLogTail, .logOverrun, .ueSeen, .ceOver, .hostIntCause, .ctLost]

theorem State.contrailAdd_rd (s : State) (kind flask code : Nat) (arg : List Byte) (k : FKind) (i : Nat) (h : k ≠ .ctLost) :
    (s.contrailAdd kind flask code arg).rd k i = s.rd k i := by
  unfold State.contrailAdd; split
  · rfl
  · rw [State.count_rd, if_neg (by simp [h])]; rfl

theorem State.logError_readOnly (s : State) (addr store kind : Nat) (who : Who) (mask : Nat) : ReadOnly s (s.logError addr store kind who mask) := by
  unfold State.logError
  extract_lets tail i s1 s2 s3
  refine ReadOnly.trans ?_ (State.contrailAdd_readOnly _ _ _ _ _)
  have h1 : ReadOnly s s1 := by
    simp only [s1]; split
    · exact State.wr_readOnly _ _ _ _
    · exact ReadOnly.refl s
  have h2 : ReadOnly s1 s2 := by
    simp only [s2]
    iterate 8 refine ReadOnly.trans ?_ (State.wr_readOnly _ _ _ _)
    exact State.wr_readOnly _ _ _ _
  have h3 : ReadOnly s2 s3 := by
    simp only [s3]; split
    · exact State.raise_readOnly _ _ _ _
    · exact State.wr_readOnly _ _ _ _
  exact (h1.trans h2).trans h3

theorem State.logError_rd (s : State) (addr store kind : Nat) (who : Who) (mask : Nat) (k : FKind) (i : Nat) (h : k ∉ readKinds) :
    (s.logError addr store kind who mask).rd k i = s.rd k i := by
  simp only [readKinds, List.mem_cons, List.not_mem_nil, or_false, not_or] at h
  have hw : ∀ (s : State) (k' : FKind) (j v : Nat), k ≠ k' → (s.wr k' j v).rd k i = s.rd k i := fun s k' j v h => State.rd_wr_ne s _ _ _ h
  unfold State.logError
  extract_lets tail j s1 s2 s3
  rw [State.contrailAdd_rd _ _ _ _ _ _ _ (by simp [h])]
  have h1 : s1.rd k i = s.rd k i := by
    simp only [s1]; split
    · exact hw _ _ _ _ (by simp [h])
    · rfl
  have h2 : s2.rd k i = s1.rd k i := by
    simp only [s2]
    rw [hw _ _ _ _ (by simp [h]), hw _ _ _ _ (by simp [h]), hw _ _ _ _ (by simp [h]), hw _ _ _ _ (by simp [h]), hw _ _ _ _ (by simp [h]),
      hw _ _ _ _ (by simp [h]), hw _ _ _ _ (by simp [h]), hw _ _ _ _ (by simp [h]), hw _ _ _ _ (by simp [h])]
  have h3 : s3.rd k i = s2.rd k i := by
    simp only [s3]; split
    · exact State.raise_rd_ne _ _ _ _ (by simp [h]) (by simp [h])
    · exact hw _ _ _ _ (by simp [h])
  rw [h3, h2, h1]

theorem State.countCe_readOnly (s : State) (k : FKind) (i : Nat) : ReadOnly s (s.countCe k i) := by
  unfold State.countCe
  simp only
  split
  · split
    · exact ReadOnly.trans (State.count_readOnly _ _ _ _) (State.raise_readOnly _ _ _ _)
    · exact ReadOnly.trans (State.count_readOnly _ _ _ _) (State.wr_readOnly _ _ _ _)
  · exact State.count_readOnly _ _ _ _

theorem State.countCe_rd (s : State) (k' : FKind) (j : Nat) (k : FKind) (i : Nat) (h : k ∉ readKinds) (hk : k ≠ k') :
    (s.countCe k' j).rd k i = s.rd k i := by
  simp only [readKinds, List.mem_cons, List.not_mem_nil, or_false, not_or] at h
  have hc : (s.count k' j).rd k i = s.rd k i := by rw [State.count_rd, if_neg (by simp [hk])]
  unfold State.countCe
  simp only
  split
  · split
    · rw [State.raise_rd_ne _ _ _ _ (by simp [h]) (by simp [h]), hc]
    · rw [State.setBit, State.rd_wr_ne _ _ _ _ (by simp [h]), hc]
  · exact hc

theorem State.noteWord_readOnly (s : State) (who : Who) (mask w : Nat) (r : Rd1) : ReadOnly s (s.noteWord who mask w r) := by
  unfold State.noteWord
  simp only
  split
  · exact ReadOnly.refl s
  · exact ReadOnly.trans ⟨_, _, _, _, _, rfl⟩ (State.countCe_readOnly _ _ _)
  · have h1 : ReadOnly s { s with mem := s.mem.stuckWord w } := ⟨_, _, _, _, _, rfl⟩
    exact h1.trans ((State.count_readOnly _ _ _ _).trans (State.logError_readOnly _ _ _ _ _ _))
  · exact ReadOnly.trans (State.count_readOnly _ _ _ _) (State.logError_readOnly _ _ _ _ _ _)

theorem State.noteWord_rd (s : State) (who : Who) (mask w : Nat) (r : Rd1) (k : FKind) (i : Nat) (h : k ∉ readKinds) :
    (s.noteWord who mask w r).rd k i = s.rd k i := by
  have h' := h
  simp only [readKinds, List.mem_cons, List.not_mem_nil, or_false, not_or] at h'
  unfold State.noteWord
  simp only
  split
  · rfl
  · rw [State.countCe_rd _ _ _ _ _ h (by split <;> simp [h'])]; rfl
  · have hk : ¬ (k = (if s.inSram (8 * w) = true then FKind.eccUeSram else FKind.eccUe) ∧ i = s.dieOf (8 * w)) := by
      rintro ⟨e, _⟩; revert e; split <;> simp [h']
    rw [State.logError_rd _ _ _ _ _ _ _ _ h, State.count_rd, if_neg hk]; rfl
  · rw [State.logError_rd _ _ _ _ _ _ _ _ h, State.count_rd, if_neg (by simp [h'])]

/-- A read of local memory changes registers, marks of words, the cache, telemetry and the contrail record. -/
theorem State.readWords_rel (R : State → State → Prop) (refl : ∀ s, R s s) (trans : ∀ a b c, R a b → R b c → R a c)
    (hn : ∀ s who m w r, R s (State.noteWord s who m w r)) (s : State) (who : Who) (first n : Nat) : R s (s.readWords who first n).2 := by
  have hreq : ∀ (s : State) (a b : Nat), R s (s.readRequest who a b).2 := by
    intro s a b
    unfold State.readRequest
    exact foldl_rel R refl trans _ (fun b a => hn _ _ _ _ _) _ _
  unfold State.readWords
  generalize requests (n + 1) first n = l
  generalize ({ bytes := [] } : RdRes) = r0
  induction l generalizing s r0 with
  | nil => exact refl s
  | cons q l ih => exact trans _ _ _ (hreq s q.1 q.2) (ih _ _)

theorem State.fillLines_rel (R : State → State → Prop) (refl : ∀ s, R s s) (trans : ∀ a b c, R a b → R b c → R a c)
    (hn : ∀ s who m w r, R s (State.noteWord s who m w r)) (s : State) (who : Who) (hint a len : Nat) :
    R s (s.fillLines who hint a len) := by
  unfold State.fillLines
  split
  · exact refl s
  · exact foldl_rel R refl trans _ (fun b l => foldl_rel R refl trans _ (fun b e => hn _ _ _ _ _) _ _) _ _

theorem State.readLocal_rel (R : State → State → Prop) (refl : ∀ s, R s s) (trans : ∀ a b c, R a b → R b c → R a c)
    (hn : ∀ s who m w r, R s (State.noteWord s who m w r)) (hc : ∀ s b h w a n, R s (State.cacheAccess s b h w a n))
    (hf : ∀ s w, R s { s with mem := State.mem s |>.forget w }) (s : State) (who : Who) (hint a len : Nat) :
    R s (s.readLocal who hint a len).2 := by
  unfold State.readLocal
  split
  · exact refl s
  · extract_lets w0 n r gone bad s1 s2
    have h1 : R s r.2 := State.readWords_rel R refl trans hn s who w0 n
    have h2 : R r.2 s1 := trans _ _ _ (State.fillLines_rel R refl trans hn _ _ _ _ _) (hc _ _ _ _ _ _)
    have h3 : R s1 s2 := foldl_rel R refl trans _ (fun b a => foldl_rel R refl trans _ (fun b a => hf b _) _ _) _ _
    exact trans _ _ _ (trans _ _ _ h1 h2) h3

theorem State.readLocal_only (s : State) (who : Who) (hint a len : Nat) : ReadOnly s (s.readLocal who hint a len).2 :=
  State.readLocal_rel ReadOnly ReadOnly.refl (fun _ _ _ => ReadOnly.trans) (fun s who m w r => s.noteWord_readOnly who m w r)
    (fun s b h w a n => by obtain ⟨m, c, p, l, e⟩ := s.cacheAccess_only b h w a n; exact ⟨_, _, _, _, _, e⟩)
    (fun s w => ⟨_, _, _, _, _, rfl⟩) s who hint a len

theorem State.readLocal_rd (s : State) (who : Who) (hint a len : Nat) (k : FKind) (i : Nat) (h : k ∉ readKinds) :
    (s.readLocal who hint a len).2.rd k i = s.rd k i :=
  State.readLocal_rel (fun s t => t.rd k i = s.rd k i) (fun _ => rfl) (fun _ _ _ e e' => e'.trans e)
    (fun s who m w r => s.noteWord_rd who m w r k i h)
    (fun s b hi w a n => s.cacheAccess_rd b hi w a n k i (fun hk => h (by
      simp only [readKinds, List.mem_cons, List.not_mem_nil, or_false] at hk ⊢; rcases hk with h | h | h <;> simp [h])))
    (fun _ _ => rfl) s who hint a len

/-- A fetch of one local range reads it. -/
theorem State.fetch_local (s : State) (who : Who) (pour : Option Nat) (q : Span) (hl : q.len ≠ 0) (hf : farKey q.key = false)
    (hd : s.drains q.key q.len = false) :
    s.fetch who pour [q] = .got [(s.readLocal who q.hint q.key q.len).1] (s.readLocal who q.hint q.key q.len).2 := by
  simp [State.fetch, State.askAll, State.take1, hl, hf, hd]

/-! ### Rings, events and records -/

theorem State.fire_only (s : State) (v : Nat) : ∃ h, s.fire v = { s with host := h } := by
  unfold State.fire; split
  · exact ⟨_, rfl⟩
  · exact ⟨_, rfl⟩

theorem State.eqFire_only (s : State) (f : Nat) : ∃ c h, s.eqFire f = { s with csr := c, host := h } := by
  unfold State.eqFire; split
  · obtain ⟨h, e⟩ := s.fire_only (s.flaskVector f true)
    rw [e]; exact ⟨_, _, rfl⟩
  · exact ⟨_, _, rfl⟩

theorem State.eqFire_rd (s : State) (f : Nat) (k : FKind) (i : Nat) (h : k ≠ .eqArmed) : (s.eqFire f).rd k i = s.rd k i := by
  unfold State.eqFire; split
  · simp [State.rd_wr, h]
  · rfl

theorem State.cqFire_only (s : State) (f : Nat) : ∃ c h, s.cqFire f = { s with csr := c, host := h } := by
  unfold State.cqFire; split
  · obtain ⟨h, e⟩ := s.fire_only (s.flaskVector f false)
    rw [e]; exact ⟨_, _, rfl⟩
  · exact ⟨_, _, rfl⟩

theorem State.cqFire_rd (s : State) (f : Nat) (k : FKind) (i : Nat) (h : k ≠ .cqArmed) : (s.cqFire f).rd k i = s.rd k i := by
  unfold State.cqFire; split
  · simp [State.rd_wr, h]
  · rfl

/-- An event changes the memory where its ring lies, and registers. -/
theorem State.event_only (s : State) (r : EvRec) :
    ∃ m c p l h, s.event r = { s with mem := m, csr := c, power := p, cache := l, host := h } := by
  unfold State.event
  simp only
  split
  · obtain ⟨m, c, p, l, e⟩ := s.writeLocal_only 0 (s.ringSlot .eqBaseLo .eqBaseHi .eqSizeLog2 .eqTail (ladleFlask r.ladle))
      (r.bytes (ringPhase (s.rd .eqTail (ladleFlask r.ladle)) (s.rd .eqSizeLog2 (ladleFlask r.ladle))) s.now) []
    rw [e]
    obtain ⟨c', h', e'⟩ := State.eqFire_only
      (({ s with mem := m, csr := c, power := p, cache := l } : State).wr .eqTail (ladleFlask r.ladle) (s.rd .eqTail (ladleFlask r.ladle) + 1))
      (ladleFlask r.ladle)
    exact ⟨m, c', p, l, h', e'⟩
  · refine ⟨s.mem, ((s.setBit .eqOverflow (ladleFlask r.ladle)).count .eqLost (ladleFlask r.ladle)).csr, s.power, s.cache, s.host, ?_⟩
    simp [State.count, integrityPlace]; rfl

/-- The register fields that an event may change. -/
theorem State.event_rd (s : State) (r : EvRec) (k : FKind) (i : Nat)
    (h : k ∉ [FKind.cacheHit, .cacheMiss, .cacheDrop, .eqTail, .eqArmed, .eqOverflow, .eqLost]) : (s.event r).rd k i = s.rd k i := by
  simp only [List.mem_cons, List.not_mem_nil, or_false, not_or] at h
  obtain ⟨h1, h2, h3, h4, h5, h6, h7⟩ := h
  unfold State.event
  simp only
  split
  · rw [State.eqFire_rd _ _ _ _ h5, State.rd_wr_ne _ _ _ _ h4, State.writeLocal_rd _ _ _ _ _ _ _ (by simp [h1, h2, h3])]
  · rw [State.count_rd, if_neg (by simp [h7]), State.setBit, State.rd_wr_ne _ _ _ _ h6]

theorem State.cqWrite_only (s : State) (f : Nat) (r : CqRec) :
    ∃ m c p l h, s.cqWrite f r = { s with mem := m, csr := c, power := p, cache := l, host := h } := by
  unfold State.cqWrite
  simp only
  obtain ⟨m, c, p, l, e⟩ := s.writeLocal_only 0 (s.ringSlot .cqBaseLo .cqBaseHi .cqSizeLog2 .cqTail f)
    (r.bytes (ringPhase (s.rd .cqTail f) (s.rd .cqSizeLog2 f)) s.now) []
  rw [e]
  obtain ⟨c', h', e'⟩ := State.cqFire_only
    (({ s with mem := m, csr := c, power := p, cache := l } : State).wr .cqTail f (s.rd .cqTail f + 1)) f
  exact ⟨m, c', p, l, h', e'⟩

theorem State.cqWrite_rd (s : State) (f : Nat) (r : CqRec) (k : FKind) (i : Nat)
    (h : k ∉ [FKind.cacheHit, .cacheMiss, .cacheDrop, .cqTail, .cqArmed]) : (s.cqWrite f r).rd k i = s.rd k i := by
  simp only [List.mem_cons, List.not_mem_nil, or_false, not_or] at h
  obtain ⟨h1, h2, h3, h4, h5⟩ := h
  unfold State.cqWrite
  simp only
  rw [State.cqFire_rd _ _ _ _ h5, State.rd_wr_ne _ _ _ _ h4, State.writeLocal_rd _ _ _ _ _ _ _ (by simp [h1, h2, h3])]

/-- The memory after a completion record: its 32 bytes stand at the ring's TAIL. -/
theorem State.cqWrite_mem (s : State) (f : Nat) (r : CqRec) :
    (s.cqWrite f r).mem = (s.writeLocal 0 (s.ringSlot .cqBaseLo .cqBaseHi .cqSizeLog2 .cqTail f)
      (r.bytes (ringPhase (s.rd .cqTail f) (s.rd .cqSizeLog2 f)) s.now) []).mem := by
  unfold State.cqWrite
  simp only
  obtain ⟨c, h, e⟩ := State.cqFire_only ((s.writeLocal 0 (s.ringSlot .cqBaseLo .cqBaseHi .cqSizeLog2 .cqTail f)
      (r.bytes (ringPhase (s.rd .cqTail f) (s.rd .cqSizeLog2 f)) s.now) []).wr .cqTail f (s.rd .cqTail f + 1)) f
  rw [e]; rfl

theorem State.cqWrite_tail (s : State) (f : Nat) (r : CqRec) :
    (s.cqWrite f r).rd .cqTail f = (s.rd .cqTail f + 1) % 2 ^ 32 := by
  unfold State.cqWrite
  simp only
  rw [State.cqFire_rd _ _ _ _ (by decide), State.rd_wr_same]; rfl

/-- A completion record is written or held. -/
theorem State.complete_only (s : State) (r : CqRec) :
    ∃ m c p l h q, s.complete r = { s with mem := m, csr := c, power := p, cache := l, host := h, heldCq := q } := by
  unfold State.complete
  simp only
  split
  · obtain ⟨m, c, p, l, h, e⟩ := s.cqWrite_only (ladleFlask r.ladle) r
    exact ⟨m, c, p, l, h, s.heldCq, e⟩
  · exact ⟨_, _, _, _, _, _, rfl⟩

/-- The register fields that a completion record may change. -/
theorem State.complete_rd (s : State) (r : CqRec) (k : FKind) (i : Nat)
    (h : k ∉ [FKind.cacheHit, .cacheMiss, .cacheDrop, .cqTail, .cqArmed, .cqFull]) : (s.complete r).rd k i = s.rd k i := by
  simp only [List.mem_cons, List.not_mem_nil, or_false, not_or] at h
  obtain ⟨h1, h2, h3, h4, h5, h6⟩ := h
  unfold State.complete
  simp only
  split
  · exact State.cqWrite_rd _ _ _ _ _ (by simp [h1, h2, h3, h4, h5])
  · rw [State.setBit, State.rd_wr_ne _ _ _ _ h6]; rfl

/-- A record is written when none is held and the ring has room. -/
theorem State.complete_room (s : State) (r : CqRec) (h : Sp.getD s.heldCq (ladleFlask r.ladle) [] = [])
    (hr : s.cqRoom (ladleFlask r.ladle) = true) : s.complete r = s.cqWrite (ladleFlask r.ladle) r := by
  unfold State.complete; simp [h, hr]

/-! ### Ends -/

theorem State.noteEnded_only (s : State) (n i : Nat) : ∃ l, s.noteEnded n i = { s with ladles := l } := ⟨_, rfl⟩
@[simp] theorem State.noteEnded_rd (s : State) (n i : Nat) (k : FKind) (j : Nat) : (s.noteEnded n i).rd k j = s.rd k j := rfl

/-- A ladle's stop changes its state, its code and what it keeps of FLIPs, and writes one event. -/
theorem State.stopLadle_only (s : State) (n code tag : Nat) :
    ∃ m c p l h ld, s.stopLadle n code tag = { s with mem := m, csr := c, power := p, cache := l, host := h, ladles := ld } := by
  unfold State.stopLadle
  split
  · obtain ⟨m, c, p, l, h, e⟩ := State.event_only (State.onLadle ((s.wr .ladleState n ladleStopped).wr .stopCode n code) n
        (fun r => { r with waits := [], record := none }))
        { event := 0x03, ladle := n, tag := tag, arg0 := s.rd .ladleHead n, code := code }
    rw [e]
    exact ⟨_, _, _, _, _, _, rfl⟩
  · exact ⟨_, _, _, _, _, _, rfl⟩

theorem State.stopLadle_rd (s : State) (n code tag : Nat) (k : FKind) (i : Nat)
    (h : k ∉ [FKind.cacheHit, .cacheMiss, .cacheDrop, .eqTail, .eqArmed, .eqOverflow, .eqLost, .ladleState, .stopCode]) :
    (s.stopLadle n code tag).rd k i = s.rd k i := by
  simp only [List.mem_cons, List.not_mem_nil, or_false, not_or] at h
  obtain ⟨h1, h2, h3, h4, h5, h6, h7, h8, h9⟩ := h
  unfold State.stopLadle
  split
  · rw [State.event_rd _ _ _ _ (by simp [h1, h2, h3, h4, h5, h6, h7]), State.onLadle_rd, State.rd_wr_ne _ _ _ _ h9, State.rd_wr_ne _ _ _ _ h8]
  · rfl

/-- An ACTIVE ladle that stops is STOPPED with the code. -/
theorem State.stopLadle_stops (s : State) (n code tag : Nat) (h : s.rd .ladleState n = 1) :
    (s.stopLadle n code tag).rd .ladleState n = 2 ∧ (s.stopLadle n code tag).rd .stopCode n = code % 2 ^ 16 := by
  unfold State.stopLadle
  rw [if_pos (show s.rd .ladleState n = ladleActive from h)]
  constructor
  · rw [State.event_rd _ _ _ _ (by decide), State.onLadle_rd, State.rd_wr_ne _ _ _ _ (by decide), State.rd_wr_same]; rfl
  · rw [State.event_rd _ _ _ _ (by decide), State.onLadle_rd, State.rd_wr_same]; rfl

theorem State.stopHeat_only (s : State) (n code : Nat) :
    ∃ c h ld, s.stopHeat n code = { s with csr := c, heats := h, ladles := ld } := by
  unfold State.stopHeat
  cases Sp.get? s.heats n with
  | none => exact ⟨_, _, _, rfl⟩
  | some h => exact ⟨_, _, _, rfl⟩

theorem State.stopHeat_rd (s : State) (n code : Nat) (k : FKind) (i : Nat) (h : k ≠ .heatStopPending) :
    (s.stopHeat n code).rd k i = s.rd k i := by
  unfold State.stopHeat
  cases Sp.get? s.heats n with
  | none => rfl
  | some x => simp only [State.setBit]; rw [State.rd_wr_ne _ _ _ _ h]; rfl

/-- The end of a pour changes the pours, what the memory holds at the rings, the ladle's and the heat's state, and registers. -/
theorem State.endPour_only (s : State) (p : Pour) (status detail : Nat) :
    ∃ m c w l h q ps st ld ht, s.endPour p status detail
      = { s with mem := m, csr := c, power := w, cache := l, host := h, heldCq := q, pours := ps, staged := st, ladles := ld, heats := ht } := by
  unfold State.endPour
  simp only
  split
  · exact ⟨_, _, _, _, _, _, _, _, _, _, rfl⟩
  · have h2 : ∃ ld, (if p.heat.isNone = true then (s.dropPour p.id).noteEnded p.ladle p.index else s.dropPour p.id)
        = { s.dropPour p.id with ladles := ld } := by
      split
      · exact ⟨_, rfl⟩
      · exact ⟨_, rfl⟩
    obtain ⟨ld, e2⟩ := h2
    rw [e2]
    have h3 : ∃ m c w l h q, (if status ≠ cOK ∨ p.completeEn = true then
        ({ s.dropPour p.id with ladles := ld } : State).complete (p.record status (s.detailOf p detail))
        else { s.dropPour p.id with ladles := ld })
        = { s.dropPour p.id with ladles := ld, mem := m, csr := c, power := w, cache := l, host := h, heldCq := q } := by
      split
      · obtain ⟨m, c, w, l, h, q, e⟩ := State.complete_only ({ s.dropPour p.id with ladles := ld } : State) (p.record status (s.detailOf p detail))
        exact ⟨m, c, w, l, h, q, e⟩
      · exact ⟨_, _, _, _, _, _, rfl⟩
    obtain ⟨m, c, w, l, h, q, e3⟩ := h3
    simp only [ne_eq, Bool.or_eq_true, decide_eq_true_eq] at e3 ⊢
    rw [e3]
    split
    · exact ⟨_, _, _, _, _, _, _, _, _, _, rfl⟩
    · split
      · obtain ⟨c', ht, ld', e⟩ := State.stopHeat_only ({ s.dropPour p.id with ladles := ld, mem := m, csr := c, power := w, cache := l, host := h, heldCq := q } : State) p.ladle status
        rw [e]; exact ⟨_, _, _, _, _, _, _, _, _, _, rfl⟩
      · obtain ⟨_, _, _, _, _, _, e⟩ := State.stopLadle_only ({ s.dropPour p.id with ladles := ld, mem := m, csr := c, power := w, cache := l, host := h, heldCq := q } : State) p.ladle status p.tag
        rw [e]; exact ⟨_, _, _, _, _, _, _, _, _, _, rfl⟩

/-- The register fields that the end of a pour may change. -/
theorem State.endPour_rd (s : State) (p : Pour) (status detail : Nat) (k : FKind) (i : Nat)
    (h : k ∉ [FKind.cacheHit, .cacheMiss, .cacheDrop, .cqTail, .cqArmed, .cqFull, .eqTail, .eqArmed, .eqOverflow, .eqLost, .ladleState,
      .stopCode, .heatStopPending]) : (s.endPour p status detail).rd k i = s.rd k i := by
  simp only [List.mem_cons, List.not_mem_nil, or_false, not_or] at h
  obtain ⟨h1, h2, h3, h4, h5, h6, h7, h8, h9, h10, h11, h12, h13⟩ := h
  unfold State.endPour
  simp only
  split
  · rfl
  · have e3 : ∀ t : State, (∀ j, t.rd k j = s.rd k j) → (if (status ≠ cOK || p.completeEn) = true then
        t.complete (p.record status (s.detailOf p detail)) else t).rd k i = s.rd k i := by
      intro t ht
      split
      · rw [State.complete_rd _ _ _ _ (by simp [h1, h2, h3, h4, h5, h6]), ht]
      · exact ht i
    have e2 : ∀ j, (if p.heat.isNone = true then (s.dropPour p.id).noteEnded p.ladle p.index else s.dropPour p.id).rd k j = s.rd k j := by
      intro j; split <;> rfl
    split
    · exact e3 _ e2
    · split
      · rw [State.stopHeat_rd _ _ _ _ _ h13]; exact e3 _ e2
      · rw [State.stopLadle_rd _ _ _ _ _ _ (by simp [h1, h2, h3, h7, h8, h9, h10, h11, h12])]; exact e3 _ e2

/-- A pour that has ended is gone. -/
theorem State.dropPour_gone (s : State) (id : Nat) : (s.dropPour id).pour? id = none := by
  simp [State.dropPour, State.pour?]

@[simp] theorem State.onPour_pour? (s : State) (id : Nat) (f : Pour → Pour) (hf : ∀ p, (f p).id = p.id) :
    (s.onPour id f).pour? id = (s.pour? id).map f := by
  simp only [State.onPour, State.pour?]
  induction s.pours with
  | nil => rfl
  | cons p r ih =>
    by_cases h : p.id = id
    · simp [List.find?, h, hf]
    · simp [List.find?, h, ih]

theorem State.pour?_id {s : State} {id : Nat} {p : Pour} (h : s.pour? id = some p) : p.id = id := by
  simpa using List.find?_some h

/-! ### A pour that ends OK -/

/-- The signal of a pour changes its semaphore alone. -/
theorem State.signal_rd (s : State) (p : Pour) (k : FKind) (i : Nat) :
    (s.signal p).rd k i = if k = .sem ∧ i = 64 * p.flask + p.signalSem ∧ p.signals = true then
      (if p.signalOp = 0 then s.rd .sem (64 * p.flask + p.signalSem) + p.signalValue else p.signalValue) % 2 ^ 32 else s.rd k i := by
  unfold State.signal State.semAdd State.semSet
  by_cases h : p.signals = true
  · rw [if_pos h]
    split
    · rw [State.rd_wr]; by_cases h' : k = .sem ∧ i = 64 * p.flask + p.signalSem
      · rw [if_pos h', if_pos ⟨h'.1, h'.2, h⟩]; rfl
      · rw [if_neg h', if_neg (by rintro ⟨a, b, _⟩; exact h' ⟨a, b⟩)]
    · rw [State.rd_wr]; by_cases h' : k = .sem ∧ i = 64 * p.flask + p.signalSem
      · rw [if_pos h', if_pos ⟨h'.1, h'.2, h⟩]; rfl
      · rw [if_neg h', if_neg (by rintro ⟨a, b, _⟩; exact h' ⟨a, b⟩)]
  · simp [h]

theorem State.signal_only (s : State) (p : Pour) : ∃ c, s.signal p = { s with csr := c } := by
  unfold State.signal
  split
  · split
    · exact ⟨_, rfl⟩
    · exact ⟨_, rfl⟩
  · exact ⟨_, rfl⟩

/-! ### What the room of a ring depends on -/

theorem sub_kinds {l m : List FKind} {k : FKind} (h : (l.all (fun x => m.contains x)) = true) (hk : k ∈ l) : k ∈ m := by
  have := List.all_eq_true.mp h k hk
  simpa using this

theorem State.pinWindows_congr {s t : State} (hp : t.part1024 = s.part1024)
    (h : ∀ k ∈ [FKind.pinValid, .pinStackMask, .pinReserve, .pinGibPerStack], ∀ i, t.rd k i = s.rd k i) : t.pinWindows = s.pinWindows := by
  have h1 := h .pinValid (by simp); have h2 := h .pinStackMask (by simp)
  have h3 := h .pinReserve (by simp); have h4 := h .pinGibPerStack (by simp)
  unfold State.pinWindows State.stackGiB State.bit
  simp only [h1, h2, h3, h4, hp]

theorem State.dieOf_congr {s t : State} (hp : t.part1024 = s.part1024)
    (h : ∀ k ∈ [FKind.pinValid, .pinStackMask, .pinReserve, .pinGibPerStack, .memMode, .fastInterleave], ∀ i, t.rd k i = s.rd k i) (a : Nat) :
    t.dieOf a = s.dieOf a := by
  have h1 := h .memMode (by simp); have h2 := h .fastInterleave (by simp)
  unfold State.dieOf State.channelOf State.fastDie State.fastBytes State.bit
  simp only [h1, h2, State.pinWindows_congr hp (fun k hk => h k (sub_kinds (by decide) hk))]

theorem State.drains_congr {s t : State} (hp : t.part1024 = s.part1024)
    (h : ∀ k ∈ [FKind.pinValid, .pinStackMask, .pinReserve, .pinGibPerStack, .memMode, .fastInterleave, .stackClass], ∀ i, t.rd k i = s.rd k i)
    (a n : Nat) : t.drains a n = s.drains a n := by
  have h1 := h .stackClass (by simp)
  unfold State.drains State.diesOf
  simp only [h1, State.dieOf_congr hp (fun k hk => h k (sub_kinds (by decide) hk))]

/-- The room of the completion ring depends on these registers alone. -/
theorem State.cqRoom_congr {s t : State} (hp : t.part1024 = s.part1024)
    (h : ∀ k ∈ [FKind.pinValid, .pinStackMask, .pinReserve, .pinGibPerStack, .memMode, .fastInterleave, .stackClass, .cqBaseLo, .cqBaseHi,
      .cqSizeLog2, .cqEnable, .cqHead, .cqTail], ∀ i, t.rd k i = s.rd k i) (f : Nat) : t.cqRoom f = s.cqRoom f := by
  have h1 := h .cqBaseLo (by simp); have h2 := h .cqBaseHi (by simp); have h3 := h .cqSizeLog2 (by simp)
  have h4 := h .cqEnable (by simp); have h5 := h .cqHead (by simp); have h6 := h .cqTail (by simp); have h7 := h .memMode (by simp)
  unfold State.cqRoom State.ringRoom State.ringSlot State.base State.present State.stackBytes State.fastBytes State.bit
  simp only [h1, h2, h3, h4, h5, h6, h7, hp,
    State.drains_congr hp (fun k hk => h k (sub_kinds (by decide) hk))]

/-- What a completion record does to the state when it is not written: it is held, and CQ_FULL is set. -/
theorem State.complete_held (s : State) (r : CqRec) (h : s.cqRoom (ladleFlask r.ladle) = false) :
    s.complete r = ({ s with heldCq := Sp.put s.heldCq (ladleFlask r.ladle) (Sp.getD s.heldCq (ladleFlask r.ladle) [] ++ [r]) } : State).setBit
      .cqFull (ladleFlask r.ladle) := by
  unfold State.complete
  simp only
  rw [if_neg]
  simp [h]

/-- A pour that is neither cancelled nor cut off ends OK. -/
theorem State.endOk_ended (s : State) (p : Pour) (hc : p.cancelled = false) (hcut : s.cutCovers p.ladle p.index = false) :
    EndedOk s (s.endOk p) p := by
  obtain ⟨c, e⟩ := s.signal_only p
  have hs := s.signal_rd p
  have hu : s.endOk p = (s.signal p).endPour p cOK p.detail := by simp [State.endOk, hc, hcut]
  have hcut' : (s.signal p).cutCovers p.ladle p.index = false := by rw [e]; exact hcut
  have hd : (s.signal p).detailOf p p.detail = s.detailOf p p.detail := by
    unfold State.detailOf; rw [hs .riserAttempt]; simp
  -- the state before the record
  obtain ⟨ld, e2⟩ : ∃ ld, (if p.heat.isNone = true then ((s.signal p).dropPour p.id).noteEnded p.ladle p.index else (s.signal p).dropPour p.id)
      = { (s.signal p).dropPour p.id with ladles := ld } := by
    split <;> exact ⟨_, rfl⟩
  generalize hv : ({ (s.signal p).dropPour p.id with ladles := ld } : State) = v at e2
  have hend : s.endOk p = if p.completeEn = true then v.complete (p.record cOK (s.detailOf p p.detail)) else v := by
    rw [hu]; unfold State.endPour
    simp only [hc, hcut', Bool.or_self, if_false, e2, hd, Bool.false_eq_true]
    by_cases h : p.completeEn = true <;> simp [h]
  have hrd : ∀ k i, v.rd k i = (s.signal p).rd k i := fun k i => by rw [← hv]; rfl
  have hne : ∀ k i, k ≠ .sem → v.rd k i = s.rd k i := fun k i h => by rw [hrd, hs]; simp [h]
  have hpt : v.part1024 = s.part1024 := by rw [← hv, e]; rfl
  have hmem : v.mem = s.mem := by rw [← hv, e]; rfl
  have hheld : v.heldCq = s.heldCq := by rw [← hv, e]; rfl
  have htime : v.now = s.now := by rw [← hv, e]; rfl
  have hgone : v.pour? p.id = none := by rw [← hv]; exact State.dropPour_gone _ _
  have hroom : v.cqRoom (ladleFlask p.ladle) = s.cqRoom (ladleFlask p.ladle) := by
    apply State.cqRoom_congr hpt
    intro k hk i
    apply hne
    rintro rfl
    revert hk; decide
  have hslot : v.ringSlot .cqBaseLo .cqBaseHi .cqSizeLog2 .cqTail (ladleFlask p.ladle)
      = s.ringSlot .cqBaseLo .cqBaseHi .cqSizeLog2 .cqTail (ladleFlask p.ladle) := by
    unfold State.ringSlot State.base
    rw [hne .cqBaseLo _ (by decide), hne .cqBaseHi _ (by decide), hne .cqSizeLog2 _ (by decide), hne .cqTail _ (by decide)]
  -- the record leaves the pours, the semaphores and the ladle alone
  have hk : ∀ k i, k ∉ [FKind.cacheHit, .cacheMiss, .cacheDrop, .cqTail, .cqArmed, .cqFull] → (s.endOk p).rd k i = v.rd k i := by
    intro k i h; rw [hend]; split
    · exact State.complete_rd _ _ _ _ h
    · rfl
  refine ⟨?_, ?_, ?_, ?_, ?_, ?_, ?_⟩
  · rw [hend]; split
    · obtain ⟨_, _, _, _, _, _, e'⟩ := v.complete_only (p.record cOK (s.detailOf p p.detail))
      rw [e']; exact hgone
    · exact hgone
  · intro h; rw [hk _ _ (by decide), hrd, hs]; simp [h]
  · intro i h; rw [hk _ _ (by decide), hrd, hs, if_neg]; rintro ⟨_, h1, h2⟩; exact h h2 h1
  · intro h; rw [hend, if_neg (by simp [h])]
    exact ⟨hmem, hheld, fun f => hne _ _ (by decide)⟩
  · intro h hh hr
    rw [hend, if_pos h, State.complete_room _ _ (by rw [hheld]; exact hh) (by rw [show ladleFlask (p.record cOK _).ladle = ladleFlask p.ladle from rfl, hroom]; exact hr)]
    refine ⟨?_, ?_, ?_⟩
    · rw [show (p.record cOK (s.detailOf p p.detail)).ladle = p.ladle from rfl, State.cqWrite_tail, hne _ _ (by decide)]
    · obtain ⟨_, _, _, _, _, e'⟩ := v.cqWrite_only (ladleFlask p.ladle) (p.record cOK (s.detailOf p p.detail))
      rw [show (p.record cOK (s.detailOf p p.detail)).ladle = p.ladle from rfl, e']; exact hheld
    · rw [show (p.record cOK (s.detailOf p p.detail)).ladle = p.ladle from rfl, State.cqWrite_mem, hslot, hne .cqTail _ (by decide),
        hne .cqSizeLog2 _ (by decide), htime]
      exact State.writeLocal_mem_congr ⟨hmem, by rw [← hv, e]; rfl, hpt, fun k hk' i => hne k i (by rintro rfl; revert hk'; decide)⟩ _ _ _ _
  · intro h hr
    rw [hend, if_pos h, State.complete_held _ _ (by rw [show ladleFlask (p.record cOK _).ladle = ladleFlask p.ladle from rfl, hroom]; exact hr)]
    refine ⟨hmem, ?_, ?_⟩
    · simp [State.setBit, State.wr, hheld, Pour.record]
    · simp [State.setBit, State.bit, Pour.record]; decide
  · intro n; exact ⟨(hk _ _ (by decide)).trans (hne _ _ (by decide)), (hk _ _ (by decide)).trans (hne _ _ (by decide))⟩

/-- Driving the outputs changes nothing of how a pour has ended. -/
theorem EndedOk.settle {s t : State} {p : Pour} (h : EndedOk s t p) : EndedOk s (settle t) p := by
  obtain ⟨h1, h2, h3, h4, h5, h6, h7⟩ := h
  exact ⟨by simpa [State.pour?] using h1, by simpa using h2, by simpa using h3, by simpa using h4, by simpa using h5, by simpa using h6,
    by simpa using h7⟩

end Sys2Proof.Machine
end

