-- ==== Sys2Proof/WellFormed.lean ====
section
/-!
DEFINITION. Which commands are well formed: every index, offset, count and field within the range that the specification gives
it. The machine is total on ill-formed commands too; a sender of the specification sends none.
-/
namespace Sys2Proof

/-- Flasks are 0 to 63 (R547), and VF v serves flask v from 1 upward (R832, R854). -/
def Fn.wf : Fn → Bool
  | .pf0 => true
  | .vf v => decide (1 ≤ v ∧ v < 64)

/-- PF0 mailboxes 0 to 7 and the mailboxes of VFs 1 to 63 (R861). -/
def Box.wf : Box → Bool
  | .pf m => decide (m < 8)
  | .vf v => decide (1 ≤ v ∧ v < 64)
  | _ => true

def RegPort.wf : RegPort → Bool
  | .bar0 fn | .bar4 fn | .config fn => fn.wf
  | _ => true

/-- The fields of a flit header within their widths (R671). -/
def Flit.headerWf (x : Flit) : Bool :=
  decide (x.tc < 4) && decide (x.startOff < 256) && decide (x.seq < 4096) && decide (x.ack < 4096)
    && decide (x.creditTc0 < 4096) && decide (x.creditTc1 < 4096) && decide (x.creditTc2 < 4096) && decide (x.creditTc3 < 4096)

/-- A flit: its header fields within their widths and at most 240 payload bytes (R670, R671). -/
def Flit.wf (x : Flit) : Bool := x.headerWf && decide (x.payload.length ≤ 240)

/-- 16 stacks, 4 compute dies and 8 optical engines (R959). -/
def ThermalUnit.wf : ThermalUnit → Bool
  | .stack s => decide (s < 16)
  | .die d => decide (d < 4)
  | .engine e => decide (e < 8)

/-- Whether a command is well formed. -/
def Instr.wf : Instr → Bool
  | .vin50Rise straps => decide (straps < 16)
  | .selftestPhaseEnd arrays routers srams =>
    arrays.all (fun a => decide (a.1 < 512)) && routers.all (fun a => decide (a < 512)) && srams.all (fun d => decide (d < 16))
  | .stackQualificationEnd stack results =>
    decide (stack < 16) && results.all (fun r => decide (r.stack = stack) && decide (r.channel < 64))
  | .flrVf v => decide (1 ≤ v ∧ v < 64)
  | .bar2Read fn _ len => fn.wf && decide (0 < len ∧ len ≤ 4096)
  | .bar2Write fn _ data _ => fn.wf && decide (0 < data.length ∧ data.length ≤ 512)
  | .doorbell fn page _ => fn.wf && decide (page < 256)
  | .registerWrite port off be _ => port.wf && decide (off % 4 = 0) && decide (be < 256)
  | .rcCounterRead port _ len => port.wf && decide (0 < len ∧ len ≤ 4096)
  | .almanacNowLoRead fn => fn.wf
  | .semWrite n _ => decide (n < 4096)
  | .cqHeadWrite f _ => decide (f < 64)
  | .eqHeadWrite f _ => decide (f < 64)
  | .ladleHeadWrite n _ => decide (n < 256)
  | .resume n => decide (n < 256)
  | .abort n => decide (n < 256)
  | .abortCancelDone n => decide (n < 256)
  | .flaskReset f => decide (f < 64)
  | .flaskResetDone f => decide (f < 64)
  | .almanacEntryArm e _ _ => decide (e < 4096)
  | .almanacEntryFree e _ _ => decide (e < 4096)
  | .watchAvgWrite n _ => decide (n < 4096)
  | .tableRegisterWrite n _ be _ => decide (n < 256) && decide (0 < be ∧ be < 256)
  | .groupEntryWrite g word _ => decide (g < 256) && decide (word < 6)
  | .portCfgWrite port _ => decide (port < 32)
  | .mboxGo box _ => box.wf
  | .getInfo box | .flaskEnable box | .flaskDisable box | .setAllot box | .watchAllot box | .segWrite box | .segRead box
  | .almanacArm box | .almanacFree box | .tableWrite box | .groupWrite box | .lend box | .loanEnd box | .mapBay box
  | .revokeBay box | .unmapBay box | .setModes box | .getPower box | .cfgRead box | .cfgWrite box | .start box | .stop box
  | .getStartup box | .getCert box | .getEvidence box | .fwBegin box | .fwWrite box | .fwVerify box | .fwActivate box
  | .fwCommit box | .debugChallenge box | .debugUnlock box | .retireArm box | .retire box | .lifecycleProduction box
  | .contrailClear box | .contrailRead box | .tgenResult box => box.wf
  | .tgenRun box results => box.wf && results.all (fun r => decide (r.stack < 16) && decide (r.channel < 64))
  | .mboxWord port => decide (port < 32)
  | .bypass code => decide (code < 256)
  | .temperatureSample stackTemps dies engines =>
    decide (stackTemps.length = 16) && decide (dies.length = 4) && decide (engines.length = 8)
  | .thermalClassExit unit => unit.wf
  | .beacon port => decide (port < 32)
  | .delayResp port => decide (port < 32)
  | .collPhase e | .slice e | .scrub e | .telemetry e | .bayDeadline e | .heatGate e | .entryWindowClose e
  | .deferLeadCheck e => decide (e < 4096)
  | .shift port => decide (port < 32)
  | .groupAbort port => decide (port < 32)
  | .scrubPage stack => decide (stack < 16)
  | .ladleRecordDispatch n | .heatCard n | .heatPassStart n | .passBlockReady n | .heatEnd n => decide (n < 256)
  | .heatSectionDispatch n sec => decide (n < 256) && decide (sec < 3)
  | .enumerate flask addr => decide (flask < 64) && decide (addr < 2 ^ 44)
  | .bankRelease a bank => decide (a < 512) && decide (bank < 2)
  | .meshTileArrive a | .emptyMarkerArrive a | .breakArrive a | .creditArrive a => decide (a < 512)
  | .heldCompletionWrite f => decide (f < 64)
  | .datapathParity a _ => decide (a < 512)
  | .arrayParkSave a | .arrayTakeOwner a | .arrayRestoreDone a => decide (a < 512)
  | .transientFault n | .replayCancelDone n | .replayConditionMet n | .replayWaitTimeout n => decide (n < 256)
  | .rdReq port | .wrReq port | .rdResp port | .wrAck port => decide (port < 32)
  | .dataFlit port flit | .idleFlit port flit | .nakFlit port flit | .timeFlit port flit | .initFlit port flit =>
    decide (port < 32) && flit.wf
  | .flitSlot port | .ackTimer port | .retryTimeout port | .trainingComplete port | .trainTimeout port | .retrainWaitEnd port
  | .fecLock port | .silence port | .portDown port | .grant port | .refuse port | .result port | .pass port | .poison port
  | .seal port | .verdict port | .corruptFlit port _ => decide (port < 32)
  | .los port lanes | .symbolErrors port lanes => decide (port < 32) && decide (lanes < 16)
  | .lanePowerSample lane _ => decide (lane < 128)
  | .laserSample port _ _ _ => decide (port < 32)
  | .reserveTimeout e plane => decide (e < 4096) && decide (plane < 8)
  | .chunk c plane | .reduceChunkDone c plane | .sealWaitEnd c plane | .verdictTimeout c plane =>
    decide (c < 64) && decide (plane < 8)
  | .vfEnableSet numVfs => decide (numVfs < 64)
  | .pcieLinkUp gen width => decide (1 ≤ gen ∧ gen ≤ 7) && decide (width = 1 ∨ width = 2 ∨ width = 4 ∨ width = 8)
  | .dynamicAddressAssignment addr => decide (addr < 128)
  | .samplePreload cells => decide (cells.length = 53)
  | .privateScanInstruction code => decide (0x80 ≤ code ∧ code ≤ 0xFE)
  | .vin50Fall | .undervoltageShutdown | .overvoltageShutdown | .bootRomCheckDone | .startCondition | .powerPhaseEnd _
  | .identityPhaseEnd _ | .recordPhaseEnd _ | .configPhaseEnd | .perstNAssert | .perstNDeassert | .flrPf0 | .vfEnableClear
  | .hostIntWrite _ _ | .timeCfgWrite _ | .tickLoadArm _ | .ctSelWrite _ _ | .ctDataRead | .bufDataAccess _
  | .probeCfgWrite _ | .errLogHeadWrite _ | .mboxCommandEnd _ | .mboxWordTake | .tapReset | .idcode
  | .extest | .clamp | .highz | .powerMeasurement _ _ _ | .tickInMarker | .acquiringTimeout | .beaconSilence
  | .tickInSilence | .holdoverLimit | .pourWaitRelease _ | .nop _ | .mm _ | .mmc _ | .conv _ | .dw _ | .row _ | .tiles _
  | .visit _ | .regroup _ | .fill _ | .gather _ | .gatherEnd _ | .flip _ | .flipSwitch _ | .decode _ | .nms _ | .crop _
  | .paste _ | .coll _ | .wait _ | .signal _ | .signalAfterComplete _ | .fence _ | .fenceFlask _ | .mark _ | .markRecord _
  | .operandsLanded _ | .watchEvaluate _ | .pourComplete _ | .pourFault _ | .tc2ResponseTimeout _ | .loanDeadline _
  | .contrailEntryWrite | .flrPf1 | .mbTimeout => true

end Sys2Proof
end

