-- ==== Sys2Proof/Tests/Slice0.lean ====
section
/-!
SUPPORT. Tests: the smoke test of WellFormed, one command each on small states, and for every statement with hypotheses a state and
operands that meet them all.
-/
namespace Sys2Proof.Tests
set_option Elab.async false
open Sys2Proof Sys2Proof.Machine

/-- Whether a command answers a next state that a check accepts. -/
def after (i : Instr) (s : State) (p : State → Bool) : Bool :=
  match exec i s with
  | .next t => p t
  | _ => false

/-- A state with register fields set, each as field, index and value. -/
def regs (s : State) (l : List (FKind × Nat × Nat)) : State := l.foldl (fun s e => s.wr e.1 e.2.1 e.2.2) s

/-- A part in a start-up phase with nothing else set. -/
def phaseOf (p : Phase) : State := { State.reset with phase := p }

/-- A part that reports ready. -/
def up : State := phaseOf .ready

/-- A packet with a header of this opcode, class, plane, source, argument and payload. -/
def pkt (op tc src arg : Nat) (payload : List Byte) : List Byte :=
  packet { op := op, tc := tc, plane := 0, dst := 0, src := src, len := payload.length, arg := arg } payload

/-- A state in which port 0 has received a packet whole. -/
def got (s : State) (p : List Byte) : State := { s with ports := [(0, { inbox := [p] })] }

/-- Little-endian words of a payload. -/
def words (l : List Nat) : List Byte := l.flatMap (fun w => leBytes w 8)

/-- A state in which a command is posted in the mailbox of an index and an image runs. -/
def posted (s : State) (m cmd : Nat) (req : List Nat) : State :=
  regs { s with start := { s.start with imageRuns := true } } ([(.mboxGo, m, 1), (.mboxCmd, m, cmd), (.mboxSeq, m, 7)]
    ++ (List.range req.length).map (fun i => (.mboxData, 16 * m + i, (req[i]?).getD 0)))

/-- The command that is taken next. -/
def front (s : State) : BoxCmd := s.nextCommand.getD { box := .mgmt, cmd := 0, seq := 0, req := [] }

/-- The secure command that is taken next. -/
def frontSecure (s : State) : BoxCmd := s.nextSecure.getD { box := .mgmt, cmd := 0, seq := 0, req := [] }

/-- The premises of `Takes`, decided. -/
def takes (s : State) (box : Box) (code : Nat) (fields : List (Nat × Nat)) : Bool :=
  s.nextCommand.isSome && decide ((front s).box = box) && decide ((front s).cmd = code) && decide (s.phase ≠ .recovery)
    && decide (s.sec.lifecycle ≠ 0xF) && (front s).inFields fields

/-- The premises of `TakesSecure`, decided. -/
def takesSecure (s : State) (box : Box) (code : Nat) : Bool :=
  s.nextSecure.isSome && decide ((frontSecure s).box = box) && decide ((frontSecure s).cmd = code) && decide (s.phase ≠ .recovery)
    && decide (s.sec.lifecycle ≠ 0xF)

theorem takes_front {s : State} {box : Box} {code : Nat} {fields : List (Nat × Nat)} (h : takes s box code fields = true) :
    Takes s box code fields (front s) := by
  simp only [takes, Bool.and_eq_true, decide_eq_true_eq] at h
  obtain ⟨⟨⟨⟨⟨h1, h2⟩, h3⟩, h4⟩, h5⟩, h6⟩ := h
  refine ⟨?_, h2, h3, h4, h5, h6⟩
  cases hc : s.nextCommand with
  | none => simp [hc] at h1
  | some c => simp [front, hc]

theorem takesSecure_front {s : State} {box : Box} {code : Nat} (h : takesSecure s box code = true) :
    TakesSecure s box code (frontSecure s) := by
  simp only [takesSecure, Bool.and_eq_true, decide_eq_true_eq] at h
  obtain ⟨⟨⟨⟨h1, h2⟩, h3⟩, h4⟩, h5⟩ := h
  refine ⟨?_, h2, h3, h4, h5⟩
  cases hc : s.nextSecure with
  | none => simp [hc] at h1
  | some c => simp [frontSecure, hc]

/-- The running command has run and ends OK with these response registers. -/
def answered (t : State) (l : List (Nat × Nat)) : Bool :=
  match t.mbox.running with
  | some c => c.done && c.rc = 0 && decide (c.resp = l.map (fun e => (e.1, BitVec.ofNat 32 e.2)))
  | none => false

/-- The running command has run and ends with this return code. -/
def ended (t : State) (rc : Nat) : Bool :=
  match t.mbox.running with
  | some c => c.done && c.rc = rc
  | none => false

/-- The running secure command has run and ends with this return code. -/
def endedSecure (t : State) (rc : Nat) : Bool :=
  match t.mbox.secRunning with
  | some c => c.done && c.rc = rc
  | none => false

/-! ### The queue, reset and the outputs -/

theorem test_step_takes_the_front : ({ up with pending := [.vin50Fall] } : State).pending = .vin50Fall :: []
    ∧ (match step { up with pending := [.vin50Fall] } with
       | .next t => decide (t.phase = .off ∧ t.pending = [])
       | _ => false) = true := by decide +kernel

/-- A step on an empty queue: the clock with a slew of one nanosecond begun, the issue credit at its ceiling, and the probe mux at the falling
edge of PROBE_CLK. -/
theorem test_step_idle :
    let s := { regs up [(.probeEnable, 0, 1), (.probeGroup, 0, 3), (.duty, 0, 256)] with
      time := { frac := 4500000, slew := -1 }, arrays := [(0, { credit := 16777000 })], probe := { count := 3 } }
    let u := { s with time := { s.time with stopUntil := some 9 } }
    s.pending = [] ∧ s.ready = true ∧ 0 ≤ (s.time.frac : Int) + 5000000 + s.time.rate + 1000 * s.time.slew.sign ∧ s.time.stopUntil = none
    ∧ u.ready = true ∧ u.time.stopUntil ≠ none ∧ s.bit .probeEnable = true ∧ 4 * 2 ^ s.rd .probeDiv ≤ s.probe.count + 1
    ∧ up.probe.count + 1 < 4 * 2 ^ up.rd .probeDiv ∧ (phaseOf .standby).ready = false
    ∧ (match step s with
       | .next t => decide (t.time.now = 1 ∧ t.time.frac = 499000 ∧ t.time.slew = 0 ∧ (t.array 0).credit = 16777216 ∧ t.probe.count = 0)
       | _ => false) = true
    ∧ (match step u with
       | .next t => decide (t.time.now = 0 ∧ t.time.slew = 0)
       | _ => false) = true := by decide +kernel

/-! ### Start-up, power and resets -/

theorem test_vin_rise : State.reset.phase = .off ∧ State.reset.pins.vin50 = false
    ∧ after (.vin50Rise 6) State.reset (fun t => t.phase = .standby && t.pins.vin50 && t.pins.straps = 6#4 && t.mbox.mgmtStatic = 0x2F
        && t.sec.bootCount = 1 && t.start.checkDue) := by
  decide +kernel

theorem test_shutdowns : up.powered = true ∧ up.contrail.queue.length < 1024
    ∧ after .undervoltageShutdown up (fun t => t.phase = .standby && t.power.cause = 4 && t.mem.cells.isEmpty)
    ∧ after .overvoltageShutdown up (fun t => t.phase = .standby && t.power.cause = 5 && !t.pins.thermTripN) := by
  decide +kernel

theorem test_boot_rom_first : (phaseOf .standby).phase = .standby ∧ (phaseOf .standby).start.imageRuns = false
    ∧ (phaseOf .standby).start.tried = []
    ∧ after .bootRomCheckDone (phaseOf .standby) (fun t => t.phase = .standby && t.start.tried = [0]) := by
  decide +kernel

theorem test_boot_rom_second :
    let s := { phaseOf .standby with start := { tried := [0] } }
    let w := { phaseOf .identity with start := { imageRuns := true, checkDue := true, tried := [1] }, sec := { unverified := [0] } }
    s.phase = .standby ∧ s.start.imageRuns = false ∧ s.start.tried = [0]
    ∧ after .bootRomCheckDone s (fun t => t.phase = .recovery)
    ∧ w.start.checkDue = true ∧ w.start.tried = [1] ∧ after .bootRomCheckDone w (fun t => t.phase = .recovery && !t.start.imageRuns) := by
  decide +kernel

theorem test_start_condition :
    let s := { phaseOf .standby with start := { imageRuns := true, startTaken := true, needStart := true }, pins := { vin50 := true } }
    let u := { phaseOf .standby with start := { imageRuns := true }, pins := { vin50 := true } }
    s.phase = .standby ∧ s.start.imageRuns = true ∧ s.pins.vin50 = true ∧ s.start.startTaken = true
    ∧ u.start.needStart = false ∧ bits (itemOf u.contrail.stored 3) 0 1 = 0 ∧ u.pins.straps.getLsbD 3 = false
    ∧ after .startCondition s (fun t => t.phase = .power && !t.start.startTaken) ∧ after .startCondition u (fun t => t.phase = .power) := by
  decide +kernel

theorem test_power_phase :
    (phaseOf .power).phase = .power ∧ (phaseOf .power).pins.pwrGood = false ∧ (phaseOf .power).pins.perstN = false
    ∧ after (.powerPhaseEnd true) (phaseOf .power) (fun t => t.phase = .power && t.pins.pwrGood)
    ∧ after (.powerPhaseEnd false) (phaseOf .power) (fun t => t.phase = .standby && t.rd .failCause = 5) := by
  decide +kernel

theorem test_power_phase_perst :
    let s := { phaseOf .power with pins := { perstN := true } }
    s.phase = .power ∧ s.pins.pwrGood = false ∧ s.pins.perstN = true
    ∧ after (.powerPhaseEnd true) s (fun t => t.phase = .identity) := by
  decide +kernel

theorem test_identity_record : (phaseOf .identity).phase = .identity ∧ (phaseOf .record).phase = .record
    ∧ after (.identityPhaseEnd true) (phaseOf .identity) (fun t => t.phase = .record)
    ∧ after (.identityPhaseEnd false) (phaseOf .identity) (fun t => t.phase = .failed && t.rd .failCause = 1)
    ∧ after (.recordPhaseEnd true) { phaseOf .record with contrail := { fenced := [(511, 1)] } }
        (fun t => t.phase = .selftest && t.fenced 511)
    ∧ after (.recordPhaseEnd false) (phaseOf .record) (fun t => t.phase = .failed && t.rd .failCause = 2) := by
  decide +kernel

theorem test_selftest : (phaseOf .selftest).phase = .selftest ∧ (∀ e ∈ [(511, 1)], e.1 < 512) ∧ (∀ a ∈ [511], a < 512)
    ∧ after (.selftestPhaseEnd [(511, 1)] [511] []) (phaseOf .selftest)
        (fun t => t.phase = .qualify && t.fenced 511 && t.routeFenced 511)
    ∧ after (.selftestPhaseEnd [] [] [15]) (phaseOf .selftest) (fun t => t.phase = .failed && t.rd .failCause = 3) := by
  decide +kernel

theorem test_stacks :
    let s := regs (phaseOf .qualify) [(.qualAttempts, 15, 2)]
    let r : List ChannelTest := [{ stack := 15, channel := 0, corrected := 0, uncorrectable := 1 },
      { stack := 15, channel := 63, corrected := 17, uncorrectable := 0 }, { stack := 15, channel := 1, corrected := 16, uncorrectable := 0 }]
    s.phase = .qualify ∧ s.rd .qualResult 15 ≠ 1 ∧ s.rd .qualAttempts 15 < 3 ∧ (r.map (fun c => (c.stack, c.channel))).Nodup
    ∧ (∀ c ∈ r, c.stack = 15 ∧ c.channel < 64)
    ∧ after (.stackQualificationEnd 15 r) s (fun t => t.phase = .failed && t.rd .qualFailedChannels 15 = 2 && t.rd .qualResult 15 = 2)
    ∧ after (.stackQualificationEnd 15 (r.drop 2)) s (fun t => t.phase = .qualify && t.rd .qualFailedChannels 15 = 0 && t.rd .qualResult 15 = 1)
    ∧ after (.stackQualificationEnd 15 []) (regs s ((List.range 15).map (fun i => (.qualResult, i, 1)))) (fun t => t.phase = .config) := by
  decide +kernel

theorem test_config : (phaseOf .config).phase = .config
    ∧ after .configPhaseEnd (phaseOf .config) (fun t => t.phase = .ready && t.rd .portState 0 = 1) := by
  decide +kernel

theorem test_perst : up.bar0Up = true ∧ after .perstNAssert up (fun t => t.phase = .power && !t.pins.perstN && t.start.perstReset) := by
  decide +kernel

theorem test_perst_release :
    let s := { phaseOf .power with pins := { pwrGood := true }, start := { perstReset := true } }
    s.phase = .power ∧ s.pins.pwrGood = true ∧ s.pins.perstN = false ∧ s.start.perstReset = true
    ∧ after .perstNDeassert s (fun t => t.phase = .identity && t.rd .startCause = 1) := by
  decide +kernel

theorem test_function_resets :
    let s := regs up [(.linkVfEnable, 0, 1), (.linkNumVf, 0, 63)]
    s.bar0Up = true ∧ s.vfExists 63 = true ∧ s.bit .resetBusy 63 = false
    ∧ after (.flrVf 63) s (fun t => t.bit .resetBusy 63)
    ∧ after .vfEnableClear s (fun t => t.bit .resetBusy 63 && !t.bit .linkVfEnable)
    ∧ after .flrPf0 s (fun t => t.bit .resetBusy 0) := by
  decide +kernel

theorem test_flr_pf1 :
    let c : BoxCmd := { box := .secPf1, cmd := 1, seq := 0, req := [] }
    let s := { up with mbox := { secRunning := some c } }
    s.bar0Up = true ∧ s.mbox.secRunning = some c ∧ c.box = .secPf1
    ∧ after .flrPf1 s (fun t => decide (Box.secPf1 ∈ t.mbox.dropped))
    ∧ up.mbox.secRunning = none
    ∧ after .flrPf1 (regs up [(.mboxDone, boxSecPf1, 1), (.mboxGo, boxSecPf1, 1)]) (fun t => !t.bit .mboxDone boxSecPf1 && !t.bit .mboxGo boxSecPf1) := by
  decide +kernel

/-! ### Power, temperature and telemetry -/

theorem test_power_measurement : up.island = true ∧ up.rd .duty ≤ 256
    ∧ after (.powerMeasurement 4599 100 2000) up (fun t => t.rd .duty = (max 16 (256 * (envelopeCap (up.rd .envelope) - 50) / 2000) : Nat)
        && t.bit .pwrInputWarn && t.rd .pwrWatts = 2000) := by
  decide +kernel

theorem test_temperature : up.powered = true
    ∧ after (.temperatureSample (340 :: List.replicate 15 419) (List.replicate 4 459) (List.replicate 8 399)) up
        (fun t => t.rd .stackClass 0 = 1 && t.rd .stackClass 15 = 2 && t.rd .dieClass 3 = 1 && t.rd .engineTemp 7 = 399 && t.phase = .ready)
    ∧ after (.temperatureSample (420 :: List.replicate 15 0) (List.replicate 4 0) (List.replicate 8 0)) up
        (fun t => t.phase = .standby && t.power.cause = 1) := by
  decide +kernel

theorem test_temperature_classes : (∀ i, up.rd .stackClass i ≤ 2) ∧ (∀ i, up.rd .dieClass i ≤ 1) := by
  constructor
  · intro i
    have h : up.rd .stackClass i = 0 + 0 * i := rfl
    omega
  · intro i
    have h : up.rd .dieClass i = 0 + 0 * i := rfl
    omega

theorem test_class_exit :
    let s := regs up [(.stackClass, 0, 2), (.stackTemp, 0, 360), (.stackClass, 1, 1), (.stackTemp, 1, 320), (.dieClass, 3, 1), (.dieTemp, 3, 380)]
    s.rd .stackClass 0 = 2 ∧ s.rd .stackTemp 0 ≤ 360 ∧ s.rd .stackClass 1 = 1 ∧ s.rd .stackTemp 1 ≤ 320 ∧ s.rd .dieClass 3 = 1
    ∧ s.rd .dieTemp 3 ≤ 380
    ∧ after (.thermalClassExit (.stack 0)) s (fun t => t.rd .stackClass 0 = 1 && t.bit .pwrStackClass)
    ∧ after (.thermalClassExit (.stack 1)) s (fun t => t.rd .stackClass 1 = 0)
    ∧ after (.thermalClassExit (.die 3)) s (fun t => t.rd .dieClass 3 = 0 && t.bit .pwrDieClass) := by
  decide +kernel

/-! ### Almanac time and entries -/

theorem test_lock_timeouts :
    let a := regs up [(.lockState, 0, 1)]
    let b := regs up [(.lockState, 0, 2), (.timeSource, 0, 1), (.holdoverLimit, 0, 0)]
    let c := regs up [(.lockState, 0, 2), (.timeSource, 0, 2), (.holdoverLimit, 0, 5)]
    let d := regs up [(.lockState, 0, 3)]
    a.rd .lockState = 1 ∧ b.rd .lockState = 2 ∧ b.rd .timeSource = 1 ∧ c.rd .timeSource = 2 ∧ d.rd .lockState = 3
    ∧ after .acquiringTimeout a (fun t => t.rd .lockState = 0) ∧ after .beaconSilence b (fun t => t.rd .lockState = 0 && t.bit .lockLost)
    ∧ after .tickInSilence c (fun t => t.rd .lockState = 3) ∧ after .holdoverLimit d (fun t => t.rd .lockState = 0) := by
  decide +kernel

theorem test_beacon :
    let p := pkt 1 0 5 0 (words [1000000, 0x50001])
    let s := regs { State.reset with phase := .ready, ports := [(0, { timeIn := [(p, 999500)] })] } [(.epochId, 0, 1)]
    let l := regs s [(.lockState, 0, 2), (.portState, 0, 3), (.timeSource, 0, 1), (.portDelayValid, 0, 1)]
    s.rd .portPlane 0 = s.rd .timePlane ∧ s.rd .sourceSel ≠ 2 ∧ s.rd .timeSource ≠ 2 ∧ bits (pktWord p 8) 32 3 = s.rd .portPlane 0
    ∧ bits (pktWord p 8) 0 16 = s.rd .epochId ∧ (pktHdr p).op = 1 ∧ s.rd .lockState = 0
    ∧ after (.beacon 0) s (fun t => t.rd .lockState = 1 && decide (t.time.delayReq = some (0, none)) && (t.port 0).timeOut = 1
        && t.rd .quantumUs = 5)
    ∧ l.rd .lockState = 2 ∧ l.lowestTimePort = some 0 ∧ l.bit .portDelayValid 0 = true ∧ ((1000000 : Int) + (l.rd .portDelay 0 : Int) - 999500).natAbs ≤ 1000
    ∧ l.rd .sourceSel ≠ 2 ∧ l.rd .timeSource ≠ 2
    ∧ after (.beacon 0) l (fun t => t.rd .lockState = 2 && decide (t.time.slew = 9000 * 500) && t.rd .timeOffset = 500) := by
  decide +kernel

theorem test_delay_resp :
    let p := pkt 3 0 5 0 (words [100, 250, 260])
    let s : State := { State.reset with phase := .ready, ports := [(0, { timeIn := [(p, 400)] })], time := { delayReq := some (0, some 100) } }
    (pktHdr p).op = 3 ∧ s.time.delayReq = some (0, some (pktWord p 0))
    ∧ after (.delayResp 0) s (fun t => t.rd .portDelay 0 = 145 && t.rd .portDelayValid 0 = 1 && decide (t.time.delayReq = none)) := by
  decide +kernel

theorem test_tick_marker :
    let s := regs up [(.tickLoadArm, 0, 1), (.tickLoadLo, 0, 7), (.tickLoadHi, 0, 1), (.tickDelay, 0, 0xFFFF)]
    s.bar0Up = true ∧ s.bit .tickLoadArm = true ∧ s.rd .sourceSel ≠ 1 ∧ s.rd .timeSource = 0 ∧ s.rd .lockState = 0 ∧ s.time.acquired = false
    ∧ 0 ≤ ((s.rd .tickLoadLo + (s.rd .tickLoadHi <<< 32) : Nat) : Int) + toInt 16 (s.rd .tickDelay)
    ∧ after .tickInMarker s (fun t => t.rd .lockState = 1 && t.rd .timeSource = 2 && t.time.now = 2 ^ 32 + 6) := by
  decide +kernel

theorem test_time_registers : up.bar0Up = true
    ∧ after (.timeCfgWrite 0x02050817) up (fun t => t.rd .sourceSel = up.rd .sourceSel && t.rd .timePlane = 5 && t.rd .deferLead = 5
        && t.rd .deferPolicy = up.rd .deferPolicy)
    ∧ after (.tickLoadArm (some 0xFFFF)) up (fun t => t.bit .tickLoadArm && t.rd .tickDelay = 0xFFFF)
    ∧ after (.almanacNowLoRead .pf0) { up with time := { now := 2 ^ 40 + 3 } }
        (fun t => t.rd .nowHi = 256 && decide (HostMsg.data [3, 0, 0, 0] false ∈ t.host.out)) := by
  decide +kernel

theorem test_entry_arm : up.bar0Up = true ∧ up.rd .entState 4095 = 0 ∧ bits (0x1016 : Word64).toNat 4 2 = 1 ∧ bits (0x1016 : Word64).toNat 0 4 ≠ 1
    ∧ armForbidden 6 1 (up.rd .entPeriod 4095) = false
    ∧ after (.almanacEntryArm 4095 false 0x1016) up (fun t => t.rd .entState 4095 = 1 && t.rd .entKind 4095 = 6)
    ∧ after (.almanacEntryFree 4095 false 0) (regs up [(.entState, 4095, 2)]) (fun t => t.rd .entState 4095 = 0) := by
  decide +kernel

/-- A due SLICE entry that is freed takes effect first (R471). -/
theorem test_entry_free_due :
    let s := regs up [(.entState, 9, 1), (.entKind, 9, 2), (.entArg, 9, 0x300000007), (.entState, 12, 1), (.entKind, 12, 2), (.entTime, 12, 1)]
    s.bar0Up = true ∧ s.firesNow 9 2 = true ∧ s.dueBefore 9 = [] ∧ s.firesNow 12 (s.rd .entKind 12) = false
    ∧ after (.almanacEntryFree 9 false 0) s (fun t => t.rd .entState 9 = 0 && t.rd .sliceEligible 0 = 7 && t.rd .sliceEligible 1 = 3)
    ∧ after (.almanacEntryFree 12 false 0) s (fun t => t.rd .entState 12 = 0 && t.rd .entState 9 = 1
        && t.rd .sliceEligible 0 = s.rd .sliceEligible 0) := by
  decide +kernel

theorem test_entry_arm_refused : bits (0x1011 : Word64).toNat 0 4 = 1 ∧ bits (0x1011 : Word64).toNat 12 1 = 1 ∧ up.rd .entPeriod 0 = 0
    ∧ up.groupOf (bits (0x1011 : Word64).toNat 6 6) (bits (up.rd .entArg 0) 16 16) = none
    ∧ after (.almanacEntryArm 0 false 0x1011) up (fun t => t.rd .entState 0 = 0 && t.rd .collRefusals = 1) := by
  decide +kernel

/-- An entry of a kind that is ARMED with its TIME reached, on a part with time lock. -/
def dueEntry (kind arg : Nat) : State :=
  regs up [(.lockState, 0, 2), (.entState, 3, 1), (.entKind, 3, kind), (.entArg, 3, arg), (.entFlask, 3, 1), (.bayState, 7, 1)]

theorem test_entries_due :
    (dueEntry 2 0x100000002).firesNow 3 2 = true ∧ (dueEntry 2 0x100000002).rd .entPeriod 3 = 0
    ∧ after (.slice 3) (dueEntry 2 0x100000002) (fun t => t.rd .sliceEligible 0 = 2 && t.rd .sliceEligible 1 = 1 && t.rd .entState 3 = 3)
    ∧ (dueEntry 6 0x500000002).firesNow 3 6 = true
    ∧ after (.heatGate 3) (dueEntry 6 0x500000002) (fun t => t.rd .sem 66 = 5 && t.rd .entState 3 = 3)
    ∧ (dueEntry 5 7).firesNow 3 5 = true ∧ (dueEntry 5 7).rd .bayState (bits ((dueEntry 5 7).rd .entArg 3) 0 12) = 1
    ∧ after (.bayDeadline 3) (dueEntry 5 7) (fun t => t.rd .bayState 7 = 2 && (t.rd .hostIntCause).testBit 5)
    ∧ (dueEntry 4 0).firesNow 3 4 = true ∧ (dueEntry 4 0).bit .wmbWordEn = false
    ∧ after (.telemetry 3) (dueEntry 4 0) (fun t => t.rd .telemDropped = 1 && t.rd .entState 3 = 3) := by
  decide +kernel

theorem test_telemetry_frame :
    let s := { regs (dueEntry 4 0) [(.wmbWordEn, 0, 1), (.wmbMgrDevice, 0, 9), (.portState, 2, 3), (.portPlane, 2, 5)] with time := { now := 77 } }
    let u := s.fireBefore 3
    s.firesNow 3 4 = true ∧ s.rd .entPeriod 3 = 0 ∧ u.bit .wmbWordEn = true ∧ u.pickPort none (u.rd .wmbMgrDevice) 0 0 = some 2
    ∧ after (.telemetry 3) s (fun t => t.power.frameSeq = u.power.frameSeq + 1 && t.rd .telemDropped = 0
        && decide ((Sp.getD (t.port 2).txStream 3 []).map (fun p => ((pktHdr p).op, (pktHdr p).dst, pktWord p 0)) = [(0xC2, 9, 77)])) := by
  decide +kernel

theorem test_telemetry_no_port :
    let s := regs (dueEntry 4 0) [(.wmbWordEn, 0, 1), (.wmbMgrDevice, 0, 9)]
    let u := s.fireBefore 3
    u.bit .wmbWordEn = true ∧ u.pickPort none (u.rd .wmbMgrDevice) 0 0 = none ∧ after (.telemetry 3) s (fun t => t.rd .telemDropped = 1) := by
  decide +kernel

/-- Entries of one TIME fire in ascending index (R470). -/
theorem test_entries_in_order :
    let s := regs (dueEntry 6 0x500000002) [(.entState, 2, 1), (.entKind, 2, 6), (.entArg, 2, 0x700000003), (.entFlask, 2, 1)]
    s.firesNow 3 6 = true ∧ s.dueBefore 3 = [2] ∧ s.rd .entKind 2 = 6 ∧ s.rd .entPeriod 2 = 0 ∧ s.rd .entPeriod 3 = 0
    ∧ 64 * s.rd .entFlask 2 + bits (s.rd .entArg 2) 0 6 ≠ 64 * s.rd .entFlask 3 + bits (s.rd .entArg 3) 0 6
    ∧ after (.heatGate 3) s (fun t => t.rd .entState 3 = 3 && t.rd .entState 2 = 3 && t.rd .sem 67 = 7 && t.rd .sem 66 = 5) := by
  decide +kernel

theorem test_entries_open :
    (dueEntry 3 0x8001).firesNow 3 3 = true
    ∧ after (.scrub 3) (dueEntry 3 0x8001) (fun t => t.rd .entState 3 = 2 && decide (Sp.get? t.scrubOpen 3 = some 0x8001) && t.rd .scrubBw = 40) := by
  decide +kernel

theorem test_coll_phase :
    let c : CollCtx := { pour := 1, flask := 1, collId := 0, groupId := 0, entry := some 3, desc := [], members := 2, rank := 0 }
    let s := { dueEntry 1 0 with colls := [(0, c)] }
    s.firesNow 3 1 = true ∧ Sp.get? s.colls 0 = some c ∧ c.entry = some 3 ∧ c.state = 1
    ∧ after (.collPhase 3) s (fun t => t.rd .entState 3 = 2 && decide ((Sp.get? t.colls 0).map (·.state) = some 2)) := by
  decide +kernel

theorem test_window_close :
    let s := regs up [(.entState, 3, 2), (.entKind, 3, 3)]
    let r := regs s [(.entPeriod, 3, 100)]
    s.rd .entState 3 = 2 ∧ s.rd .entTime 3 + s.rd .entDuration 3 ≤ s.now ∧ s.rd .entPeriod 3 = 0
    ∧ after (.entryWindowClose 3) s (fun t => t.rd .entState 3 = 3)
    ∧ r.rd .entState 3 = 2 ∧ r.rd .entTime 3 + r.rd .entDuration 3 ≤ r.now ∧ r.rd .entPeriod 3 ≠ 0 ∧ r.rd .entRepeat 3 = 0
    ∧ after (.entryWindowClose 3) r (fun t => t.rd .entState 3 = 1 && t.rd .entTime 3 = 100) := by
  decide +kernel

theorem test_defer :
    let s := regs up [(.lockState, 0, 2), (.entState, 3, 1), (.entKind, 3, 1), (.entArg, 3, 0x100020001)]
    let w := regs s [(.lockState, 0, 0)]
    w.timeLock = false ∧ w.rd .entTime 3 ≤ w.now + w.leadNs ∧ w.memberReady 3 = false
    ∧ after (.deferLeadCheck 3) w (fun t => t.rd .defersSent = 1 && (t.entry 3).leadChecked && t.rd .entState 3 = 1)
    ∧ s.rd .entState 3 = 1 ∧ s.rd .entKind 3 = 1 ∧ (s.entry 3).leadChecked = false ∧ s.rd .entTime 3 ≤ s.now + s.leadNs ∧ s.timeLock = true
    ∧ s.memberReady 3 = false ∧ s.rd .deferPolicy = 0
    ∧ after (.deferLeadCheck 3) s (fun t => t.rd .defersSent = 1 && (t.entry 3).leadChecked) := by
  decide +kernel

theorem test_shift_abort :
    let p := pkt 6 0 0xF00 0 (words [0, 5000, 0x300020001])
    let s := got (regs up [(.entState, 3, 1), (.entKind, 3, 1), (.entArg, 3, 0x20001)]) p
    let a := pkt 7 0 0xF00 0 (words [0x20001])
    (pktHdr p).op = 6 ∧ s.phaseEntries (bits (pktWord p 16) 0 16) (bits (pktWord p 16) 16 16) [1] = [3] ∧ s.rd .entTime 3 = pktWord p 0
    ∧ after (.shift 0) s (fun t => t.rd .entTime 3 = 5000 && t.rd .entDefers 3 = 3 && (t.port 0).inbox.isEmpty)
    ∧ (pktHdr a).op = 7 ∧ (got s a).phaseEntries (bits (pktWord a 0) 0 16) (bits (pktWord a 0) 16 16) [1, 2, 3] = [3] ∧ s.colls = []
    ∧ after (.groupAbort 0) (got s a) (fun t => t.rd .entState 3 = 0) := by
  decide +kernel

/-- A GROUP_ABORT frees an entry that is DONE, and ends the COLL pour that waits in the fabric unit. -/
theorem test_group_abort_pour :
    let a := pkt 7 0 0xF00 0 (words [0x5600020001])
    let q : Pour := { id := 4, flask := 0, ladle := 0, index := 0, word := 0xB ||| (1 <<< 976) ||| (2 <<< 992), unit := .fabric }
    let s := { got (regs up [(.entState, 3, 3), (.entKind, 3, 1), (.entArg, 3, 0x20001)]) a with pours := [q] }
    (pktHdr a).op = 7 ∧ s.colls = [] ∧ s.phaseEntries (bits (pktWord a 0) 0 16) (bits (pktWord a 0) 16 16) [1, 2, 3] = [3]
    ∧ q.unit = .fabric ∧ q.stage = .queued ∧ q.param 16 16 = bits (pktWord a 0) 0 16 ∧ q.param 32 16 = bits (pktWord a 0) 16 16
    ∧ after (.groupAbort 0) s (fun t => t.rd .entState 3 = 0
        && decide ((t.pour? 4).map (fun x => (x.stage, x.code)) = some (.faulted, 0x56))) := by
  decide +kernel

/-! ### The host interface -/

theorem test_register_write :
    let r : RegAt := { row := { base := 0x2C4000, stride := 4, count := 4096, bytes := 4, fields := [(.watchVanishLimit, 0), (.watchSatLimit, 16)] },
                       index := 4095, byte := 0 }
    up.bar0Up = true ∧ regAt 0x2C7FFC = some r
    ∧ (∀ e ∈ r.row.fields, e.1 ∉ [FKind.cqEnable, .eqEnable, .ladleEnable, .ladleTail, .entKind])
    ∧ after (.registerWrite (.bar0 .pf0) 0x2C7FFC 0x0F 0xFFFF00120034) up
        (fun t => t.rd .watchVanishLimit 4095 = 0x34 && t.rd .watchSatLimit 4095 = 0x12 && t.rd .watchSatLimit 4094 = up.rd .watchSatLimit 4094) := by
  decide +kernel

theorem test_register_read :
    let r : RegAt := { row := { base := 0x201C, stride := 0, count := 1, bytes := 4, fields := [(.wmbReject, 0)] }, index := 0, byte := 0 }
    let s := regs up [(.wmbReject, 0, 9)]
    s.bar0Up = true ∧ regAt 0x201C = some r ∧ r.row.bytes = 4
    ∧ after (.rcCounterRead (.bar0 .pf0) 0x201C 4) s (fun t => t.rd .wmbReject = 0 && decide (HostMsg.data [9, 0, 0, 0] false ∈ t.host.out))
    ∧ after (.rcCounterRead (.mgmt true) 0x0C 4) (regs up [(.mboxDone, boxMgmt, 1), (.mboxRc, boxMgmt, 0x102)]) (fun t => decide (HostMsg.data [1, 0, 2, 1] false ∈ t.host.out))
    ∧ after (.rcCounterRead (.bar0 (.vf 63)) 0 4) (regs up [(.linkVfEnable, 0, 1), (.linkNumVf, 0, 63)]) (fun t => decide (HostMsg.data [63, 0, 0, 0] false ∈ t.host.out)) := by
  decide +kernel

theorem test_host_words :
    let s := regs up [(.cqTail, 63, 2), (.cqIntEn, 63, 1), (.eqTail, 63, 2), (.eqIntEn, 63, 1), (.ladleState, 255, 2), (.ladleEnable, 255, 1),
      (.ladleSizeLog2, 255, 4), (.hostIntCause, 0, 0x41), (.hostIntEn, 0, 0x41), (.msixMask, 63, 0), (.msixMask, 127, 0), (.msixMask, 136, 0)]
    let s := { s with host := { msixOn := [0] } }
    let b : State :=
      { s with tc2 := [{ tag := 0, seq := 1, op := 0x82, device := 1, plane := 0, addr := 0, len := 8, flask := 0, pour := none, host := some (.pf0, 0), dest := [] }] }
    s.bar0Up = true ∧ s.ready = true ∧ s.rd .ladleState 255 = ladleStopped ∧ s.bit .ladleEnable 255 = true
    ∧ s.bit .cqIntEn 63 = true ∧ s.sendable (s.flaskVector 63 false) = true
    ∧ s.bit .eqIntEn 63 = true ∧ s.sendable (s.flaskVector 63 true) = true ∧ s.sendable (s.route 136) = true
    ∧ after (.semWrite 4095 9) s (fun t => t.rd .sem 4095 = 9)
    ∧ after (.cqHeadWrite 63 2) s (fun t => t.rd .cqHead 63 = 2 && (t.rd .cqArmed 1).testBit 31)
    ∧ after (.cqHeadWrite 63 1) s (fun t => decide (HostMsg.msix (s.flaskVector 63 false) ∈ t.host.out))
    ∧ after (.eqHeadWrite 63 1) s (fun t => decide (HostMsg.msix (s.flaskVector 63 true) ∈ t.host.out))
    ∧ after (.ladleHeadWrite 255 5) s (fun t => t.rd .ladleHead 255 = 5)
    ∧ after (.doorbell .pf0 255 16) s (fun t => t.rd .ladleTail 255 = 16 && !t.bit .tailError 255)
    ∧ s.bellHeld .pf0 = false ∧ b.bellHeld .pf0 = true
    ∧ after (.doorbell .pf0 255 16) b (fun t => t.rd .ladleTail 255 = 0 && decide (t.host.bells = [(.pf0, 255, 16)]))
    ∧ after (.doorbell .pf0 255 17) s (fun t => t.rd .ladleTail 255 = 0 && t.bit .tailError 255)
    ∧ after (.hostIntWrite false 1) s (fun t => t.rd .hostIntCause = 0x40 && decide (HostMsg.msix (s.route 136) ∈ t.host.out))
    ∧ after (.hostIntWrite true 0x3E) s (fun t => t.rd .hostIntEn = 0x3E && t.maskedCause = 0#7)
    ∧ after (.errLogHeadWrite 1) (regs up [(.errLogTail, 0, 3)]) (fun t => t.rd .errLogHead = 1)
    ∧ after (.errLogHeadWrite 4) (regs up [(.errLogTail, 0, 3)]) (fun t => t.rd .errLogHead = 3) := by
  decide +kernel

theorem test_bar2 :
    let d : List Byte := [1, 2, 3, 4, 5, 6, 7, 8]
    up.ready = true ∧ d.length % 8 = 0 ∧ up.present (up.bar2Addr .pf0 0x1000) d.length = true ∧ tierOf (up.bar2Addr .pf0 0x1000) ≠ 2
    ∧ up.drains (up.bar2Addr .pf0 0x1000) d.length = false ∧ 0x1000 + d.length ≤ up.bar2Bytes .pf0
    ∧ after (.bar2Write .pf0 0x1000 d false) up (fun t => decide (Sp.get? t.mem.cells (up.bar2Addr .pf0 0x1000 + 7) = some 8)
        && after (.bar2Read .pf0 0x1000 8) t (fun u => decide (HostMsg.data d false ∈ u.host.out))) := by
  decide +kernel

theorem test_cache_fill :
    let s (m : Sp Mark) : State := { State.reset with mem := { marks := m, zeroed := true } }
    ((s [(31, .poison 0)]).readLocal { rq := 0 } 0 8 8).2.inCache 0 = false ∧ ((s [(32, .poison 2)]).readLocal { rq := 0 } 0 8 8).2.inCache 0 = true
    ∧ ((s [(2, .errors 2)]).readLocal { rq := 0 } 0 8 8).2.mem.marks = [] ∧ ((s [(2, .errors 2)]).readLocal { rq := 0 } 1 8 8).2.mem.marks ≠ []
    ∧ ((s [(33, .errors 3), (64, .errors 3)]).evict (some { line := 1, keep := false, dirty := true })).mem.marks
        = [(33, .poison 0), (64, .errors 3)] := by
  decide +kernel

theorem test_bar2_absent :
    let s := regs up [(.bar2Win, 0, 0x1F00)]
    s.ready = true ∧ s.tc2 = [] ∧ s.staged = [] ∧ s.present (s.bar2Addr .pf0 0) 8 = false ∧ up.bar2Bytes .pf0 < 2 ^ 36 + 8
    ∧ after (.bar2Read .pf0 (2 ^ 36) 8) up (fun t => decide (HostMsg.unsupported ∈ t.host.out))
    ∧ after (.bar2Read .pf0 0 8) s (fun t => decide (HostMsg.unsupported ∈ t.host.out))
    ∧ after (.bar2Write .pf0 0 [1, 2, 3, 4, 5, 6, 7, 8] false) s (fun t => t.host.aer.length = 1 && t.mem.cells.isEmpty) := by
  decide +kernel

theorem test_link : up.bar0Up = true ∧ 7 ∈ [1, 2, 4, 7]
    ∧ after (.pcieLinkUp 7 8) up (fun t => t.rd .linkGen = 7 && t.rd .linkWidth = 8 && t.rd .linkFlit = 1)
    ∧ after (.pcieLinkUp 1 1) up (fun t => t.rd .linkGen = 1 && t.rd .linkFlit = 0)
    ∧ after (.vfEnableSet 63) up (fun t => t.vfExists 63 && !t.vfExists 64)
    ∧ after (.dynamicAddressAssignment 127) { up with mbox := { mgmtI3c := true } } (fun t => decide (t.mbox.mgmtDynamic = some 127)) := by
  decide +kernel

/-! ### Mailboxes -/

theorem test_mbox_go : up.bar0Up = true ∧ up.bit .mboxGo 7 = false ∧ bits (0x00070103 : Word32).toNat 0 1 = 1
    ∧ after (.mboxGo (.pf 7) 0x00070103) up (fun t => t.bit .mboxGo 7 && t.rd .mboxCmd 7 = 1 && t.rd .mboxSeq 7 = 7 && t.bit .mboxIntEn 7) := by
  decide +kernel

theorem test_mbox_end :
    let c : BoxCmd := { box := .pf 7, cmd := 1, seq := 0xFFFF, req := [], done := true, rc := 0x31, resp := [(15, 9)] }
    let s := { up with mbox := { running := some c } }
    s.mbox.running = some c ∧ c.done = true ∧ c.box = .pf 7 ∧ c.box ∉ s.mbox.dropped ∧ c.rc < 2 ^ 16 ∧ c.seq < 2 ^ 16
    ∧ after (.mboxCommandEnd false) s (fun t => t.bit .mboxDone 7 && t.rd .mboxRc 7 = 0x31 && t.rd .mboxSeqEcho 7 = 0xFFFF
        && t.rd .mboxData (16 * 7 + 15) = 9) := by
  decide +kernel

theorem test_mbox_unknown :
    let s := posted up 7 0xFF []
    s.mbox.running = none ∧ s.nextCommand = some (front s) ∧ knownCommand (front s).cmd = false ∧ (front s).box = .pf 7
    ∧ (front s).box ∉ s.mbox.dropped ∧ s.phase ≠ .recovery ∧ s.sec.lifecycle ≠ 0xF ∧ (front s).resp = []
    ∧ after (.mboxCommandEnd false) s (fun t => t.bit .mboxDone 7 && t.rd .mboxRc 7 = 0x0101) := by
  decide +kernel

theorem test_word_mailbox :
    let p := pkt 0xC0 3 5 0 (words [0x70001])
    let s := got (regs up [(.wmbWordEn, 0, 1), (.wmbMgrDevice, 0, 5)]) p
    (s.port 0).inbox = p :: [] ∧ (pktHdr p).op = 0xC0 ∧ s.bit .wmbWordEn = true ∧ (pktHdr p).src = s.rd .wmbMgrDevice ∧ s.bit .wmbFull = false
    ∧ after (.mboxWord 0) s (fun t => t.bit .wmbFull && decide (t.mbox.wordIn = some (0, 0x70001)))
    ∧ (pktHdr p).src ≠ (got up p).rd .wmbMgrDevice
    ∧ after (.mboxWord 0) (got up p) (fun t => t.rd .wmbReject = 1 && decide (t.mbox.wordIn = none))
    ∧ bits 0x70001 8 2 = 0 ∧ bits 0x70101 8 2 ≠ 0
    ∧ after .mboxWordTake { up with mbox := { wordIn := some (0, 0x70101) } } (fun t => decide (t.mbox.wordOpen = [0x70101]) && t.bit .wmbOpen && t.rd .wmbNext = 1)
    ∧ after .mboxWordTake { up with mbox := { wordIn := some (0, 0x70001) } } (fun t => decide (t.mbox.wordCmds = [[0x70001]]) && t.rd .wmbIn = 0x70001) := by
  decide +kernel

theorem test_refusals :
    let a := posted { up with sec := { lifecycle := 0xF } } 0 0x20 []
    let c := posted (phaseOf .failed) 0 0x06 []
    a.nextCommand = some (front a) ∧ (front a).box = .pf 0 ∧ (front a).cmd = 0x20 ∧ a.phase ≠ .recovery ∧ a.sec.lifecycle = 0xF
    ∧ after (.setModes (.pf 0)) a (fun t => ended t 0x020A)
    ∧ c.nextCommand = some (front c) ∧ c.sec.lifecycle ≠ 0xF ∧ c.ready = false ∧ c.phase ≠ .recovery
    ∧ after (.segWrite (.pf 0)) c (fun t => ended t 0x0108)
    ∧ after (.flaskEnable (.vf 1)) (regs (posted up 9 0x02 []) [(.linkVfEnable, 0, 1), (.linkNumVf, 0, 1)]) (fun t => ended t 0x0104) := by
  decide +kernel

theorem test_get_info : Takes (posted up 0 0x01 []) (.pf 0) 0x01 [] (front (posted up 0 0x01 []))
    ∧ after (.getInfo (.pf 0)) (posted up 0 0x01 []) (fun t => answered t [(0, 0x200B100), (1, 0)]) :=
  ⟨takes_front (by decide +kernel), by decide +kernel⟩

theorem test_get_power : Takes (posted up 0 0x21 []) (.pf 0) 0x21 [] (front (posted up 0 0x21 []))
    ∧ after (.getPower (.pf 0)) (posted up 0 0x21 []) (fun t => answered t [(0, 0), (1, 256)]) :=
  ⟨takes_front (by decide +kernel), by decide +kernel⟩

theorem test_get_startup : Takes (posted up 0 0x34 []) (.pf 0) 0x34 [] (front (posted up 0 0x34 []))
    ∧ after (.getStartup (.pf 0)) (posted up 0 0x34 []) (fun t => ended t 0) :=
  ⟨takes_front (by decide +kernel), by decide +kernel⟩

theorem test_cfg_read : Takes (posted up 0 0x30 [0x5F]) (.pf 0) 0x30 [(0, 0xFF)] (front (posted up 0 0x30 [0x5F]))
    ∧ ((front (posted up 0 0x30 [0x5F])).d 0 < 256 ∧ (itemDefault ((front (posted up 0 0x30 [0x5F])).d 0)).isSome = true
      ∧ after (.cfgRead (.pf 0)) (posted up 0 0x30 [0x5F]) (fun t => answered t [(1, 1), (2, 1)])) :=
  ⟨takes_front (by decide +kernel), by decide +kernel⟩

theorem test_seg_read :
    let s := posted (regs up [(.segBase, 0x3FFF, 0x180000000), (.segLimit, 0x3FFF, 0x180000FFF), (.segValid, 0x3FFF, 1)]) 0 0x07 [0x3FFF]
    Takes s (.pf 0) 0x07 [(0, 0x3FFF)] (front s) ∧ (s.ready = true ∧ (front s).d 0 < 0x4000
      ∧ after (.segRead (.pf 0)) s (fun t => answered t [(0, 0x3FFF), (1, 0x80000000), (2, 1), (3, 0x80000FFF), (4, 1), (5, 1), (6, 0), (7, 0)])) :=
  ⟨takes_front (by decide +kernel), by decide +kernel⟩

theorem test_flask_enable :
    let s := posted up 0 0x02 [1, 0x100, 0x40000, 2, 8, 0x10000000, 0, 0x40000000, 0]
    let c := front s
    Takes s (.pf 0) 0x02 [(0, 0x3F), wholeReg 1, wholeReg 2, (3, 0x1FFF), wholeReg 4, wholeReg 5, (6, 0xFFF), wholeReg 7, (8, 0xFFF)] c ∧ (s.ready = true ∧ c.d 5 % 4096 = 0 ∧ c.d 7 % 8192 = 0
      ∧ s.bit .flaskEnabled 1 = false ∧ s.areaFree 1 0x10000000 (4096 * savePages) = true ∧ s.areaFree 1 0x40000000 (1024 * 8) = true
      ∧ (s.enableFlask 1 0x100 0x40000 2 8 0x10000000 0x40000000).overQuota 1 = false
      ∧ (s.enableFlask 1 0x100 0x3FFFF 2 8 0x10000000 0x40000000).overQuota 1 = decide (0x3FFFF < savePages)
      ∧ after (.flaskEnable (.pf 0)) s (fun t => ended t 0 && t.bit .flaskEnabled 1 && t.saveBase 1 = 0x10000000)) :=
  ⟨takes_front (by decide +kernel), by decide +kernel⟩

theorem test_flask_disable :
    let s := posted (regs up [(.flaskEnabled, 63, 1), (.allotFast, 63, 4)]) 0 0x03 [63]
    Takes s (.pf 0) 0x03 [(0, 0x3F)] (front s) ∧ (s.ready = true ∧ (front s).d 0 = 63 ∧ s.derived .usedBays 63 = 0
      ∧ (∀ n < 256, s.bit .tableValid n = true → s.rd .tableOwner n ≠ 63) ∧ (∀ g < 256, s.bit .groupValid g = true → s.rd .groupFlask g ≠ 63)) :=
  ⟨takes_front (by decide +kernel), by decide +kernel⟩

theorem test_set_allot :
    let s := posted up 0 0x04 [1, 5]
    let r := posted (regs up [(.segValid, 256, 1), (.segLimit, 256, 0xFFF)]) 0 0x04 [0x101, 0]
    Takes s (.pf 0) 0x04 [(0, 0x33F), wholeReg 1] (front s) ∧ Takes r (.pf 0) 0x04 [(0, 0x33F), wholeReg 1] (front r)
    ∧ (s.ready = true ∧ bits ((front s).d 0) 8 2 = 0 ∧ s.usedPages 1 1 ≤ (front s).d 1
      ∧ after (.setAllot (.pf 0)) s (fun t => ended t 0 && t.rd .allotFast 1 = 5)
      ∧ bits ((front r).d 0) 8 2 = 1 ∧ (front r).d 1 < r.usedPages 1 0
      ∧ after (.setAllot (.pf 0)) r (fun t => ended t 0x0031)) :=
  ⟨takes_front (by decide +kernel), takes_front (by decide +kernel), by decide +kernel⟩

theorem test_watch_allot :
    let s := posted (regs up [(.watchCount, 63, 63)]) 0 0x05 [63, 4095 + 1 * 4096]
    Takes s (.pf 0) 0x05 [(0, 0x3F), (1, 0x1FFFFFF)] (front s) ∧ (s.ready = true ∧ (front s).inFields [(0, 0x3F), (1, 0x1FFFFFF)] = true
      ∧ (∀ g < 64, g ≠ 63 → overlaps 4095 1 (s.rd .watchBase g) (s.rd .watchCount g) = false) ∧ s.rd .watchBase 63 + s.rd .watchCount 63 ≤ 4095
      ∧ after (.watchAllot (.pf 0)) s (fun t => ended t 0 && t.rd .watchBase 63 = 4095 && t.rd .watchCount 63 = 1)) :=
  ⟨takes_front (by decide +kernel), by decide +kernel⟩

/-- A segment of 4 KiB at 4096 of flask 1, entry 255, with READ and WRITE, in SEG_WRITE's registers. -/
def segReq : List Nat := [0x1FF, 0x1000, 0, 0x1FFF, 0, 0x61, 0, 0]

theorem test_seg_write :
    let s := posted (regs up [(.allotStack, 1, 1)]) 0 0x06 segReq
    let c := front s
    let x : SegWords := { base := c.d2 1, limit := c.d2 3, w := c.d 5, user := c.d2 6 }
    Takes s (.pf 0) 0x06 ((0, 0x3FFF) :: (List.range 7).map (fun n => wholeReg (n + 1))) c ∧ (s.ready = true ∧ c.d 0 < 0x4000 ∧ s.mbox.running = none ∧ s.segRefused 1 x = false
      ∧ (s.setSegment 511 x).overQuota 1 = false ∧ s.bit .segValid 511 = false
      ∧ after (.segWrite (.pf 0)) s (fun t => ended t 0 && decide (t.segWords 511 = x))) :=
  ⟨takes_front (by decide +kernel), by decide +kernel⟩

theorem test_seg_write_waits :
    let p : Pour := { id := 4, flask := 1, ladle := 4, index := 0, word := 0, unit := .dispatcher }
    let s := { posted (regs up [(.allotStack, 1, 1), (.segValid, 511, 1), (.segLimit, 511, 0xFFF)]) 0 0x06 segReq with pours := [p] }
    let c := front s
    let x : SegWords := { base := c.d2 1, limit := c.d2 3, w := c.d 5, user := c.d2 6 }
    Takes s (.pf 0) 0x06 ((0, 0x3FFF) :: (List.range 7).map (fun n => wholeReg (n + 1))) c ∧ (s.segRefused 1 x = false ∧ (s.setSegment 511 x).overQuota 1 = false ∧ s.bit .segValid 511 = true
      ∧ s.segWords 511 ≠ x ∧ (∃ p ∈ s.pours, p.flask = 1)
      ∧ after (.segWrite (.pf 0)) s (fun t => decide ((t.mbox.running.map (fun d => (d.done, d.waitFor))) = some (false, [4])))) :=
  ⟨takes_front (by decide +kernel), by decide +kernel⟩

/-- A heat copy under way is waited for too. -/
theorem test_seg_write_waits_heat :
    let h : Heat := { card := 0, index := 0, pass := 2, stage := .passBlock }
    let s := { posted (regs up [(.allotStack, 1, 1), (.segValid, 511, 1), (.segLimit, 511, 0xFFF)]) 0 0x06 segReq with heats := [(5, h)] }
    let c := front s
    let x : SegWords := { base := c.d2 1, limit := c.d2 3, w := c.d 5, user := c.d2 6 }
    Takes s (.pf 0) 0x06 ((0, 0x3FFF) :: (List.range 7).map (fun n => wholeReg (n + 1))) c ∧ (s.segRefused 1 x = false ∧ (s.setSegment 511 x).overQuota 1 = false ∧ s.bit .segValid 511 = true
      ∧ s.segWords 511 ≠ x ∧ (∃ h ∈ s.heats, ladleFlask h.1 = 1 ∧ h.2.copying = true)
      ∧ after (.segWrite (.pf 0)) s (fun t => decide ((t.mbox.running.map (fun d => (d.done, d.waitHeats))) = some (false, [(5, 2)])))) :=
  ⟨takes_front (by decide +kernel), by decide +kernel⟩

theorem test_seg_write_ends :
    let c : BoxCmd := { box := .pf 0, cmd := 6, seq := 0, req := [], waitFor := [4], undo := [511, 0, 0xFFF, 1, 0] }
    let s := { up with mbox := { running := some c } }
    s.mbox.running = some c ∧ c.done = false ∧ (∀ p ∈ s.pours, p.id ∉ c.waitFor)
    ∧ (∀ h ∈ s.heats, h.2.copying = true → (h.1, h.2.pass) ∉ c.waitHeats)
    ∧ after (.segWrite (.pf 0)) s (fun t => ended t 0)
    ∧ after .mbTimeout s (fun t => ended t 0x010A && decide (t.segWords 511 = { base := 0, limit := 0xFFF, w := 1, user := 0 })) := by
  decide +kernel

theorem test_almanac_arm :
    let s := posted up 0 0x08 [100, 0, 0, 0, 0x1016, 0, 1, 2]
    Takes s (.pf 0) 0x08 ((List.range 8).map wholeReg) (front s) ∧ (s.ready = true ∧ bits ((front s).d 4) 4 2 = 1 ∧ bits ((front s).d 4) 0 4 ≠ 1
      ∧ armForbidden (bits ((front s).d 4) 0 4) (bits ((front s).d 4) 12 1) (bits ((front s).d2 2) 0 40) = false ∧ s.freeEntryIndex = some 0
      ∧ after (.almanacArm (.pf 0)) s (fun t => answered t [(0, 0)] && t.rd .entState 0 = 1 && t.rd .entTime 0 = 100
          && t.rd .entArg 0 = 0x200000001)) :=
  ⟨takes_front (by decide +kernel), by decide +kernel⟩

theorem test_almanac_free :
    let s := posted (regs up [(.entState, 4094, 1)]) 0 0x09 [4094]
    Takes s (.pf 0) 0x09 [(0, 0xFFF)] (front s) ∧ (s.ready = true ∧ (front s).d 0 < 4095
      ∧ after (.almanacFree (.pf 0)) s (fun t => ended t 0 && t.rd .entState 4094 = 0)) :=
  ⟨takes_front (by decide +kernel), by decide +kernel⟩

theorem test_table_write :
    let s := posted up 0 0x0A [0x1FF, 0x1234, 0]
    Takes s (.pf 0) 0x0A [(0, 0x3FF), wholeReg 1, wholeReg 2] (front s) ∧ (s.ready = true ∧ (front s).d 0 < 0x400 ∧ (s.tableSet 255 .rows (2 ^ 64 - 1) 0x1234).1 = .done
      ∧ after (.tableWrite (.pf 0)) s (fun t => ended t 0 && t.rd .tableRowsM1 255 = 0x1234)) :=
  ⟨takes_front (by decide +kernel), by decide +kernel⟩

theorem test_group_write :
    let s := posted (regs up [(.gridLen0, 0, 3)]) 0 0x0B [255, 0x410000, 0x01001000, 0x01000000, 0x01000000, 0x01000000]
    Takes s (.pf 0) 0x0B ((0, 0xFF) :: (List.range 5).map (fun n => wholeReg (n + 1))) (front s) ∧ (s.ready = true ∧ (front s).d 0 < 256
      ∧ after (.groupWrite (.pf 0)) s (fun t => ended t 0 && t.bit .groupValid 255 && t.bit .groupMember 255 && t.rd .groupMembers 255 = 1)) :=
  ⟨takes_front (by decide +kernel), by decide +kernel⟩

theorem test_lend :
    let s := posted up 0 0x10 [0x5FF + (7 <<< 11), 0xFFF]
    Takes s (.pf 0) 0x10 [(0, 0x7FFFFF), (1, 0xFFF)] (front s) ∧ (s.ready = true ∧ (front s).inFields [(0, 0x7FFFFF), (1, 0xFFF)] = true
      ∧ bits ((front s).d 0) 0 11 <<< 30 < s.stackBytes ∧ s.bit .lent 0x5FF = false ∧ s.validSegments = []
      ∧ after (.lend (.pf 0)) s (fun t => ended t 0 && t.bit .lent 0x5FF && t.rd .lentDevice 0x5FF = 7 && t.rd .lentBay 0x5FF = 0xFFF)) :=
  ⟨takes_front (by decide +kernel), by decide +kernel⟩

theorem test_loan_end :
    let s := posted (regs up [(.lent, 3, 1)]) 0 0x11 [3, 500, 0]
    Takes s (.pf 0) 0x11 [(0, 0x7FF), wholeReg 1, wholeReg 2] (front s) ∧ (s.ready = true ∧ (front s).d 0 < 0x800 ∧ s.bit .lent ((front s).d 0) = true
      ∧ after (.loanEnd (.pf 0)) s (fun t => ended t 0 && decide (Sp.get? t.loanEnds 3 = some 500))) :=
  ⟨takes_front (by decide +kernel), by decide +kernel⟩

theorem test_map_bay :
    let s := posted (regs up [(.allotBays, 63, 1)]) 0 0x12 [0x3FFFF, 0x7FFFFF]
    Takes s (.pf 0) 0x12 [(0, 0x3FFFF), (1, 0x7FFFFF)] (front s) ∧ (s.ready = true ∧ (front s).inFields [(0, 0x3FFFF), (1, 0x7FFFFF)] = true ∧ s.rd .bayState 4095 = 0
      ∧ s.derived .usedBays 63 < s.rd .allotBays 63
      ∧ after (.mapBay (.pf 0)) s (fun t => ended t 0 && t.rd .bayState 4095 = 1 && t.rd .bayFlask 4095 = 63 && t.rd .bayLenderGib 4095 = 0x7FF)) :=
  ⟨takes_front (by decide +kernel), by decide +kernel⟩

theorem test_revoke_unmap_bay :
    let s := posted (regs up [(.bayState, 7, 1)]) 0 0x13 [7, 900, 0]
    let u := posted (regs up [(.bayState, 7, 1), (.bayDeadlineSet, 7, 1), (.bayDeadlineEntry, 7, 5), (.entState, 5, 1), (.entKind, 5, 5)]) 0 0x14 [7]
    Takes s (.pf 0) 0x13 [(0, 0xFFF), wholeReg 1, wholeReg 2] (front s) ∧ Takes u (.pf 0) 0x14 [(0, 0xFFF)] (front u)
    ∧ (s.ready = true ∧ (front s).d 0 < 4096 ∧ s.rd .bayState ((front s).d 0) = 1 ∧ s.freeEntryIndex = some 0
      ∧ after (.revokeBay (.pf 0)) s (fun t => answered t [(0, 0)] && t.rd .entKind 0 = 5 && t.rd .entTime 0 = 900 && t.rd .bayState 7 = 1)
      ∧ u.validSegments = []
      ∧ after (.unmapBay (.pf 0)) u (fun t => ended t 0 && t.rd .bayState 7 = 0 && t.rd .entState 5 = 0)) :=
  ⟨takes_front (by decide +kernel), takes_front (by decide +kernel), by decide +kernel⟩

theorem test_set_modes :
    let s := posted up 0 0x20 [0x0E]
    Takes s (.pf 0) 0x20 [(0, 0x3F)] (front s) ∧ ((front s).d 0 < 0x40
      ∧ after (.setModes (.pf 0)) s (fun t => ended t 0 && t.rd .envelope = 2 && t.rd .strictness = up.rd .strictness)) :=
  ⟨takes_front (by decide +kernel), by decide +kernel⟩

theorem test_cfg_write :
    let s := posted up 0 0x31 [0x5F, 0xF]
    Takes s (.pf 0) 0x31 [(0, 0xFF), wholeReg 1] (front s) ∧ ((front s).d 0 < 256 ∧ (itemDefault ((front s).d 0)).isSome = true
      ∧ itemRefused ((front s).d 0) ((front s).d 1) = false
      ∧ after (.cfgWrite (.pf 0)) s (fun t => ended t 0 && decide (Sp.get? t.contrail.stored 0x5F = some 0xF#32))) :=
  ⟨takes_front (by decide +kernel), by decide +kernel⟩

theorem test_start_stop :
    let s := posted (phaseOf .standby) boxMgmt 0x32 []
    let r := posted { phaseOf .standby with start := { startTaken := true } } boxMgmt 0x32 []
    let u := posted up boxMgmt 0x33 []
    Takes s .mgmt 0x32 [] (front s) ∧ Takes u .mgmt 0x33 [] (front u) ∧ Takes r .mgmt 0x32 [] (front r)
    ∧ (s.phase = .standby ∧ s.start.startTaken = false
      ∧ after (.start .mgmt) s (fun t => ended t 0 && t.start.startTaken && t.rd .startCause = 2 && t.sec.bootCount = 1)
      ∧ r.start.startTaken = true ∧ after (.start .mgmt) r (fun t => ended t 0 && t.sec.bootCount = 0)
      ∧ u.powered = true ∧ after (.stop .mgmt) u (fun t => ended t 0 && t.phase = .standby && t.start.needStart)) :=
  ⟨takes_front (by decide +kernel), takes_front (by decide +kernel), takes_front (by decide +kernel), by decide +kernel⟩

/-! ### The secure channel, the contrail record, probes and the test access port -/

theorem test_firmware :
    let s := posted { up with sec := { bank := [(4096, [1]), (0, [2])] } } boxSecPf1 0x03 []
    let w := posted { up with sec := { buf := [(0, 7), (4, 9)] } } boxSecPf1 0x04 [4095, 5]
    let x := { s with sec := { s.sec with badUnits := [8191] } }
    let y := { w with sec := { w.sec with badUnits := [8191] } }
    TakesSecure s .secPf1 0x03 (frontSecure s) ∧ TakesSecure w .secPf1 0x04 (frontSecure w)
    ∧ TakesSecure x .secPf1 0x03 (frontSecure x) ∧ TakesSecure y .secPf1 0x04 (frontSecure y)
    ∧ (s.sec.norFails 4096 4096 = false ∧ w.sec.norFails 8191 1 = false ∧ x.sec.norFails 4096 4096 = true ∧ y.sec.norFails 8191 1 = true
      ∧ after (.fwBegin .secPf1) x (fun t => endedSecure t 0x0208 && t.sec.bank.length = 2)
      ∧ after (.fwWrite .secPf1) y (fun t => endedSecure t 0x0208 && t.sec.bank.isEmpty)
      ∧ s.idleBank = some 1 ∧ s.sec.lifecycle ≠ 1 ∧ after (.fwBegin .secPf1) s (fun t => endedSecure t 0 && t.sec.bank.length = 1)
      ∧ w.idleBank = some 1 ∧ (frontSecure w).d 0 < 4096 ∧ 4 ≤ (frontSecure w).d 1
      ∧ after (.fwWrite .secPf1) w (fun t => endedSecure t 0
          && decide (((Sp.getD t.sec.bank 8191 []).take 6) = [7, 0, 0, 0, 9, 0xFF]))) :=
  ⟨takesSecure_front (by decide +kernel), takesSecure_front (by decide +kernel), takesSecure_front (by decide +kernel),
    takesSecure_front (by decide +kernel), by decide +kernel⟩

theorem test_firmware_verify :
    let v := posted up boxSecPf1 0x05 []
    let a := posted { up with sec := { verified := some 1 } } boxSecPf1 0x06 []
    let n := posted { up with sec := { verified := some 0 } } boxSecPf1 0x06 []
    let m := posted { up with start := { runBank := 1 } } boxSecPf1 0x07 [0]
    TakesSecure n .secPf1 0x06 (frontSecure n) ∧ TakesSecure v .secPf1 0x05 (frontSecure v) ∧ TakesSecure a .secPf1 0x06 (frontSecure a) ∧ TakesSecure m .secPf1 0x07 (frontSecure m)
    ∧ (v.idleBank = some 1 ∧ v.sec.lifecycle ≠ 1 ∧ after (.fwVerify .secPf1) v (fun t => !endedSecure t 0 && t.sec.verified = none)
      ∧ a.idleBank = some 1 ∧ a.sec.verified = some 1 ∧ after (.fwActivate .secPf1) a (fun t => endedSecure t 0 && decide (t.sec.trial = some 1))
      ∧ n.idleBank = some 1 ∧ n.sec.verified ≠ some 1
      ∧ after (.fwActivate .secPf1) n (fun t => endedSecure t 0x0205 && decide (t.sec.trial = none))
      ∧ m.start.imageRuns = true ∧ (frontSecure m).d 0 = 0
      ∧ after (.fwCommit .secPf1) m (fun t => endedSecure t 0 && t.sec.preferred = 1)) :=
  ⟨takesSecure_front (by decide +kernel), takesSecure_front (by decide +kernel), takesSecure_front (by decide +kernel), takesSecure_front (by decide +kernel), by decide +kernel⟩

theorem test_evidence :
    let a := posted up boxSecPf1 0x01 [2]
    let b := posted up boxSecPf1 0x02 []
    let c := posted up boxSecPf1 0x08 []
    TakesSecure a .secPf1 0x01 (frontSecure a) ∧ TakesSecure b .secPf1 0x02 (frontSecure b) ∧ TakesSecure c .secPf1 0x08 (frontSecure c)
    ∧ ((frontSecure a).d 0 < 3 ∧ b.sec.lifecycle ≠ 1 ∧ b.sec.hssIndex < 2 ^ 40
      ∧ after (.getEvidence .secPf1) b (fun t => t.sec.hssIndex = 1)
      ∧ after (.debugChallenge .secPf1) c (fun t => decide (t.sec.challenge.map (·.2) = some 0))) :=
  ⟨takesSecure_front (by decide +kernel), takesSecure_front (by decide +kernel), takesSecure_front (by decide +kernel), by decide +kernel⟩

theorem test_debug_unlock :
    let s := posted (regs { up with sec := { challenge := some ([], 0) } } [(.flaskEnabled, 0, 1)]) boxSecPf1 0x09 []
    TakesSecure s .secPf1 0x09 (frontSecure s)
    ∧ (s.sec.lifecycle = 2 ∧ s.flaskActive = true
      ∧ after (.debugUnlock .secPf1) s (fun t => endedSecure t 0x0206 && decide (t.sec.challenge = none) && t.sec.lifecycle = 2)) :=
  ⟨takesSecure_front (by decide +kernel), by decide +kernel⟩

/-- A token that the debug key signs opens the part; the signature checks are constants of Config. -/
theorem test_debug_unlock_opens :
    let token : List Byte := padTo (leBytes 0x4B545758 4) 3052 0
    let s := posted { up with sec := { challenge := some (List.replicate 48 0, 0), buf := [(0, 0x58), (1, 0x57), (2, 0x54), (3, 0x4B)] } } boxSecPf1 0x09 []
    let field (off n : Nat) : List Byte := (token.drop off).take n
    Config.ecdsaVerify keyDebug (Config.sha384 (token.take 0x80)) (field 0x80 96) = true →
    Config.lmsVerify keyDebug (Config.sha384 (token.take 0x80)) (token.drop 0xE0) = true →
    TakesSecure s .secPf1 0x09 (frontSecure s) ∧ (s.bufBytes 0 3052 = token ∧ s.sec.lifecycle = 2 ∧ s.flaskActive = false
      ∧ s.sec.challenge = some (List.replicate 48 0, 0) ∧ s.now < 0 + 60000000000
      ∧ leNat (field 0 4) = 0x4B545758 ∧ (∀ x ∈ field 0x04 12 ++ field 0x51 3 ++ field 0x58 40, x = 0) ∧ leNat (field 0x54 4) < 4
      ∧ field 0x10 16 = padTo s.sec.serial 16 0 ∧ field 0x20 48 = List.replicate 48 0 ∧ s.sec.tokenSvn ≤ leNat (field 0x50 1)) :=
  fun _ _ => ⟨takesSecure_front (by decide +kernel), by decide +kernel⟩

theorem test_retire :
    let a := posted up boxSecMgmt 0x0A []
    let code : List Byte := leBytes 1 4 ++ leBytes 2 4 ++ leBytes 3 4 ++ leBytes 4 4
    let b := posted { up with sec := { retireCode := some (code, 5) }, time := { now := 10000000004 } } boxSecMgmt 0x0B [1, 2, 3, 4]
    let c := posted { up with sec := { lifecycle := 1 } } boxSecMgmt 0x0C []
    let d := posted { up with sec := { lifecycle := 0xF } } boxSecPf1 0x0A []
    TakesSecure a .secMgmt 0x0A (frontSecure a) ∧ TakesSecure b .secMgmt 0x0B (frontSecure b) ∧ TakesSecure c .secMgmt 0x0C (frontSecure c)
    ∧ (b.sec.lifecycle = 2 ∧ b.now < 5 + 10000000000 ∧ b.sec.badFuses = false ∧ c.sec.lifecycle = 1 ∧ c.sec.badFuses = false
      ∧ d.nextSecure = some (frontSecure d) ∧ (frontSecure d).box = .secPf1 ∧ (frontSecure d).cmd = 0x0A ∧ d.phase ≠ .recovery ∧ d.sec.lifecycle = 0xF
      ∧ after (.retireArm .secPf1) d (fun t => endedSecure t 0x020A && t.sec.retireCode.isNone)
      ∧ after (.retireArm .secMgmt) a (fun t => endedSecure t 0 && t.sec.retireCode.isSome)
      ∧ after (.retire .secMgmt) b (fun t => endedSecure t 0 && t.sec.lifecycle = 0xF)
      ∧ after (.lifecycleProduction .secMgmt) c (fun t => endedSecure t 0 && t.sec.lifecycle = 2)) :=
  ⟨takesSecure_front (by decide +kernel), takesSecure_front (by decide +kernel), takesSecure_front (by decide +kernel), by decide +kernel⟩

/-- A contrail entry of a kind. -/
def ctEvent (kind : Nat) : CtEvent :=
  { boot := 1, time := 5, timeValid := true, kind := kind, flask := 0, code := 0, phase := 8, arg := List.replicate 60 0 }

theorem test_contrail_write :
    let s : State := { up with contrail := { queue := [ctEvent 6, ctEvent 12] } }
    s.contrail.lostDue = 0 ∧ s.contrail.queue = ctEvent 6 :: [ctEvent 12]
    ∧ after .contrailEntryWrite s (fun t => t.contrail.queue.length = 1 && t.contrail.nextSeq = 2#64 && (Sp.get? t.contrail.ring 0).isSome)
    ∧ firstFaultKind 1 = true ∧ firstFaultKind 12 = false
    ∧ after .contrailEntryWrite { up with contrail := { queue := [ctEvent 1] } } (fun t => t.contrail.ffCount = 1 && t.bit .ffNew) := by
  decide +kernel

theorem test_windows : up.bar0Up = true ∧ up.island = true ∧ up.rd .bufPtr ≤ 32764
    ∧ after (.ctSelWrite false 0x8007FFFF) up (fun t => t.rd .ctSlot = 0x7FFFF)
    ∧ after (.ctSelWrite true 3) { up with contrail := { mgtPtr := 8 } } (fun t => t.contrail.mgtPtr = 0)
    ∧ after .ctDataRead { up with contrail := { mgtPtr := 124 } } (fun t => t.contrail.mgtPtr = 0)
    ∧ after (.bufDataAccess (some 0x04030201)) (regs up [(.bufPtr, 0, 32764)]) (fun t => t.rd .bufPtr = 0 && decide (Sp.get? t.sec.buf 32767 = some 4))
    ∧ after (.bufDataAccess none) { up with sec := { buf := [(1, 9)] } } (fun t => decide (HostMsg.data [0, 9, 0, 0] false ∈ t.host.out)) := by
  decide +kernel

theorem test_contrail_clear :
    let e := (ctEvent 1).bytes 1 true
    let k := leNat ((e.drop 124).take 4)
    let s := posted { up with contrail := { ffCount := 1, first := [(0, e)], newestFault := e } } boxSecPf1 0x0D [1, 0, k]
    let r := posted { up with contrail := { ffCount := 1, first := [(0, e)], newestFault := e } } boxSecPf1 0x0D [2, 0, k]
    TakesSecure s .secPf1 0x0D (frontSecure s) ∧ TakesSecure r .secPf1 0x0D (frontSecure r)
    ∧ (s.contrail.ffCount ≠ 0 ∧ s.contrail.queue = [] ∧ leNat (s.contrail.newestFault.take 8) = (frontSecure s).d2 0
      ∧ leNat ((s.contrail.newestFault.drop 124).take 4) = (frontSecure s).d 2
      ∧ after (.contrailClear .secPf1) s (fun t => endedSecure t 0 && t.contrail.ffCount = 0 && decide (t.contrail.queue.map (·.kind) = [12]))
      ∧ leNat (r.contrail.newestFault.take 8) ≠ (frontSecure r).d2 0
      ∧ after (.contrailClear .secPf1) r (fun t => endedSecure t 0x0202 && t.contrail.ffCount = 1 && decide (t.contrail.first = [(0, e)]))) :=
  ⟨takesSecure_front (by decide +kernel), takesSecure_front (by decide +kernel), by decide +kernel⟩

theorem test_contrail_read :
    let s := posted { up with contrail := { first := [(5, (ctEvent 1).bytes 1 true)] } } boxSecPf1 0x12 [0x80000005, 1]
    TakesSecure s .secPf1 0x12 (frontSecure s)
    ∧ ((frontSecure s).d 0 &&& 0x7FF80000 = 0 ∧ (frontSecure s).d 1 = 1 ∧ (s.contrail.slot 1 5).length = 128
      ∧ after (.contrailRead .secPf1) s (fun t => endedSecure t 0 && decide (Sp.get? t.sec.buf 0 = some 1))) :=
  ⟨takesSecure_front (by decide +kernel), by decide +kernel⟩

theorem test_traffic :
    let s := posted { up with mem := { cells := [(0x100, 1)] } } boxSecPf1 0x10 [0x30001, 0, 1]
    let r := posted { up with tgen := [(15, (2 ^ 33 + 1, 7, 8))] } boxSecPf1 0x11 [15]
    let u := regs s [(.flaskEnabled, 0, 1)]
    TakesSecure u .secPf1 0x10 (frontSecure u) ∧ TakesSecure s .secPf1 0x10 (frontSecure s) ∧ TakesSecure r .secPf1 0x11 (frontSecure r)
    ∧ ((frontSecure u).d 0 < 0x100000 ∧ u.ready = true ∧ u.flaskActive = true
      ∧ after (.tgenRun .secPf1 []) u (fun t => endedSecure t 0x0206 && decide (t.mem.cells = [(0x100, 1)]))
      ∧ (frontSecure s).d 0 < 0x40000 ∧ s.ready = true ∧ s.flaskActive = false ∧ bitList ((frontSecure s).d 0) 16 ≠ [] ∧ 0 < (frontSecure s).d 2
      ∧ (frontSecure s).d 2 ≤ s.stackGiB * 16
      ∧ (frontSecure r).d 0 < 16
      ∧ after (.tgenResult .secPf1) r (fun t => decide ((t.mbox.secRunning.map (fun c => c.resp.map (fun e => e.2.toNat))) = some [1, 2, 7, 8]))) :=
  ⟨takesSecure_front (by decide +kernel), takesSecure_front (by decide +kernel), takesSecure_front (by decide +kernel), by decide +kernel⟩

theorem test_scan :
    let open' : State := { up with sec := { lifecycle := 3, scope := 2 } }
    after .tapReset up (fun t => t.tap.ir = 0x01#8) ∧ after .idcode up (fun t => decide (t.tap.dr.take 4 = [true, true, true, false]))
    ∧ (List.replicate 53 true).length = 53
    ∧ after (.samplePreload (List.replicate 53 true)) up (fun t => decide (t.tap.boundary = List.replicate 53 true ∧ t.tap.captured.length = 53)
        && after .extest { t with phase := .standby } (fun u => decide (u.dataReg = List.replicate 53 true ∧ u.landOut 157 = some true)))
    ∧ after .extest up (fun t => decide (t.landOut 157 = some (t.ownLevel 157)))
    ∧ after .highz (phaseOf .standby) (fun t => decide (t.landOut 157 = none))
    ∧ after .highz up (fun t => decide (t.landOut 157 = some (t.ownLevel 157) ∧ { t with phase := .standby }.landOut 157 = none))
    ∧ up.scanPhase = false ∧ (phaseOf .standby).scanPhase = true
    ∧ after .extest up (fun t => t.tap.ir = 0x03#8 && decide (t.dataReg = [false])) ∧ after (.bypass 3) up (fun t => t.tap.ir = 0xFF#8) ∧ after .extest (phaseOf .standby) (fun t => t.tap.ir = 0x03#8)
    ∧ after .clamp (phaseOf .off) (fun t => t.tap.ir = 0x04#8) ∧ after .highz (phaseOf .recovery) (fun t => t.tap.ir = 0x05#8)
    ∧ after (.bypass 0x7F) up (fun t => t.tap.ir = 0x7F#8)
    ∧ after (.privateScanInstruction 0xFE) open' (fun t => t.tap.ir = 0xFE#8)
    ∧ after (.privateScanInstruction 0x80) up (fun t => decide (t.tap.dr = [false]))
    ∧ after (.probeCfgWrite 4) up (fun t => t.bit .probeDenied && t.rd .probeGroup = 0)
    ∧ after (.probeCfgWrite 0x3F0703) up (fun t => t.rd .probeGroup = 3 && t.rd .probeDiv = 3 && t.bit .probeEnable && t.rd .probeActFlask = 63) := by
  decide +kernel

/-! ### Pattern table registers, group entries and port configuration -/

theorem test_table_registers :
    let v : Word64 := 0x3F2051
    up.bar0Up = true ∧ up.bit .tableValid 255 = false ∧ bits v.toNat 0 1 = 1 ∧ tableLegal (bits v.toNat 4 4) (bits v.toNat 8 8) = true
    ∧ after (.tableRegisterWrite 255 .cfg 0x0F v) up (fun t => t.bit .tableValid 255 && t.rd .tableOwner 255 = 63 && t.rd .tableGenA 255 = 1)
    ∧ after (.tableRegisterWrite 255 .rows 0x0F 9) up (fun t => t.rd .tableRowsM1 255 = 9)
    ∧ (regs up [(.tableValid, 255, 1)]).bit .tableValid 255 = true
    ∧ after (.tableRegisterWrite 255 .rows 0x0F 9) (regs up [(.tableValid, 255, 1)]) (fun t => t.rd .tableRowsM1 255 = 0) := by
  decide +kernel

theorem test_group_entry :
    let s := regs up [(.groupStride, 1020, 1), (.groupStride, 1021, 1), (.groupStride, 1022, 1), (.groupStride, 1023, 1)]
    let v : Word32 := 0x7F0000
    s.bar0Up = true ∧ bits v.toNat 22 1 = 1 ∧ s.groupInGrid 255 = true ∧ up.groupInGrid 255 = false
    ∧ after (.groupEntryWrite 255 0 v) s (fun t => t.bit .groupValid 255 && t.rd .groupFlask 255 = 63)
    ∧ after (.groupEntryWrite 255 0 v) up (fun t => !t.bit .groupValid 255)
    ∧ after (.groupEntryWrite 255 5 0x02003007) up (fun t => decide (t.groupAxis 255 3 = (7, 4, 2))) := by
  decide +kernel

/-! ### Daxpel ports -/

/-- A part whose port 31 is in a state. -/
def portIn (st : Nat) : State := regs up [(.portState, 31, st)]

/-- A flit with this SEQ and payload. -/
def flit (seq : Nat) (payload : List Byte) : Flit :=
  { tc := 0, startValid := true, ackValid := false, startOff := 0, seq := seq, ack := 0, creditTc0 := 0, creditTc1 := 0, creditTc2 := 0,
    creditTc3 := 0, payload := payload }

theorem test_port_cfg : up.ready = true ∧ up.rd .portState 31 = 0 ∧ (regs up [(.portEnable, 31, 0)]).rd .portEnable 31 = 0
    ∧ (regs up [(.portEnable, 31, 0)]).bit .laserFault 31 = false
    ∧ after (.portCfgWrite 31 0xF) (regs up [(.portEnable, 31, 0)]) (fun t => t.rd .portState 31 = 1 && t.rd .portPlane 31 = 7)
    ∧ (portIn 3).rd .portState 31 = 3
    ∧ after (.portCfgWrite 31 0) (portIn 3) (fun t => t.rd .portState 31 = 0 && t.rd .downCause 31 = 9) := by
  decide +kernel

theorem test_port_training : (portIn 1).rd .portState 31 = 1 ∧ (portIn 1).rd .failedTrainings 31 < 7 ∧ (portIn 4).rd .portState 31 = 4
    ∧ (portIn 4).bit .laserFault 31 = false ∧ after (.retrainWaitEnd 31) (regs (portIn 4) [(.laserFault, 31, 1)]) (fun t => t.rd .portState 31 = 5 && t.rd .downCause 31 = 6)
    ∧ (regs (portIn 1) [(.failedTrainings, 31, 7)]).rd .failedTrainings 31 = 7
    ∧ (∀ l < 4, (portIn 1).bit .laneLos (124 + l) = false) ∧ after (.trainingComplete 31) (portIn 1) (fun t => t.rd .portState 31 = 2)
    ∧ after (.trainingComplete 31) (regs (portIn 1) [(.laneLos, 127, 1)]) (fun t => t.rd .portState 31 = 1)
    ∧ after (.trainTimeout 31) (portIn 2) (fun t => t.rd .portState 31 = 4 && t.rd .failedTrainings 31 = 1)
    ∧ after (.trainTimeout 31) (regs (portIn 1) [(.failedTrainings, 31, 7)]) (fun t => t.rd .portState 31 = 5)
    ∧ after (.retrainWaitEnd 31) (portIn 4) (fun t => t.rd .portState 31 = 1 && (t.port 31).lineOn) := by
  decide +kernel

theorem test_init_flit :
    let p := leBytes (7 <<< 12) 4 ++ leBytes 16 2 ++ leBytes 512 2 ++ leBytes 512 2 ++ leBytes 32 2 ++ leBytes 1 4
    let s := { regs (portIn 2) [(.portPlane, 31, 7)] with ports := [(31, { initsSent := 8 })] }
    s.rd .portState 31 = 2 ∧ bits (initField p 0 2) 12 3 = s.rd .portPlane 31 ∧ initField p 0xC 1 = 1 ∧ 8 ≤ (s.port 31).initsSent
    ∧ 16 ≤ initField p 4 2 ∧ 512 ≤ initField p 6 2 ∧ 512 ≤ initField p 8 2 ∧ 32 ≤ initField p 10 2
    ∧ after (.initFlit 31 (flit 0 p)) s (fun t => t.rd .portState 31 = 3 && decide (Sp.get? (t.port 31).credit 3 = some 32))
    ∧ bits (initField p 0 2) 12 3 ≠ (portIn 2).rd .portPlane 31
    ∧ after (.initFlit 31 (flit 0 p)) (portIn 2) (fun t => t.rd .portState 31 = 5 && t.rd .downCause 31 = 7) := by
  decide +kernel

theorem test_port_loss :
    after (.los 31 8) (portIn 3) (fun t => t.rd .portState 31 = 4 && t.rd .downCause 31 = 1 && t.bit .laneLos 127 && t.bit .portEvent)
    ∧ after (.fecLock 31) (portIn 3) (fun t => t.rd .downCause 31 = 2) ∧ after (.silence 31) (portIn 3) (fun t => t.rd .downCause 31 = 3)
    ∧ after (.symbolErrors 31 15) (portIn 3) (fun t => t.rd .downCause 31 = 5 && t.rd .downEvents 31 = 1) := by
  decide +kernel

theorem test_lane_power : toInt 16 (up.rd .rxLowWarn) ≤ toInt 16 (up.rd .rxPower 127)
    ∧ after (.lanePowerSample 127 (-1201)) up (fun t => t.bit .laneLos 127 && t.bit .laneLowWarn 127 && t.rd .rxPower 127 = 65536 - 1200)
    ∧ after (.lanePowerSample 127 (-999)) (regs up [(.laneLos, 127, 1)]) (fun t => !t.bit .laneLos 127) := by
  decide +kernel

/-- A TC2 read that waits. -/
def waitingRead : Tc2Req :=
  { tag := 0, seq := 0, op := 0x80, device := 5, plane := 0, addr := 0x1000, len := 8, flask := 1, arg := 8, pour := none,
    host := some (.pf0, 0), dest := [0x0C0000000000, 3] }

theorem test_port_down :
    let p := pkt 8 0 0xF00 0 (words [0x1005])
    let s := { got up p with tc2 := [waitingRead] }
    (pktHdr p).op = 8 ∧ bits (pktWord p 0) 12 1 = 1 ∧ s.colls = [] ∧ (∀ q ∈ s.tc2, q.hold = none ∧ q.op = 0x80) ∧ (∀ q ∈ s.tc2, s.tc2.count q = 1) ∧ s.entries = []
    ∧ after (.portDown 0) s (fun t => t.tc2.isEmpty && (t.port 0).inbox.isEmpty) := by
  decide +kernel

theorem test_data_flit :
    let p := pkt 8 0 0xF00 0 (words [5])
    let s := { regs (portIn 3) [] with ports := [(31, { rxSeq := 4095, nakArmed := true })] }
    s.rd .portState 31 = 3 ∧ (flit 4095 p).ackValid = false ∧ Sp.getD (s.port 31).rxStream 0 [] = []
    ∧ p.length = 32 + pktField p 0 48 16 ∧ s.badPacket 31 0 p = false ∧ pktCrcOk p = true ∧ takesOp (pktHdr p).op = true
    ∧ after (.dataFlit 31 (flit 4095 p)) s (fun t => (t.port 31).rxSeq = 0 && decide ((t.port 31).inbox = [p]))
    ∧ after (.dataFlit 31 (flit 0 p)) s (fun t => (t.port 31).rxSeq = 4095 && (t.port 31).nakDue && (t.port 31).inbox.isEmpty) := by
  decide +kernel

theorem test_flit_answers :
    let e := flit 7 [1]
    let s := { portIn 3 with ports := [(31, { replay := [(7, e), (8, flit 8 [2])], rxAny := true, nakArmed := true })] }
    let x := { s with ports := [(31, { replay := [(7, e), (8, flit 8 [2])], resends := [(8, 8)] })] }
    let i : Flit := { flit 0 [] with ackValid := true, ack := 7, creditTc2 := 4095 }
    (s.port 31).replay.dropWhile (fun e => e.1 ≠ (flit 8 []).seq) = [(8, flit 8 [2])] ∧ 8 ≤ Sp.getD (x.port 31).resends 8 0
    ∧ x.rd .failedTrainings 31 < 7 ∧ (s.port 31).rxAny = true ∧ (s.port 31).resends = []
    ∧ after (.idleFlit 31 i) s (fun t => (t.port 31).replay.length = 1 && Sp.getD (t.port 31).credit 2 0 = 4095)
    ∧ after (.nakFlit 31 (flit 8 [])) s (fun t => decide ((t.port 31).resend = [(8, flit 8 [2])]))
    ∧ after (.retryTimeout 31) s (fun t => (t.port 31).resend.length = 2)
    ∧ after (.retryTimeout 31) x (fun t => t.rd .portState 31 = 4 && t.rd .downCause 31 = 4)
    ∧ after (.ackTimer 31) s (fun t => (t.port 31).ackDue)
    ∧ after (.idleFlit 31 { i with fecCorrected := 3 }) s (fun t => t.rd .portFecCorr 31 = 3)
    ∧ after (.corruptFlit 31 (.crc 0)) s (fun t => t.rd .portCrcErr 31 = 1 && (t.port 31).nakDue)
    ∧ after (.corruptFlit 31 (.fec 3 2)) s (fun t => t.rd .portFecUncorr 31 = 3 && t.rd .portFecCorr 31 = 2) := by
  decide +kernel

theorem test_flit_bytes :
    let f : Flit := { flit 0xABC [1, 2] with tc := 2, startValid := true, ack := 0x123, creditTc3 := 0xFED }
    let b := flitBytes 1 f
    b.length = 256 ∧ b.take 6 = [0x31, 2, 0, 0xBC, 0x3A, 0x12] ∧ b[11]? = some 0xFE ∧ (b.drop 16).take 3 = [1, 2, 0]
    ∧ leNat ((b.drop 12).take 4) = crc32c (b.take 12 ++ b.drop 16) ∧ crc32c ("123456789".toUTF8.toList.map (fun x => BitVec.ofNat 8 x.toNat)) = 0xE3069283 := by
  decide +kernel

theorem test_time_flit :
    let p := pkt 1 0 5 0 (words [1, 2])
    (portIn 3).badPacket 31 0 p = false ∧ p.length = 32 + (pktHdr p).len ∧ (pktHdr p).op = 1 ∧ pktCrcOk p = true
    ∧ after (.timeFlit 31 (flit 0 p)) (portIn 3) (fun t => decide ((t.port 31).timeIn = [(p, 0)])) := by
  decide +kernel

theorem test_flit_slots :
    let e := flit 7 [1]
    let at31 (r : PortRt) : State := { portIn 3 with ports := [(31, r)] }
    let d := at31 { txSeq := 4095, credit := [(0, 1)], txStream := [(0, [pkt 8 0 5 0 (words [5])])], quiet := [(0, 14)] }
    after (.flitSlot 31) (portIn 1) (fun t => (t.port 31).sent.length = 1)
    ∧ after (.flitSlot 31) (at31 { nakDue := true, rxSeq := 9 }) (fun t => decide ((t.port 31).sent.map (fun e => (e.1, e.2.seq)) = [(2, 9)]))
    ∧ after (.flitSlot 31) { at31 { timeOut := 2 } with time := { now := 9, delayReq := some (31, none) } } (fun t =>
        decide ((t.port 31).sent.map (fun e => (e.1, (pktHdr e.2.payload).op, pktWord e.2.payload 0)) = [(3, 2, 9)]
          ∧ t.time.delayReq = some (31, some 9) ∧ (t.port 31).timeOut = 1))
    ∧ after (.flitSlot 31) (at31 { resend := [(7, e)] }) (fun t => decide ((t.port 31).sent.map (fun e => (e.1, e.2.seq)) = [(1, 7)])
        && Sp.getD (t.port 31).resends 7 0 = 1)
    ∧ (d.port 31).mayData (d.rd .fabMode = 1) 0 = true
    ∧ after (.flitSlot 31) d (fun t => (t.port 31).txSeq = 0 && Sp.getD (t.port 31).credit 0 0 = 0
        && decide ((t.port 31).sent.map (fun e => e.2.payload) = [pkt 8 0 5 0 (words [5])]))
    ∧ (∀ tc < 4, ((portIn 3).port 31).ready tc = 0)
    ∧ after (.flitSlot 31) (portIn 3) (fun t => decide ((t.port 31).sent.map (fun e => (e.1, e.2.payload)) = [(0, [])])) := by
  decide +kernel

/-! ### Packets and TC2 -/

theorem test_packet :
    let h : PktHdr := { op := 0x83, tc := 2, plane := 7, dst := 0xFFF, src := 0xABC, flask := 63, len := 8, seq := 0xFFFFFFFF, tag := 0x1234,
                        status := 0x30, addr := 0xFFFFFFFFFF8, arg := 0x89ABCDEF }
    pktHdr (packet h [1, 2, 3, 4, 5, 6, 7, 8]) = h ∧ pktCrcOk (packet h [1, 2, 3, 4, 5, 6, 7, 8]) = true := by
  decide +kernel

theorem test_coll_header :
    let h : CollHdr := { collId := 0xFFFF, groupId := 0x1234, chunk := 0xFFFFFF, attempt := 3, slot := 2 ^ 64 - 1, srcRank := 0xFFF, dstRank := 0xABC,
                         passed := 1, origin := 1, crc := 0xFFFFFFFF, opword := 2 ^ 64 - 2, desc := List.replicate 32 7 }
    collHdr (h.bytes ++ [9]) = h := by
  decide +kernel

/-- A TC2 request of flask 1 from part 5, of an opcode, ARG and payload, for this address. -/
def remote (op arg addr : Nat) (payload : List Byte) : List Byte :=
  packet { op := op, tc := 2, plane := 0, dst := 0, src := 5, flask := 1, len := payload.length, seq := 3, tag := 4, addr := addr, arg := arg } payload

/-- A part with port 0 UP on plane 0 whose flask 1 has a segment at 4096 with every right. -/
def served : State :=
  regs up [(.portState, 0, 3), (.portPlane, 0, 0), (.segValid, 256, 1), (.segBase, 256, 0x1000), (.segLimit, 256, 0x1FFF), (.segRead, 256, 1),
    (.segWrite, 256, 1), (.segRemoteRead, 256, 1), (.segRemoteWrite, 256, 1), (.flaskEnabled, 1, 1)]

theorem test_remote_read :
    let p := remote 0x80 8 0x1000 []
    let s := { got served p with mem := { cells := [(0x1001, 9)], zeroed := true } }
    let h := pktHdr p
    (s.takePacket 0 2 [0x80]).map (·.1) = some p ∧ h.len = 0 ∧ h.arg < 2 ^ 13 ∧ s.pickPort (some h.plane) h.src h.flask h.addr = some 0
    ∧ s.refusal h h.arg .remoteRead = 0 ∧ (s.readLocal h.who 0 0x1000 8).1.code = 0
    ∧ after (.rdReq 0) s (fun t => decide (((Sp.getD (t.port 0).txStream 2 []).map (fun x => ((pktHdr x).op, (pktHdr x).status, pktPayload x)))
        = [(0x81, 0, [0, 9, 0, 0, 0, 0, 0, 0])])) := by
  decide +kernel

theorem test_remote_refused :
    let p := remote 0x80 8 0x2000 []
    let s := got served p
    s.refusal (pktHdr p) 8 .remoteRead ≠ 0
    ∧ after (.rdReq 0) s (fun t => decide ((Sp.getD (t.port 0).txStream 2 []).map (fun x => (pktHdr x).status) = [0x30])) := by
  decide +kernel

theorem test_remote_write :
    let p := remote 0x82 0 0x1FF8 [1, 2, 3, 4, 5, 6, 7, 8]
    let q := remote 0x82 0 0x2000 [1, 2, 3, 4, 5, 6, 7, 8]
    let s := got served p
    (s.takePacket 0 2 [0x82]).map (·.1) = some p ∧ s.refusal (pktHdr p) 8 .remoteWrite = 0
    ∧ after (.wrReq 0) s (fun t => decide (Sp.get? t.mem.cells 0x1FFF = some 8
        ∧ (Sp.getD (t.port 0).txStream 2 []).map (fun x => ((pktHdr x).op, (pktHdr x).status)) = [(0x83, 0)]))
    ∧ (got served q).refusal (pktHdr q) 8 .remoteWrite ≠ 0
    ∧ after (.wrReq 0) (got served q) (fun t => t.mem.cells.isEmpty) := by
  decide +kernel

theorem test_responses :
    let r := packet { op := 0x81, tc := 2, plane := 0, dst := 0, src := 5, flask := 1, len := 8, addr := 0x1000 } [1, 0, 0, 0, 0, 0, 0, 0]
    let w := packet { op := 0x83, tc := 2, plane := 0, dst := 0, src := 5, flask := 1, len := 0, addr := 0x1000 } []
    let s := { got up r with tc2 := [waitingRead] }
    let v := { got up w with tc2 := [{ waitingRead with op := 0x82 }] }
    s.tc2 = [waitingRead] ∧ waitingRead.hold = none ∧ s.entries = [] ∧ v.host.bells = [] ∧ (∀ x ∈ (waitingRead.pour.bind v.pour?).toList, x.isArray = false) ∧ waitingRead.device = (pktHdr r).src ∧ waitingRead.tag = (pktHdr r).tag ∧ waitingRead.seq = (pktHdr r).seq
    ∧ pktCrcOk r = true ∧ (pktHdr r).op = 0x81 ∧ (pktHdr r).status = 0 ∧ s.wanted waitingRead = true
    ∧ after (.rdResp 0) s (fun t => t.tc2.isEmpty && decide (Sp.get? t.staged (stageKey 3 (0x0C0000000000 / 8)) = some (0, 1)))
    ∧ pktCrcOk w = true ∧ (pktHdr w).op = 0x83 ∧ (pktHdr w).status = 0
    ∧ after (.wrAck 0) v (fun t => t.tc2.isEmpty)
    ∧ after (.rdResp 0) (got up r) (fun t => t.rd .staleResp = 1) ∧ after (.wrAck 0) (got up w) (fun t => t.rd .staleResp = 1) := by
  decide +kernel

theorem test_response_timeout :
    let s := { up with tc2 := [waitingRead] }
    s.wanted waitingRead = true ∧ waitingRead.hold = none ∧ waitingRead.op = 0x80 ∧ s.entries = []
    ∧ after (.tc2ResponseTimeout 0) s (fun t => t.tc2.isEmpty && decide (Sp.get? t.staged (stageKey 3 (0x0C0000000000 / 8)) = some (3, 0x70))) := by
  decide +kernel

theorem test_loan_deadline :
    let s := { regs up [(.lent, 3, 1)] with loanEnds := [(3, 100)], time := { now := 20100 }, mem := { cells := [(3 * 2 ^ 30, 1), (2 ^ 30, 2)] } }
    s.bit .lent 3 = true ∧ s.loanOver 3 = true
    ∧ after (.loanDeadline 3) s (fun t => !t.bit .lent 3 && (t.rd .hostIntCause).testBit 5 && t.loanEnds.isEmpty && t.mem.cells.length = 1) := by
  decide +kernel

/-! ### Collectives -/

/-- A pour record of fields, each as lowest bit and value. -/
def record (l : List (Nat × Nat)) : BitVec 1024 := BitVec.ofNat 1024 ((l.map (fun e => e.2 <<< e.1)).sum)

/-- The pour 1 of ladle 4 (flask 1) at its index 0, of a record, on a unit and at a stage, with its planned shape. -/
def pour (unit : Machine.PUnit) (stage : Stage) (l : List (Nat × Nat)) : Pour :=
  let p : Pour := { id := 1, flask := 1, ladle := 4, index := 0, word := record l, unit := unit, stage := stage }
  { p with m := p.mMax, n := p.nMax, k := p.kMax }

/-- The state with this one pour. -/
def withPour (s : State) (p : Pour) : State := { s with pours := [p], nextPour := 2 }

theorem test_reservation_answers :
    let x (op : Nat) : List Byte := packet { op := op, tc := 1, plane := 2, dst := 0, src := 0xF00, flask := 1, len := 64 }
      ({ collId := 1, groupId := 2, slot := 0 } : CollHdr).bytes
    let s (op : Nat) := { got (regs up [(.entState, 3, 1), (.entKind, 3, 1), (.entFlask, 3, 1), (.entArg, 3, 0x20001)]) (x op) with
      entries := [(3, { planes := [(2, 0)] })] }
    (pktHdr (x 0x41)).op = 0x41 ∧ (s 0x41).awaits (x 0x41) = some 3 ∧ (s 0x42).awaits (x 0x42) = some 3 ∧ (s 0x42).colls = []
    ∧ after (.grant 0) (s 0x41) (fun t => decide (Sp.get? (t.entry 3).planes 2 = some 1) && t.rd .entState 3 = 1)
    ∧ after (.refuse 0) (s 0x42) (fun t => t.rd .entState 3 = 0 && t.rd .collRefusals = 1)
    ∧ Sp.get? ((s 0x41).entry 3).planes 2 = some 0
    ∧ after (.reserveTimeout 3 2) (s 0x41) (fun t => t.rd .entState 3 = 0 && t.rd .collRefusals = 1) := by
  decide +kernel

/-- A descriptor of an ALL_REDUCE of 8 bytes in FP32 by addition on plane 0, with a window of one chunk. -/
def allReduce : List Byte := leBytes ((1 <<< 8) + (1 <<< 16) + (8 <<< 32)) 8 ++ List.replicate 24 0

/-- Flask 1 with a segment over the first 64 KiB, the group 2 of which this part is a member with one other, and port 0 UP. -/
def grouped : State :=
  { regs served [(.segBase, 256, 0), (.segLimit, 256, 0xFFFF), (.groupValid, 0, 1), (.groupFlask, 0, 1), (.groupId, 0, 2), (.groupMember, 0, 1),
      (.groupMembers, 0, 1), (.fabPlanes, 0, 8)] with
    mem := { zeroed := true, cells := [(1, 1), (2, 1), (4, 8), (0x2000, 5)] } }

/-- The COLL pour of this descriptor, unreserved, from 0x2000 to 0x3000. -/
def collPour (stage : Stage) : Pour :=
  pour .fabric stage [(0, 0xB), (8, 1), (64, 1), (80, 1), (96, 1), (bitA, 0x2000), (bitOut, 0x3000), (960 + 32, 2)]

theorem test_coll_opens :
    let p := collPour .released
    let s := withPour grouped p
    let a := s.descAddr p.flask p.collId
    let m := s.readLocal p.fabricWho (s.hintOf p.flask a 32 0 .read) a 32
    s.pour? 1 = some p ∧ p.opcode = 0xB ∧ s.starts p = true ∧ s.colls = [] ∧ p.reduceArrays = [] ∧ s.checkColl p = 0
    ∧ s.groupOf p.flask p.groupId = some 0 ∧ p.unreserved = true ∧ p.gatherList = false ∧ p.id = 1 ∧ (s.asPour 1).allowed p.flask a 32 .read = true ∧ farKey a = false
    ∧ s.drains a 32 = false ∧ m.1.code = 0 ∧ m.1.bytes = allReduce ∧ m.2.descLegal m.1.bytes 2 = true ∧ p.kMax = 1
    ∧ (∀ x ∈ collRanges m.1.bytes 2 (m.2.rd .groupRank 0) p.dA.addr p.dOut.addr, (m.2.asPour 1).allowed p.flask x.addr x.len x.right = true)
    ∧ after (.coll 1) s (fun t => decide ((Sp.get? t.colls 0).map (fun c => (c.state, c.members, c.src)) = some (2, 2, [(0x2000, 8)]))) := by
  decide +kernel

/-- The context of that pour. -/
def ctx : CollCtx :=
  { pour := 1, flask := 1, collId := 0, groupId := 2, desc := allReduce, members := 2, rank := 0, state := 2, src := [(0x2000, 8)], dst := [(0x3000, 8)] }

/-- A part with that context, which has received a TC1 packet of an opcode, header and data. -/
def inColl (c : CollCtx) (op : Nat) (h : CollHdr) (data : List Byte) : State :=
  let p := packet { op := op, tc := 1, plane := 0, dst := 0, src := 0xF00, flask := 1, len := 64 + data.length } (h.bytes ++ data)
  { withPour grouped (collPour .running) with colls := [(0, c)], ports := [(0, { inbox := [p] })] }

theorem test_chunk :
    let s := inColl ctx 0x44 { collId := 0, groupId := 2 } []
    s.pour? ctx.pour = some (collPour .running) ∧ (collPour .running).cancelled = false ∧ ctx.decided = false ∧ ctx.op = 0 ∧ ctx.next < ctx.chunks ∧ ctx.planeOf 0 = 0 ∧ ctx.windowOpen 0 = true
    ∧ s.chunkPort ctx 0 = some 0 ∧ ctx.bytes = 8 ∧ farKey 0x2000 = false ∧ s.drains 0x2000 8 = false
    ∧ (s.readLocal (collPour .running).fabricWho 0 0x2000 8).1.code = 0 ∧ (s.readLocal (collPour .running).fabricWho 0 0x2000 8).1.failed = []
    ∧ after (.chunk 0 0) s (fun t => decide ((Sp.get? t.colls 0).map (·.next) = some 1
        ∧ (Sp.getD (t.port 0).txStream 1 []).map (fun x => ((pktHdr x).op, (pktPayload x).drop 64)) = [(0x43, [5, 0, 0, 0, 0, 0, 0, 0])])) := by
  decide +kernel

theorem test_result :
    let d : List Byte := [1, 2, 3, 4, 5, 6, 7, 8]
    let s := inColl ctx 0x44 { collId := 0, groupId := 2 } d
    ((s.takePacket 0 1 [0x44]).bind (fun e => e.2.collOf e.1)) = some (0, ctx) ∧ ctx.delivered 0 = true ∧ ctx.isOwn 0 = false
    ∧ ctx.landed 0 = false ∧ ctx.landAt 0 = some (0, 8) ∧ (collPour .running).earlyEn = false
    ∧ (s.writeChunk (collPour .running) ctx 0 d []).isOk = true
    ∧ after (.result 0) s (fun t => decide ((Sp.get? t.colls 0).map (·.got) = some [(0, crc32c d)] ∧ Sp.get? t.mem.cells 0x3007 = some 8)) := by
  decide +kernel

theorem test_poison :
    let s := inColl ctx 0x45 { collId := 0, groupId := 2, origin := 1 } []
    ((s.takePacket 0 1 [0x45]).bind (fun e => e.2.collOf e.1)) = some (0, ctx)
    ∧ (s.writeChunk (collPour .running) ctx 0 (List.replicate 8 0) [0]).isOk = true
    ∧ after (.poison 0) s (fun t => decide ((Sp.get? t.colls 0).map (fun c => (c.got, c.earlyStop)) = some ([(0, 0)], true)
        ∧ Sp.get? t.mem.marks 0x600 = some (.poison 0))) := by
  decide +kernel

theorem test_pass_refused :
    let s := inColl ctx 0x46 { collId := 0, groupId := 2 } (List.replicate 8 0)
    s.collOf ((s.port 0).inbox.headD []) = some (0, ctx) ∧ (collPour .running).reduceEn = false
    ∧ after (.pass 0) s (fun t => t.colls.isEmpty && decide ((t.pour? 1).map (fun q => (q.stage, q.code)) = some (.faulted, 0x60))) := by
  decide +kernel

/-- The context with its chunk in reduction, and its pour with REDUCE_EN. -/
def reducing : CollCtx :=
  { ctx with work := [{ chunk := 0, plane := 0, array := 0, ranks := [0], acc := [0x3F800000, 0] }], next := 1 }

theorem test_pass_and_reduce :
    let p := pour .fabric .running [(0, 0xB), (8, 1), (64, 1), (80, 1), (96, 1), (bitA, 0x2000), (bitOut, 0x3000), (960 + 32, 2), (960 + 61, 1)]
    let s := { inColl reducing 0x46 { collId := 0, groupId := 2, srcRank := 1 } (leBytes 0x3F800000 4 ++ leBytes 0x40000000 4) with pours := [p] }
    let full : CollCtx := { reducing with work := [{ chunk := 0, plane := 0, array := 0, ranks := [0, 1], crc := crc32c (leBytes 0x3F800000 4 ++ leBytes 0x40000000 4), acc := [0x40000000, 0x40000000] }] }
    s.collOf ((s.port 0).inbox.headD []) = some (0, reducing) ∧ p.reduceEn = true ∧ reducing.reduces = true ∧ reducing.delivered 0 = true
    ∧ reducing.landed 0 = false
    ∧ after (.pass 0) s (fun t => decide ((Sp.get? t.colls 0).map (·.work) = some full.work))
    ∧ (s.writeChunk p full 0 (leBytes 0x40000000 4 ++ leBytes 0x40000000 4) []).isOk = true
    ∧ after (.reduceChunkDone 0 0) { s with colls := [(0, full)] }
        (fun t => decide ((Sp.get? t.colls 0).map (fun c => (c.work.length, c.reduced)) = some (0, 1) ∧ Sp.get? t.mem.cells 0x3003 = some 0x40)) := by
  decide +kernel

theorem test_seal :
    let s := inColl ctx 0x47 { collId := 0, groupId := 2, opword := 9, desc := leBytes 1 8 ++ List.replicate 24 0 } []
    let c : CollCtx := { ctx with state := 3, planes := [(0, { sealIn := some (9, 1, false) })] }
    descPlanes ctx.desc = [0] ∧ ctx.onPlane 0 = [] ∧ Sp.get? ctx.planes 0 = none ∧ c.sealedAll = true ∧ c.acked = false
    ∧ after (.seal 0) s (fun t => decide (Sp.get? t.colls 0 = some c))
    ∧ after (.sealWaitEnd 0 0) { s with colls := [(0, c)] } (fun t => decide ((Sp.get? t.colls 0).map (·.acked) = some true)) := by
  decide +kernel

theorem test_verdicts :
    let v (x : Nat) := inColl { ctx with state := 3 } 0x49 { collId := 0, groupId := 2, desc := leBytes x 8 ++ List.replicate 24 0 } []
    ctx.copies = false ∧ ctx.failure = none ∧ descPlanes ctx.desc = [0]
    ∧ after (.verdict 0) (v 0) (fun t => t.colls.isEmpty && decide ((t.pour? 1).map (·.stage) = some .ran))
    ∧ after (.verdict 0) (v 2) (fun t => decide ((t.pour? 1).map (fun q => (q.stage, q.code)) = some (.faulted, 0x63))) := by
  decide +kernel

theorem test_verdict_timeout :
    let c : CollCtx := { ctx with entry := some 3, bound := 5 }
    let s := { inColl c 0x49 { collId := 0, groupId := 2 } [] with time := { now := 200005 } }
    c.bound + 1000 * (if descField c.desc 8 32 32 = 0 then 100 else descField c.desc 8 32 32) + 100000 ≤ s.now
    ∧ Sp.get? c.planes 0 = none
    ∧ after (.verdictTimeout 0 0) s (fun t => t.colls.isEmpty && t.rd .abandonsSent = 1
        && decide ((t.pour? 1).map (fun q => (q.stage, q.code)) = some (.faulted, 0x70))) := by
  decide +kernel

/-! ### Watch slots -/

theorem test_watch_avg : up.bar0Up = true ∧ after (.watchAvgWrite 4095 0x3F800000) up (fun t => t.rd .watchAvg 4095 = 0x3F800000) := by
  decide +kernel

/-- A pour that has run with a mean square of 4 over two elements and asks for watch slot 3 of flask 1. -/
def watched (nans : Nat) : Pour :=
  { pour (.array 0) .ran [(0, 1), (38, 1), (40, 3)] with sumSq := 0x41000000, count := 2, nans := nans }

theorem test_watch_evaluate :
    let s := withPour (regs up [(.watchEnable, 67, 1), (.watchK, 67, 1), (.watchSeeded, 67, 1), (.watchAvg, 67, 0x3F800000), (.watchHighRatio, 67, 16),
      (.strictness, 0, 1)]) (watched 0)
    s.watchSlot (watched 0) = 67 ∧ (watched 0).watchEn = true ∧ s.written (watched 0) = true ∧ (watched 0).evaluated = false
    ∧ s.slotBusy (watched 0) = false ∧ s.bit .watchEnable 67 = true ∧ s.rd .watchK 67 = 1 ∧ (watched 0).rms ≠ .inf false
    ∧ after (.watchEvaluate 1) s (fun t => t.rd .watchLast 67 = 0x40000000 && t.rd .watchAvg 67 = 0x3FC00000 && t.bit .watchFlagHigh 67
        && !t.bit .watchFlagLow 67 && t.rd .watchFlagCount 67 = 1)
    ∧ after (.watchEvaluate 1) (withPour s (watched 1)) (fun t => t.rd .watchAvg 67 = 0x3F800000 && t.bit .watchFlagNan 67)
    ∧ (withPour up (watched 0)).bit .watchEnable 67 = false
    ∧ after (.watchEvaluate 1) (withPour up (watched 0)) (fun t => t.rd .watchLast 67 = 0) := by
  decide +kernel

/-! ### Ladles -/

/-- Flask 1, enabled, with a completion ring of 4 records at 0x4000 and ladle 4 ACTIVE with a ring of 8 records at 0x8000. -/
def ringed : State :=
  { regs up [(.flaskEnabled, 1, 1), (.cqEnable, 1, 1), (.cqBaseLo, 1, 4), (.cqSizeLog2, 1, 2), (.ladleState, 4, 1), (.ladleEnable, 4, 1),
      (.ladleBaseLo, 4, 8), (.ladleSizeLog2, 4, 3), (.ladleTail, 4, 3)] with mem := { zeroed := true } }

theorem test_resume :
    let s := regs ringed [(.ladleState, 4, 2), (.riserAttempt, 4, 2)]
    s.bar0Up = true ∧ s.rd .ladleState 4 = 2 ∧ s.ladlePours 4 = []
    ∧ after (.resume 4) s (fun t => t.rd .ladleState 4 = 1 && t.rd .riserAttempt 4 = 0) := by
  decide +kernel

theorem test_abort :
    let s := regs ringed [(.ladleAbortIndex, 4, 1)]
    let late := { s with ladles := [(4, { ended := [1] })] }
    let none' := regs ringed [(.ladleAbortIndex, 4, 3)]
    s.rd .ladleState 4 ≠ 3 ∧ s.cqRoom 1 = true ∧ sub32 (none'.rd .ladleTail 4) 3 = 0 ∧ sub32 (s.rd .ladleTail 4) 1 = 2
    ∧ 1 ∉ (s.ladle 4).ended ∧ 1 ∈ (late.ladle 4).ended
    ∧ after (.abort 4) s (fun t => t.rd .ladleState 4 = 3 && decide ((t.ladle 4).aborting = some 1))
    ∧ after (.abort 4) late (fun t => t.rd .cqTail 1 = 1 && t.rd .ladleState 4 = 1 && decide (Sp.get? t.mem.cells 0x4000 = some 1))
    ∧ after (.abort 4) none' (fun t => t.rd .cqTail 1 = 1 && decide (Sp.get? t.mem.cells 0x4000 = some 0x40)) := by
  decide +kernel

theorem test_abort_ends :
    let s := { regs ringed [(.ladleState, 4, 3), (.ladleHead, 4, 2)] with ladles := [(4, { cut := some 1, aborting := some 1 })] }
    (s.ladle 4).aborting = some 1 ∧ s.rd .ladleState 4 = 3 ∧ s.cancelFlies 4 = false
    ∧ after (.abortCancelDone 4) s (fun t => t.rd .ladleState 4 = 2 && t.rd .stopCode 4 = 2 && t.rd .ladleHead 4 = 1) := by
  decide +kernel

theorem test_held_completion :
    let r : CqRec := { status := 0, tag := 7, index := 0, kind := 0, ladle := 4, opcode := 0 }
    let s := { regs ringed [(.cqFull, 1, 1)] with heldCq := [(1, [r])] }
    Sp.getD s.heldCq 1 [] = r :: [] ∧ s.cqRoom 1 = true
    ∧ after (.heldCompletionWrite 1) s (fun t => t.rd .cqTail 1 = 1 && t.rd .cqFull 1 = 0 && decide (Sp.get? t.mem.cells 0x4002 = some 7)) := by
  decide +kernel

theorem test_flask_reset :
    let s := withPour ringed (pour (.array 0) .queued [(0, 1)])
    let d := regs s [(.resetBusy, 1, 1), (.sem, 127, 5)]
    s.bar0Up = true ∧ s.bit .resetBusy 1 = false ∧ d.bit .resetBusy 1 = true ∧ d.tablesBusy 1 = false ∧ (∀ l < 4, d.cancelFlies (4 + l) = false)
    ∧ after (.flaskReset 1) s (fun t => t.bit .resetBusy 1 && t.pours.all (·.cancelled)) := by
  decide +kernel

/-- A flask reset ends once no GATHER of another flask uses a slot of the flask's tables (R435). -/
theorem test_flask_reset_tables :
    let d := regs ringed [(.resetBusy, 1, 1), (.sem, 127, 5), (.tableOwner, 255, 1)]
    let b := regs d [(.tableInflightB, 255, 1)]
    d.bit .resetBusy 1 = true ∧ b.tablesBusy 1 = true ∧ d.tablesBusy 1 = false
    ∧ after (.flaskResetDone 1) b (fun t => t.bit .resetBusy 1 && t.rd .sem 127 = 5) := by
  decide +kernel

/-- The memory with bytes at an address. -/
def memAt (l : List (Nat × List Byte)) : Store := l.foldl (fun m e => m.writeWords e.1 (e.2 ++ List.replicate ((8 - e.2.length % 8) % 8) 0) []) { zeroed := true }

/-- The 128 bytes of a record. -/
def recordBytes (l : List (Nat × Nat)) : List Byte := leBytes (record l).toNat 128

theorem test_dispatch :
    let nop := { regs ringed [(.sliceEligible, 0, 2)] with mem := memAt [(0x8000, recordBytes [(960, 9)])] }
    let bad := { ringed with mem := memAt [(0x8000, recordBytes [(0, 0x10)])] }
    let card := { ringed with mem := memAt [(0x8000, recordBytes [(0, 0xC0)]), (0x8080, recordBytes [(0, 5)])] }
    let m := nop.readLocal { rq := rqPour, flask := 1 } 0 0x8000 128
    let p := m.2.newPour 4 0 none (BitVec.ofNat 1024 (leNat m.1.bytes))
    nop.ladleMay 4 = true ∧ nop.recordAddr 4 0 = 0x8000 ∧ nop.readHeld 0x8000 128 = false ∧ farKey 0x8000 = false ∧ m.1.code = 0
    ∧ m.1.bytes.take 1 ≠ [0xC0] ∧ p.opcode = 0 ∧ m.2.queueRoom p.unit = true ∧ p.needsArrays = []
    ∧ nop.recordRead 4 0 = none ∧ m.2.derived .flaskEligible p.flask = 1
    ∧ (match m.2.passCheck p with | .ok q _ => decide (q.tag = 9) | _ => false) = true
    ∧ after (.ladleRecordDispatch 4) nop (fun t => t.rd .ladleHead 4 = 1 && t.pours.length = 1)
    ∧ after (.ladleRecordDispatch 4) bad (fun t => decide (t.pours.map (fun q => (q.stage, q.code)) = [(.faulted, 0x41)]))
    ∧ 2 ≤ sub32 (card.rd .ladleTail 4) 0
    ∧ after (.ladleRecordDispatch 4) card (fun t => t.rd .ladleHead 4 = 2 && (t.ladle 4).card.isSome) := by
  decide +kernel

theorem test_dispatch_full :
    let p := pour (.array 0) .queued [(0, 1)]
    let s := { ringed with mem := memAt [(0x8000, recordBytes [(0, 1)])], pours := List.replicate 8 p, nextPour := 2 }
    s.queueRoom (.array 0) = false ∧ after (.ladleRecordDispatch 4) s (fun t => t.rd .ladleHead 4 = 0 && t.pours.length = 8
      && decide ((t.ladle 4).record = some (0, record [(0, 1)]))) := by
  decide +kernel

/-- A record that was read and held back is dispatched without another read (R496). -/
theorem test_dispatch_held_record :
    let w := record [(960, 9)]
    let s := { regs ringed [(.sliceEligible, 0, 2)] with ladles := [(4, { record := some (0, w) })] }
    let p := s.newPour 4 (s.rd .ladleHead 4) none w
    s.ladleMay 4 = true ∧ s.recordRead 4 (s.rd .ladleHead 4) = some w ∧ p.opcode ≤ 0x0F ∧ s.derived .flaskEligible p.flask = 1
    ∧ s.queueRoom p.unit = true ∧ p.needsArrays = [] ∧ (match s.passCheck p with | .ok q _ => decide (q.tag = 9) | _ => false) = true
    ∧ after (.ladleRecordDispatch 4) s (fun t => t.rd .ladleHead 4 = 1 && decide (t.pours.map (·.tag) = [9] ∧ (t.ladle 4).record = none)) := by
  decide +kernel

theorem test_wait_release :
    let p := pour .dispatcher .queued [(0, 0xC), (30, 1), (864, 5)]
    let s := withPour (regs up [(.sem, 64, 5)]) p
    p.stage = .queued ∧ p.parked = false ∧ ¬(p.opcode = 9 ∧ p.unit = .dispatcher) ∧ s.headsQueue p = true ∧ s.waitsMet p = true ∧ (withPour up p).waitsMet p = false
    ∧ after (.pourWaitRelease 1) s (fun t => decide ((t.pour? 1).map (·.stage) = some .released))
    ∧ after (.pourWaitRelease 1) (withPour up p) (fun t => decide ((t.pour? 1).map (·.stage) = some .queued)) := by
  decide +kernel

/-! ### Heats -/

/-- A heat card of two passes: conditioning table at 0x1000, pass block at 0x2000, one record of the common section at 0x3000, PASS_SEM 6. -/
def card : BitVec 2048 :=
  BitVec.ofNat 2048 (0xC0 + (2 <<< 44) + (0x1000 <<< 64) + (0x2000 <<< 128) + (6 <<< (192 + 12)) + (0x3000 <<< 256) + (1 <<< 320))

/-- Flask 1 with a ring and a segment over the first 64 KiB. -/
def heated : State :=
  regs ringed [(.segValid, 256, 1), (.segLimit, 256, 0xFFFF), (.segRead, 256, 1), (.segWrite, 256, 1), (.ladleHead, 4, 2), (.ladleTail, 4, 2)]

theorem test_heat_card :
    let s := { heated with ladles := [(4, { card := some (0, card) })] }
    let odd := { s with ladles := [(4, { card := some (1, card) })] }
    let shut := regs s [(.segValid, 256, 0)]
    cardFormatOk card 0 = true ∧ s.cardAllowed 1 card = true
    ∧ after (.heatCard 4) s (fun t => decide ((Sp.get? t.heats 4).map (fun h => (h.index, h.pass)) = some (0, 0)))
    ∧ cardFormatOk card 1 = false ∧ odd.rd .ladleState 4 = 1
    ∧ after (.heatCard 4) odd (fun t => t.heats.isEmpty && t.rd .stopCode 4 = 0x40)
    ∧ shut.cardAllowed 1 card = false
    ∧ after (.heatCard 4) shut (fun t => t.heats.isEmpty && t.rd .stopCode 4 = 0x30 && t.rd .ladleState 4 = 2) := by
  decide +kernel

/-- That part with a heat of the card. -/
def inHeat (h : Heat) : State :=
  { heated with heats := [(4, h)], mem := memAt [(0x1000, List.replicate 16 0), (0x3000, recordBytes [(960, 9)])] }

/-- The heat at the start of its first pass. -/
def heat0 : Heat := { card := card, index := 0, pass := 0 }

theorem test_heat_pass_start :
    let gated : Heat := { heat0 with card := card + BitVec.ofNat 2048 ((1 <<< 18) + (1 <<< 224)) }
    (inHeat heat0).bit .replaying 4 = false ∧ (inHeat heat0).cutCovers 4 0 = false ∧ (inHeat heat0).flaskRuns 1 = true ∧ heat0.stopCode = none
    ∧ after (.heatPassStart 4) (regs (inHeat heat0) [(.sem, 70, 9)]) (fun t => t.rd .sem 70 = 0 && decide ((Sp.get? t.heats 4).map (·.stage) = some .passBlock))
    ∧ cardF gated.card 0 18 1 = 1 ∧ semGe ((inHeat gated).rd .sem 64) (cardF gated.card 0x18 32 32 + 0) = false
    ∧ after (.heatPassStart 4) (inHeat gated) (fun t => decide (Sp.get? t.heats 4 = some gated)) := by
  decide +kernel

/-- The heat with its pass block under way. -/
def heat1 : Heat := { heat0 with stage := .passBlock, started := true, sections := List.replicate 3 {} }

theorem test_pass_block :
    let s := { inHeat heat1 with time := { now := 77 } }
    let who : Who := { rq := rqHeat, flask := 1, ladle := some 4 }
    let m := s.readLocal who (s.hintOf 1 0x1000 64 0 .read) 0x1000 64
    s.cutCovers 4 heat1.index = false ∧ s.tc2 = [] ∧ cardTable card + 64 * 0 = 0x1000 ∧ (∀ i < 4, cardBytes card i = 0) ∧ m.1.code = 0 ∧ s.drains 0x1000 64 = false
    ∧ (m.2.put who none 0 0x2000 (List.replicate 128 0) []).isOk = true
    ∧ (∀ i < 4, leNat ((m.1.bytes.drop (0x10 + 8 * i)).take 8) < 2 ^ 44)
    ∧ after (.passBlockReady 4) s (fun t => t.rd .sem 70 = 1 && decide (Sp.get? t.mem.cells 0x2048 = some 77
        ∧ (Sp.get? t.heats 4).map (·.stage) = some .running)) := by
  decide +kernel

theorem test_section_dispatch :
    let s := inHeat { heat1 with stage := .running }
    (heat1.sections[0]?) = some { pos := 0 } ∧ cardProgCount card 0 = 1 ∧ s.sourceHeld 4 0 = false ∧ s.heatHeld 4 0 = false ∧ s.readHeld 0x3000 128 = false
    ∧ after (.heatSectionDispatch 4 0) s (fun t => t.pours.length = 1 && t.rd .heatSection 4 = 0
        && decide ((Sp.get? t.heats 4).map (fun h => h.sections.map (·.pos)) = some [1, 0, 0])) := by
  decide +kernel

/-- A record that its queue has no room for stays with the section. -/
theorem test_section_held :
    let h := inHeat { heat1 with stage := .running }
    let full : List Pour := List.replicate 8 (pour (.array 0) .queued [(0, 1)])
    let s := { h with mem := memAt [(0x3000, recordBytes [(0, 1)])], pours := full }
    s.sourceHeld 4 0 = false ∧ s.heatHeld 4 0 = false ∧ s.readHeld 0x3000 128 = false
    ∧ after (.heatSectionDispatch 4 0) s (fun t => t.pours.length = 8
        && decide ((Sp.get? t.heats 4).map (fun h => h.sections.map (fun x => (x.pos, x.record.isSome))) = some [(0, true), (0, false), (0, false)])) := by
  decide +kernel

theorem test_loop_record :
    let c : BitVec 2048 := card + BitVec.ofNat 2048 (1 <<< 320)
    let w : BitVec 1024 := record [(0, 0xC1), (16, 1), (32, 3)]
    let s := { inHeat { heat1 with card := c, stage := .running } with mem := memAt [(0x3000, leBytes w.toNat 128)] }
    loopOk [] 0 (cardProgCount c 0) w = true
    ∧ after (.heatSectionDispatch 4 0) s (fun t => t.pours.isEmpty
        && decide ((Sp.get? t.heats 4).map (fun h => (h.sections.headD {}).loops) = some [{ first := 1, last := 1, iter := 0, word := w }])) := by
  decide +kernel

theorem test_heat_end :
    let stopped : Heat := { heat1 with stopCode := some 0x80 }
    let last : Heat := { heat1 with pass := 1, stage := .running, sections := [{ pos := 1 }, {}, {}] }
    (inHeat stopped).heatPours 4 = [] ∧ (inHeat stopped).cutCovers 4 stopped.index = false ∧ (inHeat last).cutCovers 4 last.index = false ∧ (inHeat stopped).rd .ladleState 4 = 1 ∧ (inHeat stopped).heatReplays 4 = false ∧ (inHeat stopped).bit .replaying 4 = false
    ∧ after (.heatEnd 4) (inHeat stopped) (fun t => t.heats.isEmpty && t.rd .stopCode 4 = 0x80 && t.rd .ladleState 4 = 2)
    ∧ (∀ i < 3, last.sectionDone i = true) ∧ last.pass + 1 = cardCount last.card
    ∧ after (.heatEnd 4) (inHeat last) (fun t => t.heats.isEmpty && t.rd .ladleState 4 = 1 && t.rd .cqTail 1 = 1) := by
  decide +kernel

/-! ### Dispatcher pours and ends -/

theorem test_dispatcher_pours :
    let s (op sub : Nat) := withPour ringed (pour .dispatcher .released [(0, op), (8, sub), (32, 1), (33, 1), (840, 2), (848, 3)])
    let drained (op sub : Nat) := (s op sub).fenceDrained (pour .dispatcher .released [(0, op), (8, sub)])
    let ok (i : Instr) (op sub : Nat) : Bool :=
      (s op sub).starts (pour .dispatcher .released [(0, op), (8, sub)]) && !(s op sub).cutCovers 4 0
        && after i (s op sub) (fun t => t.pours.isEmpty && t.rd .sem 66 = 3 && t.rd .cqTail 1 = 1)
    ok (.nop 1) 0 0 ∧ ok (.wait 1) 0xC 0 ∧ ok (.signal 1) 0xD 0 ∧ ok (.signalAfterComplete 1) 0xD 1 ∧ ok (.fence 1) 0xE 0 ∧ ok (.fenceFlask 1) 0xE 1
    ∧ drained 0xE 0 = true
    ∧ after (.fence 1) { s 0xE 0 with pours := { pour (.array 0) .running [(0, 1)] with id := 0 } :: (s 0xE 0).pours } (fun t => t.pours.length = 2) := by
  decide +kernel

theorem test_pour_complete :
    let p := pour (.array 0) .ran [(0, 1), (33, 1)]
    let s := withPour ringed p
    s.accepted p = true ∧ s.cutCovers p.ladle p.index = false ∧ p.needsArrays = [0] ∧ s.pours = [p]
    ∧ after (.pourComplete 1) s (fun t => t.pours.isEmpty && t.rd .cqTail 1 = 1 && decide (Sp.get? t.mem.cells 0x4000 = none)) := by
  decide +kernel

theorem test_pour_fault :
    let p := { pour (.array 0) .faulted [(0, 1)] with code := 0x30 }
    let s := withPour ringed p
    let h := { inHeat heat1 with pours := [{ p with heat := some { pass := 0, sec := 0, prog := 0 } }] }
    p.code ≠ 0 ∧ p.cancelled = false ∧ s.replays p = false ∧ s.flies p = false ∧ s.cutCovers 4 0 = false ∧ s.pours = [p] ∧ s.rd .ladleState 4 = 1
    ∧ after (.pourFault 1) s (fun t => t.pours.isEmpty && t.rd .ladleState 4 = 2 && t.rd .stopCode 4 = 0x30 && t.rd .cqTail 1 = 1)
    ∧ after (.pourFault 1) h (fun t => t.rd .ladleState 4 = 1 && decide ((Sp.get? t.heats 4).map (·.stopCode) = some (some 0x30))) := by
  decide +kernel

/-! ### Pours of an array -/

/-- Flask 1, eligible, with array 0 its own, on a part whose base dies are all memory. -/
def owned : State := regs heated [(.arrayOwned, 0, 1), (.arrayOwnerFlask, 0, 1), (.sliceEligible, 0, 2), (.memMode, 0, 1)]

/-- An MM pour over FP8 operands at a stage: its sources, M, N and K, and a bank as its destination. -/
def mmPour (stage : Stage) (src m k : Nat) : Pour :=
  pour (.array 0) stage [(0, 1), (64, m), (80, 1), (96, k), (249, src), (320, 3), (441, src), (512, 3), (633, 2), (640, 0x3F800000)]

theorem test_array_pours :
    let s (k m : Nat) := withPour owned (mmPour .released 0 m k)
    (s 16 1).arrayMay (mmPour .released 0 1 16) = true
    ∧ (s 17 1).checkArray (mmPour .released 0 1 17) = 0x40
    ∧ after (.mm 1) (s 17 1) (fun t => decide ((t.pour? 1).map (fun q => (q.stage, q.code)) = some (.faulted, 0x40)))
    ∧ (mmPour .released 0 0 16).dests = [] ∧ (mmPour .released 0 0 16).due = [] ∧ (s 16 0).tc2 = []
    ∧ (s 16 0).checkArray (mmPour .released 0 0 16) = 0 ∧ (mmPour .released 0 0 16).zeroSize = true
    ∧ after (.mm 1) (s 16 0) (fun t => decide ((t.pour? 1).map (·.stage) = some .ran))
    ∧ (s 16 1).operandSpans (mmPour .released 0 1 16) ≠ []
    ∧ after (.mm 1) (s 16 1) (fun t => decide ((t.pour? 1).map (·.stage) = some .loading) && decide ((t.array 0).credit = 16777216 - 256 * 4)) := by
  decide +kernel

/-- A pour that waits for a tile of the mesh grants its sender a credit for each tile of its region. -/
theorem test_array_credits :
    let p := { pour (.array 0) .released [(0, 1), (64, 1), (80, 1), (96, 64), (192, 0x201), (249, 3), (320, 3), (441, 1), (512, 3), (633, 2), (640, 0x3F800000)] with k := 32 }
    let s := withPour owned p
    s.arrayMay p = true ∧ s.checkArray p = 0 ∧ p.zeroSize = false ∧ p.meshNeeds = [{ operand := 0, src := 1, items := 2, credits := 2, discards := 1 }]
    ∧ after (.mm 1) s (fun t => decide ((t.pour? 1).map (·.stage) = some .loading ∧ (t.array 1).inbox = [(0, 0, .credit), (0, 0, .credit)])) := by
  decide +kernel

/-- The premises of `StartsResident`, decided, of a pour before c0. -/
def resident (s : State) (id op : Nat) (spans : State → Pour → List Span) (p0 : Pour) : Bool :=
  let p := { p0 with begun := true }
  decide (s.pour? id = some p0) && s.arrayMay p0 && decide (s.checkArray p0 = 0) && decide (p.opcode = op)
    && decide (1 ≤ p.m ∧ 1 ≤ p.n ∧ p.tileShape = 0) && decide (p.progress = 0 ∧ p.due = [] ∧ p.held = [] ∧ p.empties = []) && s.wayClear p
    && decide (spans (s.onPour id (fun _ => p)) p = [] ∧ ∀ e ∈ p.meshNeeds, e.items = 0) && s.banksFree p

theorem resident_starts {s : State} {id op : Nat} {spans : State → Pour → List Span} {p0 : Pour} (h : resident s id op spans p0 = true) :
    StartsResident s id op spans { p0 with begun := true } := by
  simp only [resident, Bool.and_eq_true, decide_eq_true_eq] at h
  obtain ⟨⟨⟨⟨⟨⟨⟨⟨h1, h2⟩, h3⟩, h4⟩, h5⟩, h6⟩, h9⟩, h7⟩, h8⟩ := h
  exact ⟨⟨p0, h1, rfl, h2, h3⟩, h4, h5, h6, h9, h7, h8⟩

/-- A part whose array 0 holds these bytes at the start of its buffers, and its pour. -/
def withBuffers (p : Pour) (a b : List Byte) : State :=
  { withPour owned p with arrays := [(0, { bufA := memAt [(0, a)], bufB := memAt [(0, b)], scratch := memAt [], line := memAt [] })] }

/-- Whether a run ends well with the pour as it was, which the state after it still holds. -/
def okRun {α : Type} (r : Run α) (p : Pour) : Bool :=
  match r with
  | .ok _ u q => decide (q = p ∧ u.pour? 1 = some p ∧ u.tc2 = [])
  | _ => false

theorem test_mm_resident :
    let p0 := mmPour .released 1 1 16
    let p : Pour := { p0 with begun := true }
    let s := withBuffers p0 (List.replicate 16 0x38) (List.replicate 16 0x40)
    StartsResident s 1 1 State.operandSpans p ∧ (p.initKind = 0 ∧ p.dOut.src = srcBank
      ∧ okRun ((s.beginArray p).mmPass p ⟨0, 0, 0, false⟩ (tileOf 32 32 (fun _ _ => .zero)) (ceilDiv p.k 32) 0) p = true
      ∧ after (.mm 1) s (fun t => decide ((t.pour? 1).map (·.stage) = some .ran ∧ (t.array 0).held = some 0)
          && decide (Sp.getD (t.array 0).banks 0 0 = 0x42000000))) :=
  ⟨resident_starts (by decide +kernel), by decide +kernel⟩

theorem test_mmc_resident :
    let p0 := pour (.array 0) .released [(0, 2), (64, 1), (80, 1), (192, 0x201), (249, 3), (320, 3), (441, 1), (512, 3), (633, 2), (640, 0x3F800000), (976, 2)]
    let p : Pour := { p0 with begun := true }
    let s := withBuffers p0 [] []
    StartsResident s 1 2 State.operandSpans p ∧ (p.initKind = 0 ∧ p.dOut.src = srcBank ∧ p.k = 0
      ∧ after (.mmc 1) s (fun t => decide ((t.pour? 1).map (·.stage) = some .ran ∧ (t.array 0).held = some 0))) :=
  ⟨resident_starts (by decide +kernel), by decide +kernel⟩

/-- A CONV or DW pour all of whose positions read padding, its B operand in its buffer and its output in its bank or its buffer A. -/
def paddedPour (op : Nat) : Pour :=
  let k := if op = 4 then 1 else 32
  { pour (.array 0) .released [(0, op), (64, 1), (80, 1), (96, k), (320, 5), (441, 1), (512, 5), (633, 1), (704, 5),
      (640, 0x3F800000), (976, 1 + 8 + 64 + (1 <<< 21))] with
    words := [1 + (1 <<< 16) + (1 <<< 32) + (32 <<< 48), 0, 0] }

/-- The state in which the passes of that pour begin. -/
def padded (s : State) (p : Pour) : State :=
  let b := s.beginArray p
  let planes := b.loadedPlanes p
  (planes.foldl (fun (u : State) kt => (List.range p.geo.kh).foldl
    (fun (u : State) kh => u.writeLine p kt kh (p.lineUnits (fun _ _ => (0, [])) kt kh)) u) b).fillSlots p planes

theorem test_conv_resident :
    let p0 := paddedPour 3
    let p : Pour := { p0 with begun := true }
    let s := withBuffers p0 [] []
    StartsResident s 1 3 State.windowSpans p ∧ (p.initKind = 0 ∧ p.dOut.src = srcBuffer ∧ p.noOut = false ∧ (valueFn p.rowFn).isSome = true
      ∧ okRun ((padded s p).convPass p ⟨0, 0, 0, false⟩ (tileOf 32 32 (fun _ _ => .zero)) (p.k / 32) 0) p = true
      ∧ after (.conv 1) s (fun t => !t.planesBad p
          && decide ((t.pour? 1).map (·.stage) = some .ran ∧ (t.array 0).planes.length = 1))) :=
  ⟨resident_starts (by decide +kernel), by decide +kernel⟩

theorem test_dw_resident :
    let p0 := paddedPour 4
    let p : Pour := { p0 with begun := true }
    let s := withBuffers p0 [7] []
    StartsResident s 1 4 State.windowSpans p ∧ (p.initKind = 0 ∧ p.dOut.src = srcBuffer ∧ p.noOut = false ∧ (valueFn p.rowFn).isSome = true
      ∧ okRun ((padded s p).dwPass p ⟨0, 0, 0, false⟩ (tileOf 32 32 (fun _ _ => .zero)) p.geo.taps 0) p = true
      ∧ after (.dw 1) s (fun t => decide ((t.pour? 1).map (·.stage) = some .ran))) :=
  ⟨resident_starts (by decide +kernel), by decide +kernel⟩

theorem test_row_resident :
    let p0 := pour (.array 0) .released [(0, 5), (64, 1), (80, 1), (249, 1), (320, 3), (633, 1), (640, 0x3F800000), (704, 6), (714, 2)]
    let p : Pour := { p0 with begun := true }
    let s := withBuffers p0 [0x38] []
    StartsResident s 1 5 State.operandSpans p ∧ (p.dA.src = srcBuffer ∧ p.dOut.src = srcBuffer ∧ p.noOut = false ∧ (valueFn p.rowFn).isSome = true
      ∧ okRun ((s.beginArray p).readOwn p 0 (p.dA.tileOff p.packed 0 0) p.dA.tb) p = true
      ∧ after (.row 1) s (fun t => decide ((t.pour? 1).map (·.stage) = some .ran))) :=
  ⟨resident_starts (by decide +kernel), by decide +kernel⟩

/-- A CONV or DW pour of one position with a 1 × 1 window over one tile of input at 0. -/
def convPour (op : Nat) : Pour :=
  let k := if op = 4 then 1 else 32
  { pour (.array 0) .released [(0, op), (64, 1), (80, 1), (96, k), (320, 5), (512, 5), (704, 5), (640, 0x3F800000), (976, 1 + 8 + 64)] with
    words := [1 + (1 <<< 16) + (1 <<< 32) + (32 <<< 48), 0, 0] }

theorem test_window_pours :
    let s (op : Nat) := withPour owned (convPour op)
    (s 3).arrayMay (convPour 3) = true ∧ (s 3).checkArray (convPour 3) = 0 ∧ (s 3).windowSpans (convPour 3) ≠ []
    ∧ after (.conv 1) (s 3) (fun t => decide ((t.pour? 1).map (·.stage) = some .loading))
    ∧ (s 4).arrayMay (convPour 4) = true ∧ (s 4).checkArray (convPour 4) = 0 ∧ (s 4).windowSpans (convPour 4) ≠ []
    ∧ after (.dw 1) (s 4) (fun t => decide ((t.pour? 1).map (·.stage) = some .loading)) := by
  decide +kernel

theorem test_operands_fault :
    let p := mmPour .loading 0 1 16
    let s := { withPour owned p with mem := (memAt []).poisonWord 2 }
    p.isArray = true ∧ p.meshComplete = true ∧ s.banksFree p = true ∧ s.loadsHeld p = false ∧ p.opcode ≠ 3 ∧ p.opcode ≠ 4
    ∧ (match s.load p p.array (s.operandLoads p) with
        | .got rs u => decide (u.pour? 1 = some p) && (loadStop ((s.operandLoads p).map (·.span)) rs).isSome
        | _ => false) = true
    ∧ after (.operandsLanded 1) s (fun t => decide ((t.pour? 1).map (fun q => (q.stage, q.code)) = some (.faulted, 0x11))) := by
  decide +kernel

theorem test_matrix_product :
    let p := mmPour .loading 1 1 16
    let r : ArrayRt := { bufA := memAt [(0, List.replicate 16 0x38)], bufB := memAt [(0, List.replicate 16 0x40)] }
    let s := { withPour owned p with arrays := [(0, r)] }
    p.meshComplete = true ∧ s.banksFree p = true ∧ s.loadsHeld p = false ∧ p.visitMask = false ∧ p.progress = 0 ∧ p.due = [] ∧ p.held = []
    ∧ p.empties = [] ∧ s.wayClear p = true
    ∧ (match s.load p p.array (s.operandLoads p) with
        | .got rs u => decide (u.pour? 1 = some p) && (loadStop ((s.operandLoads p).map (·.span)) rs).isNone
            && (match u.readOwn p 0 (p.dA.tileOff p.packed 0 0) p.dA.tb with
                | .ok _ u1 q => decide (q = p) && (match u1.readOwn p 1 (p.dB.tileOff p.packed 0 0) p.dB.tb with
                  | .ok _ u2 q => decide (q = p ∧ u2.pour? 1 = some p) && u.wayClear p
                  | _ => false)
                | _ => false)
        | _ => false) = true
    ∧ after (.operandsLanded 1) s (fun t => decide ((t.pour? 1).map (·.stage) = some .ran ∧ (t.array 0).held = some 0)
        && decide (Sp.getD (t.array 0).banks 0 0 = 0x42000000)) := by
  decide +kernel

/-! ### The mesh -/

/-- An MM or MMC pour of array 0 whose A operand comes from array 1 and whose B operand is in its buffer. -/
def meshPour (op : Nat) (stage : Stage) (k : Nat) : Pour :=
  pour (.array 0) stage [(0, op), (64, 1), (80, 1), (96, k), (192, 0x201), (249, 3), (320, 3), (441, 1), (512, 3), (633, 2), (640, 0x3F800000), (976, if op = 2 then 2 else 0)]

/-- A state with that pour and one item from array 1 in the inbox of array 0. -/
def arrives (p : Pour) (item : MeshItem) (l : List (Nat × Nat)) : State :=
  { withPour owned p with arrays := [(0, { inbox := [(1, 9, item)], discard := l, bufA := memAt [], bufB := memAt [(0, List.replicate 16 0x40)] }), (1, { credits := [(0, 5)] })] }

/-- A tile of zeros but for its last byte. -/
def lastByte : MeshItem := .tile 3 false none (List.replicate 1023 0 ++ [7])

theorem test_mesh_tile_expected :
    let p := meshPour 1 .loading 16
    let s := arrives p lastByte []
    (s.array 0).inbox = [(1, 9, lastByte)] ∧ Sp.getD (s.array 0).discard 1 0 = 0
    ∧ (s.onArray 0 (fun r => { r with inbox := [] })).receiver 0 1 = some (p, 0) ∧ s.pour? 1 = some p
    ∧ (s.onArray 0 (fun r => { r with inbox := [] })).itemHeld p 0 = false
    ∧ p.agrees 3 false = true ∧ (p.itemPlace 0 (p.arrived 0)).2.2 = 1024 ∧ p.agrees 4 false = false := by
  decide +kernel

theorem test_mesh_tile : after (.meshTileArrive 0) (arrives (meshPour 1 .loading 16) lastByte []) (fun t =>
    decide ((t.pour? 1).map (·.aux) = some [1, 0, 0]) && decide (Sp.get? (t.array 0).bufA.cells 1023 = some 7)) := by
  decide +kernel

theorem test_mesh_tile_form : after (.meshTileArrive 0) (arrives (meshPour 1 .loading 16) (.tile 4 false none []) []) (fun t =>
    decide ((t.pour? 1).map (fun q => (q.stage, q.code)) = some (.faulted, 0x40))) := by
  decide +kernel

theorem test_mesh_tile_discarded : after (.meshTileArrive 0) (arrives (meshPour 1 .loading 16) lastByte [(1, 2)]) (fun t =>
    decide (Sp.getD (t.array 0).discard 1 0 = 1 ∧ (t.array 0).inbox = [])) := by
  decide +kernel

theorem test_mesh_other_items :
    let p := meshPour 1 .loading 16
    let s (i : MeshItem) := arrives p i []
    let d (i : MeshItem) := arrives p i [(1, 2)]
    ((s .empty).onArray 0 (fun r => { r with inbox := [] })).receiver 0 1 = some (p, 0) ∧ (s .empty).pour? 1 = some p
    ∧ after (.emptyMarkerArrive 0) (s .empty) (fun t => decide (t.pour? 1 = some (({ p with empties := [(0, 0)] } : Pour).took 0)))
    ∧ after (.emptyMarkerArrive 0) (d .empty) (fun t => decide (Sp.getD (t.array 0).discard 1 0 = 1))
    ∧ after (.breakArrive 0) (s (.brk 0x12)) (fun t => decide ((t.pour? 1).map (fun q => (q.stage, q.code)) = some (.faulted, 0x12))
        && decide (Sp.getD (t.array 1).credits 0 0 = 0))
    ∧ after (.breakArrive 0) (d (.brk 0x12)) (fun t => decide (Sp.getD (t.array 0).discard 1 0 = 0 ∧ t.pours.map (·.stage) = [.loading]))
    ∧ ((s .empty).onArray 0 (fun r => { r with inbox := [] })).itemHeld p 0 = false
    ∧ (∀ q ∈ (s .credit).pours, q.unit = .array 0 → q.stage ≠ .running)
    ∧ after (.creditArrive 0) (s .credit) (fun t => decide (Sp.getD (t.array 0).credits 1 0 = 1)) := by
  decide +kernel

theorem test_credit_sends :
    let s := { owned with arrays := [(0, { inbox := [(1, 0, .credit)], outbox := [(9, [1], lastByte)] })] }
    (s.array 0).outbox = [(9, [1], lastByte)] ∧ s.pours = []
    ∧ after (.creditArrive 0) s (fun t => decide ((t.array 0).outbox = [] ∧ Sp.getD (t.array 0).credits 1 0 = 0
        ∧ (t.array 1).inbox = [(0, 9, lastByte)])) := by
  decide +kernel

theorem test_mmc_starts :
    let p := meshPour 2 .loading 48
    let s := { withPour owned p with arrays := [(0, { bufB := memAt [] })] }
    p.meshComplete = true ∧ s.banksFree p = true ∧ s.loadsHeld p = false ∧ p.initKind = 0 ∧ p.tileShape = 0 ∧ p.mmcDone = false
    ∧ (match s.load p p.array (s.operandLoads p) with
        | .got rs u => decide (u.pour? 1 = some p) && (loadStop ((s.operandLoads p).map (·.span)) rs).isNone
        | _ => false) = true
    ∧ after (.operandsLanded 1) s (fun t => decide (t.pour? 1 = some { p with stage := .running })) := by
  decide +kernel

/-- The last tile of an MMC pour, whose bank is its output. -/
theorem test_stream_last :
    let p := meshPour 2 .running 16
    let data : List Byte := List.replicate 16 0x38 ++ List.replicate 1008 0
    let s := arrives p (.tile 3 false none data) []
    ceilDiv p.k 32 ≤ p.arrived 0 + 1 ∧ p.initKind = 0 ∧ p.dOut.src = srcBank ∧ p.progress = 0 ∧ p.due = [] ∧ p.held = [] ∧ s.wayClear p = true
    ∧ after (.meshTileArrive 0) s (fun t => decide ((t.pour? 1).map (·.stage) = some .ran ∧ (t.array 0).held = some 0)) := by
  decide +kernel

theorem test_stream :
    let p := meshPour 2 .running 48
    let data : List Byte := List.replicate 16 0x38 ++ List.replicate 16 0 ++ List.replicate 992 0
    let s := arrives p (.tile 3 false none data) []
    let s1 := s.onArray 0 (fun r => { r with inbox := [] })
    let w := s1.writeStore p.array 0 (p.dA.bufOff + p.arrived 0 % p.ringSlots * p.slotBytes) data []
    s1.receiver 0 1 = some (p, 0) ∧ s.pour? 1 = some p ∧ s1.itemHeld p 0 = false ∧ p.agrees 3 false = true ∧ p.arrived 0 + 1 < ceilDiv p.k 32 ∧ data.length = p.dA.tb
    ∧ (match w.readOwn p 1 (p.dB.tileOff p.packed 0 (p.arrived 0)) p.dB.tb with
        | .ok _ u q => decide (q = p ∧ u.pour? 1 = some p)
        | _ => false) = true
    ∧ after (.meshTileArrive 0) s (fun t => decide (t.pour? 1 = some (p.took 0) ∧ (p.array, 0, MeshItem.credit) ∈ (t.array 1).inbox)) := by
  decide +kernel

theorem test_banks :
    let s (h : Option Nat) := { owned with arrays := [(0, { claimed := [0, 1], held := h, outbox := List.replicate 3 (9, [1], .empty) })] }
    1 ∈ ((s (some 0)).array 0).claimed ∧ after (.bankRelease 0 1) (s (some 0)) (fun t => decide ((t.array 0).claimed = [0]))
    ∧ after (.bankRelease 0 1) (s (some 1)) (fun t => decide (t.arrays = (s (some 1)).arrays)) := by
  decide +kernel

theorem test_parity :
    let s := { owned with time := { now := 100 }, arrays := [(0, { parityTimes := [97, 98, 99], routerTimes := [99] })] }
    let p := meshPour 1 .running 16
    let q := withPour owned p
    s.ready = true ∧ 3 ≤ (recent s.now (s.array 0).parityTimes).length ∧ 1 ≤ (recent s.now (s.array 0).routerTimes).length
    ∧ after (.datapathParity 0 false) s (fun t => t.fenced 0 && !t.routeFenced 0)
    ∧ after (.datapathParity 0 true) s (fun t => t.routeFenced 0)
    ∧ (recent q.now (q.array 0).parityTimes).length < 3 ∧ q.pours = [p] ∧ p.zeroSize = false ∧ p.cancelled = false
    ∧ after (.datapathParity 0 false) q (fun t => decide ((t.pour? 1).map (fun q => (q.stage, q.code)) = some (.faulted, 0x12)) && !t.fenced 0) := by
  decide +kernel

/-! ### Sharing of arrays -/

theorem test_sharing :
    let p := mmPour .queued 0 1 16
    let free := { withPour (regs owned [(.arrayOwned, 0, 0)]) { p with parked := true } with arrays := [(0, { saved := [(1, 15)] })] }
    let gone := withPour (regs owned [(.sliceEligible, 0, 0)]) p
    let back := { owned with arrays := [(0, { saved := [(1, 15)], restoring := true })] }
    free.nextOwner 0 = some 1 ∧ (withPour owned p).nextOwner 5 = none
    ∧ after (.arrayTakeOwner 0) free (fun t => t.bit .arrayOwned 0 && t.rd .arrayOwnerFlask 0 = 1 && (t.array 0).restoring && t.pours.all (fun q => !q.parked))
    ∧ gone.arrayIdle 0 = true ∧ gone.derived .flaskEligible 1 = 0 ∧ (gone.array 0).lastLive = 0
    ∧ after (.arrayParkSave 0) gone (fun t => !t.bit .arrayOwned 0 && decide (Sp.get? (t.array 0).saved 1 = some 0) && t.pours.all (·.parked))
    ∧ (back.array 0).restoring = true ∧ back.drains (back.saveArea 1 0) 598016 = false := by
  decide +kernel

/-! ### Runners and regions -/

/-- Whether a part goes through, or waits. -/
def goesOn : Part → Bool
  | .next _ _ => true
  | _ => false
def waits : Part → Bool
  | .wait _ _ => true
  | _ => false

/-- The steps of a pour, as `StepsTo` has them. -/
def walk (mv : Move) : Nat → State → Pour → Option (State × Pour)
  | 0, s, p => some (s, p)
  | n + 1, s, p =>
    if decide (p.progress < mv.count p) || !p.held.isEmpty then
      match s.moveStep p p.progress mv with
      | .next s1 p1 => walk mv n s1 p1
      | _ => none
    else none

theorem walk_steps {mv : Move} {n : Nat} {s : State} {p : Pour} {u : State} {q : Pour} (h : walk mv n s p = some (u, q)) :
    StepsTo mv n s p u q := by
  induction n generalizing s p with
  | zero => simpa [walk, StepsTo, eq_comm] using h
  | succ n ih =>
    simp only [walk] at h
    split at h
    · rename_i hc
      split at h
      · rename_i s1 p1 hm
        exact ⟨by simpa using hc, s1, p1, hm, ih h⟩
      · cases h
    · cases h

/-- Where the steps of a pour lead. -/
def walked (mv : Move) (n : Nat) (s : State) (p : Pour) : State × Pour := (walk mv n s p).getD (s, p)

theorem walked_steps {mv : Move} {n : Nat} {s : State} {p : Pour} (h : (walk mv n s p).isSome = true) :
    StepsTo mv n s p (walked mv n s p).1 (walked mv n s p).2 := by
  apply walk_steps
  cases hw : walk mv n s p with
  | none => simp [hw] at h
  | some x => simp [walked, hw]

/-- A TILES move of one FP8 tile from 0x1000 to 0x2000, or a FILL of one unit at 0x2000. -/
def movePour (op : Nat) : Pour :=
  pour (.runner 0) .released [(0, op), (64, 1), (80, 1), (96, if op = 7 then 1 else 0), (192, 0x1000), (320, 3), (384, 0x0807060504030201), (576, 0x2000), (704, 3)]

/-- A part with memory at 0x1000 and flask 1 and this pour. -/
def moving (p : Pour) : State := { withPour owned p with mem := memAt [(0x1000, [9])] }

theorem test_tiles :
    let p := movePour 6
    let s := moving p
    let bad := { p with word := p.word + BitVec.ofNat 1024 (1 <<< 38) }
    let none' := { p with m := 0 }
    s.pour? 1 = some p ∧ s.runnerMay p 6 = true ∧ p.stage ≠ .running ∧ s.checkRunner p = 0 ∧ p.idleMove = false
    ∧ after (.tiles 1) s (fun t => decide ((t.pour? 1).map (·.stage) = some .ran ∧ Sp.get? t.mem.cells 0x2000 = some 9))
    ∧ (moving bad).runnerMay bad 6 = true ∧ (moving bad).checkRunner bad ≠ 0
    ∧ after (.tiles 1) (moving bad) (fun t => decide ((t.pour? 1).map (fun q => (q.stage, q.code)) = some (.faulted, 0x40)))
    ∧ none'.idleMove = true ∧ (moving none').checkRunner none' = 0
    ∧ after (.tiles 1) (moving none') (fun t => decide ((t.pour? 1).map (·.stage) = some .ran)) := by
  decide +kernel

/-- The steps of a TILES move: a read and a write, and it has run; one that waits for an earlier write; and one whose read fails. -/
theorem test_tiles_steps :
    let p0 := { movePour 6 with stage := .running }
    let s := moving (movePour 6)
    let torn := { s with mem := (memAt []).poisonWord 0x200 }
    let w : State := { s with tc2 := [{ waitingRead with op := 0x82, pour := some 1 }] }
    let e := walked moveTilesMode 2 s p0
    let b := walked moveTilesMode 1 torn p0
    StepsTo moveTilesMode 2 s p0 e.1 e.2 ∧ StepsTo moveTilesMode 1 torn p0 b.1 b.2 ∧ StepsTo moveTilesMode 0 w p0 w p0
    ∧ (2 < moveTilesMode.steps p0 ∧ e.2.id = p0.id ∧ moveTilesMode.count e.2 ≤ e.2.progress ∧ e.2.held = [] ∧ (e.1.pour? 1).isSome = true
      ∧ b.2.id = p0.id ∧ b.2.held ≠ [] ∧ b.2.code = 0x11
      ∧ p0.progress < moveTilesMode.count p0 ∧ waits (w.moveStep p0 p0.progress moveTilesMode) = true
      ∧ after (.tiles 1) torn (fun t => decide ((t.pour? 1).map (fun q => (q.stage, q.code)) = some (.faulted, 0x11)))
      ∧ after (.tiles 1) w (fun t => decide ((t.pour? 1).map (fun q => (q.stage, q.progress)) = some (.running, 0)))) :=
  ⟨walked_steps (by decide +kernel), walked_steps (by decide +kernel), ⟨rfl, rfl⟩, by decide +kernel⟩

theorem test_tile_copied :
    let p := movePour 6
    let s := moving p
    let src := p.dA.tileAddr 1 0 0
    let dst := p.dOut.tileAddr 1 0 0
    let m := s.readLocal p.runnerWho (s.hintOf p.flask src p.dA.mb p.dA.hint .read) src p.dA.mb
    p.moveMode = 0 ∧ p.m ≤ 32 ∧ p.n ≤ 32 ∧ p.progress = 0 ∧ p.held = [] ∧ p.code = 0 ∧ s.tc2 = []
    ∧ ceilDiv p.nMax 32 = 1 ∧ p.dA.src = srcMemory ∧ p.dOut.src = srcMemory ∧ p.dA.remote = false ∧ p.dOut.remote = false ∧ p.dA.haze = p.dOut.haze
    ∧ farKey src = false ∧ farKey dst = false ∧ dst % 8 = 0 ∧ s.drains src p.dA.mb = false ∧ m.1.code = 0 ∧ m.1.failed = []
    ∧ m.1.bytes.length = p.dA.mb ∧ p.dA.mb % 8 = 0 ∧ m.2.drains dst p.dA.mb = false := by
  decide +kernel

theorem test_fill :
    let p := movePour 7
    let s := moving p
    s.runnerMay p 7 = true ∧ s.checkRunner p = 0 ∧ p.idleMove = false ∧ p.progress = 0 ∧ p.held = [] ∧ p.code = 0 ∧ p.fillParts = [(0, p.k)]
    ∧ p.dOut.src = srcMemory ∧ s.tc2 = [] ∧ farKey p.dOut.addr = false ∧ p.dOut.addr % 8 = 0 ∧ s.drains p.dOut.addr (64 * p.k) = false
    ∧ after (.fill 1) s (fun t => decide ((t.pour? 1).map (·.stage) = some .ran ∧ Sp.get? t.mem.cells 0x203F = some 8 ∧ Sp.get? t.mem.cells 0x2038 = some 1
        ∧ Sp.get? t.mem.cells 0x2040 = none)) := by
  decide +kernel

/-- A VISIT of the V tile row 0 of a brick of one head tile of FP8 at 0x3000 into buffer A of array 0. -/
def visitPour : Pour :=
  { pour (.runner 0) .released [(0, 6), (8, 0x20), (29, 1), (64, 1), (80, 1), (96, 0), (576, 0), (633, 1), (980, 0), (982, 1), (986, 1), (991, 2)] with
    words := [0, 0x3000, 1 <<< 23, 0] }

theorem test_visit :
    let p := visitPour
    let s := { moving p with arrays := [(0, { bufA := memAt [] })], mem := memAt [(0x3400, [5])] }
    let m := s.readLocal p.runnerWho (s.hintOf p.flask p.visitFrom p.visitSize p.dA.hint .read) p.visitFrom p.visitSize
    s.runnerMay p 6 = true ∧ s.checkRunner p = 0 ∧ p.idleMove = false ∧ p.progress = 0 ∧ p.held = [] ∧ p.code = 0 ∧ p.moveMode = 1
    ∧ meshSegment p.dOut.addr = [0] ∧ farKey p.visitFrom = false ∧ s.drains p.visitFrom p.visitSize = false ∧ m.1.code = 0 ∧ m.1.failed = []
    ∧ p.visitParts = [(0, p.visitSize)] ∧ m.2.stillRead p.id 0 p.dOut.bufSel (p.dOut.bufOff + p.shapeAddr / 32 % p.visitSlots * p.visitSize) m.1.bytes.length = false
    ∧ after (.visit 1) s (fun t => decide ((t.pour? 1).map (·.stage) = some .ran ∧ Sp.get? (t.array 0).bufA.cells 0 = some 5)) := by
  decide +kernel

/-- A REGROUP of a row of 16 FP8 positions of 2 · 32 channels into one of 32 positions of 32. -/
def regroupPour : Pour :=
  pour (.runner 0) .released [(0, 6), (8, 0x40), (64, 1), (80, 32), (192, 0x1000), (320, 3), (576, 0x4000), (704, 3), (976, 16), (992, 1), (1008, 1), (1016, 1)]

theorem test_regroup :
    let p := regroupPour
    let s := { moving p with mem := memAt [(0x1000, [1]), (0x1400, [2])] }
    s.runnerMay p 6 = true ∧ s.checkRunner p = 0 ∧ p.idleMove = false
    ∧ after (.regroup 1) s (fun t => decide ((t.pour? 1).map (·.stage) = some .ran ∧ Sp.get? t.mem.cells 0x4000 = some 1 ∧ Sp.get? t.mem.cells 0x4020 = some 2)) := by
  decide +kernel

/-- The FP32 code of 1. -/
def one32 : Nat := 0x3F800000

/-- A box record: corners, score, class and image. -/
def boxBytes (l : List Nat) (score cls image : Nat) : List Byte :=
  (l.flatMap (fun w => leBytes w 4)) ++ leBytes score 4 ++ leBytes (cls + (image <<< 16)) 4 ++ leBytes 0 8

/-- A region pour of an operation over records, with its parameter block at 0x800. -/
def regionPour (sub m n fa fb fo : Nat) : Pour :=
  pour (.region 0) .released [(0, 0xA), (8, sub), (64, m), (80, n), (192, 0x1000), (320, fa), (384, 0x3000), (512, fb), (576, 0x2000), (704, fo), (768, 0x800)]

theorem test_nms :
    let p := regionPour 2 1 2 6 6 6
    let blk := words [0x3F000000, 2 + (1 <<< 32)]
    let b1 := boxBytes [0, 0, 0x40000000, 0x40000000] 0x3F000000 0 0
    let b2 := boxBytes [0, 0, 0x40000000, one32] 0x3F800000 0 0
    let s := { withPour owned p with mem := memAt [(0x800, blk), (0x1000, b1 ++ b2)] }
    s.regionMay p = true ∧ p.regionOk = true ∧ p.overflows = false ∧ p.zeroSize = false ∧ s.drains 0x800 64 = false
    ∧ (s.readLocal p.runnerWho (s.hintOf 1 0x800 64 0 .read) 0x800 64).1.code = 0
    ∧ (∀ r ∈ p.regionRanges (blk ++ List.replicate 48 0), (s.asPour 1).allowed p.flask r.addr r.len r.right = true)
    ∧ (walk (regionMove (fun p blk s n => s.nmsPart p blk n)) 2 s { p with stage := .running, begun := true, parts := [blk ++ List.replicate 48 0] }).isSome = true
    ∧ p.blockOk (blk ++ List.replicate 48 0) = true
    ∧ after (.nms 1) s (fun t => decide ((t.pour? 1).map (·.stage) = some .ran ∧ Sp.get? t.mem.cells 0x2000 = some 2
        ∧ Sp.get? t.mem.cells (0x2020 + 0x13) = some 0x3F ∧ Sp.get? t.mem.cells (0x2020 + 0x0E) = some 0x80)) := by
  decide +kernel

theorem test_region_refused :
    let p := regionPour 2 1 2 6 6 6
    let bad := regionPour 2 1 2 5 6 6
    let blk := words [0x3F800001, 2 + (1 <<< 32)]
    let far := words [0x3F000000, 2048 + (1 <<< 32)]
    let s (p : Pour) (b : List Byte) := { withPour owned p with mem := memAt [(0x800, b)] }
    bad.regionOk = false ∧ p.blockOk (blk ++ List.replicate 48 0) = false ∧ p.blockOk (far ++ List.replicate 48 0) = true
    ∧ (∃ r ∈ p.regionRanges (far ++ List.replicate 48 0), ((s p far).asPour 1).allowed 1 r.addr r.len r.right = false)
    ∧ ({ p with n := 3 } : Pour).overflows = true
    ∧ after (.nms 1) (s { p with n := 3 } blk) (fun t => decide ((t.pour? 1).map (fun q => (q.stage, q.code)) = some (.faulted, cShapeOverflow)))
    ∧ after (.nms 1) (s bad blk) (fun t => decide ((t.pour? 1).map (fun q => (q.stage, q.code)) = some (.faulted, 0x40)))
    ∧ after (.nms 1) (s p blk) (fun t => decide ((t.pour? 1).map (fun q => (q.stage, q.code)) = some (.faulted, 0x40)))
    ∧ after (.nms 1) (s p far) (fun t => decide ((t.pour? 1).map (fun q => (q.stage, q.code)) = some (.faulted, 0x30)))
    ∧ after (.nms 1) (s { p with n := 0 } (words [0x3F000000, 2 + (1 <<< 32)])) (fun t => decide ((t.pour? 1).map (·.stage) = some .ran)) := by
  decide +kernel

theorem test_decode :
    let p := regionPour 1 1 1 6 6 6
    let blk := leBytes one32 4 ++ leBytes one32 4 ++ leBytes one32 4 ++ leBytes one32 4 ++ List.replicate 12 0 ++ leBytes 1 4
    let box := boxBytes [0x40800000, 0x40800000, 0x40000000, 0x40000000] one32 7 0
    let s := { withPour owned p with mem := memAt [(0x800, blk), (0x1000, box)] }
    p.blockOk (blk ++ List.replicate 32 0) = true
    ∧ after (.decode 1) s (fun t => decide ((t.pour? 1).map (·.stage) = some .ran)
        && decide ((List.range 4).map (fun i => t.mem.cells.find? (fun e => e.1 = 0x2003 + 4 * i)) = [some (0x2003, 0x40), some (0x2007, 0x40), some (0x200B, 0x40), some (0x200F, 0x40)])
        && decide (Sp.get? t.mem.cells 0x2002 = some 0x40 ∧ Sp.get? t.mem.cells 0x200A = some 0xA0 ∧ Sp.get? t.mem.cells 0x2014 = some 7)) := by
  decide +kernel

/-- A block of 1 × 1 crops of one channel over one image of one pixel. -/
def imageBlock (feather : Nat) : List Byte := leBytes 0x10001 4 ++ leBytes feather 4 ++ leBytes 0x10001 4 ++ leBytes 1 4 ++ leBytes 4 4 ++ leBytes 1 4 ++ leBytes 4 8

theorem test_crop_paste :
    let box := boxBytes [0, 0, one32, one32] one32 0 0
    let c := regionPour 3 1 1 6 6 6
    let q := regionPour 4 1 1 6 6 6
    let m := memAt [(0x800, imageBlock 0), (0x1000, leBytes 0x40490FDB 4), (0x3000, box)]
    c.regionOk = true ∧ q.regionOk = true ∧ c.blockOk (imageBlock 0 ++ List.replicate 32 0) = true
    ∧ after (.crop 1) { withPour owned c with mem := m } (fun t => decide ((t.pour? 1).map (·.stage) = some .ran ∧ Sp.get? t.mem.cells 0x2003 = some 0x40
        ∧ Sp.get? t.mem.cells 0x2000 = some 0xDB))
    ∧ after (.paste 1) { withPour owned q with mem := m } (fun t => decide ((t.pour? 1).map (·.stage) = some .ran ∧ Sp.get? t.mem.cells 0x2003 = some 0x40
        ∧ Sp.get? t.mem.cells 0x2000 = some 0xDB)) := by
  decide +kernel

/-! ### Pattern tables -/

/-- A GATHER of one row of 32 BF16 elements of table 5 by the index at 0x1000 to 0x2000, and the table with its rows at 0x3000. -/
def gatherPour : Pour := pour .pattern .released [(0, 8), (64, 1), (80, 32), (96, 1), (192, 0x1000), (320, 5), (576, 0x2000), (640, 0x3F800000), (704, 5), (976, 5)]

/-- Table 5 of flask 1, of two rows, slot 0 current with generation 4. -/
def tabled (s : State) : State :=
  regs s [(.tableValid, 5, 1), (.tableFormat, 5, 5), (.tableRowElems32, 5, 1), (.tableOwner, 5, 1), (.tableRowsM1, 5, 1), (.tableBaseA, 5, 3),
    (.tableStateA, 5, 1), (.tableGenA, 5, 4)]

theorem test_gather :
    let p := gatherPour
    let s := tabled { withPour owned p with mem := memAt [(0x1000, [1]), (0x3040, [0x80, 0x3F])] }
    let p1 : Pour := { p with stage := .running, aux := [5, 0] }
    let s0 := ((s.wr (slotInflight 0) 5 (s.rd (slotInflight 0) 5 + 1)).onPour 1 (fun _ => p1)).onPour 1 (fun q => { q with parts := [[]] })
    p.unit = .pattern ∧ s.starts p = true ∧ s.gathers < 16 ∧ s.checkGather p = 0 ∧ p.m ≠ 0 ∧ s.bindTo p = some 0 ∧ p.pool = poolNone
    ∧ (s.asPour 1).allowed p.flask (s.slotAddr p.table 0) (s.tableRows p.table * s.rowBytes p.table) .read = true
    ∧ ceilDiv p.m 32 = 1 ∧ s0.tc2 = [] ∧ goesOn (s0.gatherRow p1 5 0 0) = true
    ∧ after (.gather 1) s (fun t => decide ((t.pour? 1).map (fun q => (q.stage, q.progress)) = some (.running, 1) ∧ t.rd .tableInflightA 5 = 1)) := by
  decide +kernel

/-- A GATHER that sums bags checks its offsets first. -/
theorem test_gather_bags :
    let p : Pour := { gatherPour with word := gatherPour.word + BitVec.ofNat 1024 ((1 <<< 984) + (0x1800 <<< 384)) }
    let s (off : Nat) := tabled { withPour owned p with mem := memAt [(0x1000, [1]), (0x1800, [BitVec.ofNat 8 off]), (0x3040, [0x80, 0x3F])] }
    let p1 : Pour := { p with stage := .running, aux := [5, 0] }
    let b (off : Nat) := ((s off).wr (slotInflight 0) 5 ((s off).rd (slotInflight 0) 5 + 1)).onPour 1 (fun _ => p1)
    let m (off : Nat) := (b off).readLocal p.patternWho ((b off).hintOf p.flask p.dB.addr (4 * p.m) p.dB.hint .read) p.dB.addr (4 * p.m)
    let p2 : Pour := { p1 with words := words32 (m 0).1.bytes }
    (s 0).starts p = true ∧ (s 0).checkGather p = 0 ∧ (s 0).bindTo p = some 0 ∧ p.pool ≠ poolNone ∧ farKey p.dB.addr = false
    ∧ (b 0).drains p.dB.addr (4 * p.m) = false ∧ (m 0).1.code = 0 ∧ (words32 (m 0).1.bytes).headD 0 = 0
    ∧ offsetsOk p.k 0 (words32 (m 0).1.bytes) = true ∧ (words32 (m 1).1.bytes).headD 0 ≠ 0
    ∧ goesOn (((m 0).2.onPour 1 (fun q => { q with parts := [[]], words := words32 (m 0).1.bytes })).gatherRow p2 5 0 0) = true
    ∧ after (.gather 1) (s 0) (fun t => decide ((t.pour? 1).map (fun q => (q.stage, q.progress)) = some (.running, 1)))
    ∧ after (.gather 1) (s 1) (fun t => decide ((t.pour? 1).map (fun q => (q.stage, q.code)) = some (.running, 0x40))) := by
  decide +kernel

theorem test_gather_stops :
    let p := gatherPour
    let pin := { p with word := p.word + BitVec.ofNat 1024 (1 <<< 987 + 9 <<< 988) }
    let bare := withPour owned p
    let s := tabled (withPour owned pin)
    bare.checkGather p ≠ 0 ∧ s.checkGather pin = 0 ∧ s.bindTo pin = none
    ∧ after (.gather 1) bare (fun t => decide ((t.pour? 1).map (fun q => (q.stage, q.code)) = some (.faulted, 0x40)))
    ∧ after (.gather 1) s (fun t => decide ((t.pour? 1).map (fun q => (q.stage, q.code)) = some (.faulted, 0x50)))
    ∧ after (.gather 1) (regs (tabled (withPour owned p)) [(.tableBaseA, 5, 0x20)]) (fun t =>
        decide ((t.pour? 1).map (fun q => (q.stage, q.code)) = some (.faulted, 0x30)))
    ∧ after (.gather 1) (tabled (withPour owned { p with m := 0, k := 0 })) (fun t => decide ((t.pour? 1).map (·.stage) = some .ran)
        && t.rd .tableInflightA 5 = 0) := by
  decide +kernel

theorem test_gather_end :
    let p := { gatherPour with stage := .running, aux := [5, 0], parts := [[]], progress := 1 }
    let s := regs (tabled (withPour owned p)) [(.tableStateA, 5, 2), (.tableInflightA, 5, 1)]
    p.cancelled = false ∧ p.progress = ceilDiv p.m 32 ∧ s.tc2 = [] ∧ s.rd (slotInflight 0) 5 ≤ 31
    ∧ after (.gatherEnd 1) s (fun t => decide ((t.pour? 1).map (·.stage) = some .ran) && t.rd .tableStateA 5 = 0 && t.rd .tableInflightA 5 = 0) := by
  decide +kernel

theorem test_flip :
    let q := pour .dispatcher .queued [(0, 9), (976, 5)]
    let p := pour .pattern .released [(0, 9), (976, 5)]
    let s := tabled (withPour ringed p)
    let used := regs s [(.tableStateB, 5, 2)]
    let busy := { withPour ringed q with pours := [{ mmPour .running 0 1 16 with id := 0 }, q] }
    (withPour ringed q).fenceDrained q = true ∧ (withPour ringed q).queueRoom .pattern = true ∧ busy.fenceDrained q = false
    ∧ after (.flip 1) (withPour ringed q) (fun t => decide (t.pours = [{ q with unit := .pattern }]))
    ∧ after (.flip 1) busy (fun t => decide (t.pours = busy.pours))
    ∧ s.starts p = true ∧ p.watchEn = false ∧ p.subop = 0 ∧ p.tileShape = 0 ∧ p.overflows = false ∧ p.index ∉ Sp.getD (s.ladle p.ladle).skipFlips p.source []
    ∧ s.bit .tableValid 5 = true ∧ s.rd .tableOwner 5 = 1 ∧ s.cutCovers p.ladle p.index = false ∧ s.currentSlot 5 = 0 ∧ s.rd (slotState 1) 5 = 0
    ∧ after (.flipSwitch 1) s (fun t => t.pours.isEmpty && t.rd .tableStateB 5 = 1 && t.rd .tableGenB 5 = 5 && t.rd .tableStateA 5 = 0)
    ∧ used.rd (slotState 1) 5 ≠ 0 ∧ after (.flipSwitch 1) used (fun t => t.pours.length = 1 && t.rd .tableStateB 5 = 2) := by
  decide +kernel

/-! ### Enumerator and scrub -/

/-- The header of a causal pattern over one brick column of two frames, without globals: lists of 2 entries at 0x4000. -/
def header : List Byte :=
  words [4 + (4 <<< 16) + (4 <<< 32), 1 + (1 <<< 24) + (1 <<< 32) + (1 <<< 40) + (2 <<< 48), 0 + (1 <<< 32), 0 + (1 <<< 32), 0x8000, 0, 0x4000, 2048]

theorem test_enumerate :
    let s := { owned with mem := memAt [(0x1000, header)] }
    let bad := { owned with mem := memAt [] }
    let d := patternOf header
    s.ready = true ∧ s.bit .flaskEnabled 1 = true ∧ s.bit .resetBusy 1 = false ∧ s.allowed 1 0x1000 64 .read = true ∧ farKey 0x1000 = false
    ∧ s.drains 0x1000 64 = false ∧ (s.readLocal (enumWho 1) (s.hintOf 1 0x1000 64 0 .read) 0x1000 64).1.code = 0 ∧ d.ok = true ∧ d.globals = 0
    ∧ (d.lists []).length = 2 ∧ (patternOf (List.replicate 64 0)).ok = false ∧ s.allowed 1 0x10000 64 .read = false
    ∧ after (.enumerate 1 0x1000) s (fun t => t.enumCode = 0 && t.enumPos = 2 && decide (Sp.get? t.mem.cells 0x4000 = some 32
        ∧ Sp.get? t.mem.cells (0x4000 + 12) = some 1 ∧ Sp.get? t.mem.cells (0x4000 + 32) = none ∧ Sp.get? t.mem.cells (0x4060 + 17) = some 0x88))
    ∧ after (.enumerate 1 0x1000) bad (fun t => t.enumCode = 0x40) ∧ after (.enumerate 1 0x10000) s (fun t => t.enumCode = 0x30) := by
  decide +kernel

theorem test_scrub :
    let s := { owned with scrubOpen := [(3, 2)] }
    let held := regs s [(.stackClass, 1, 1)]
    let last := regs s [(.scrubPos, 1, s.stackPages - 1)]
    s.scrubOpen.any (fun e => e.2.testBit 1) = true ∧ s.rd .stackClass 1 = 0 ∧ held.rd .stackClass 1 ≠ 0 ∧ s.scrubOpen.any (fun e => e.2.testBit 0) = false
    ∧ after (.scrubPage 0) s (fun t => t.rd .scrubPos 0 = 0) ∧ after (.scrubPage 1) s (fun t => t.rd .scrubPos 1 = 1 && t.rd .scrubPasses 1 = 0)
    ∧ after (.scrubPage 1) held (fun t => t.bit .scrubSkipped && t.rd .scrubPos 1 = 0)
    ∧ after (.scrubPage 1) last (fun t => t.rd .scrubPos 1 = 0 && t.rd .scrubPasses 1 = 1) := by
  decide +kernel

/-! ### Riser points and replay -/

/-- A MARK of ladle 4 without ranges or watch slots, masking semaphores 0 and 1. -/
def markPour (stage : Stage) : Pour := pour .dispatcher stage [(0, 0xF), (192, 3)]

theorem test_mark :
    let s := withPour owned (markPour .released)
    let m := withPour (regs owned [(.sem, 64, 5), (.journalBaseLo, 1, 1), (.riserAttempt, 4, 1)]) (markPour .running)
    s.starts (markPour .released) = true ∧ s.markFence (markPour .released) = true
    ∧ after (.mark 1) s (fun t => decide ((t.pour? 1).map (·.stage) = some .running))
    ∧ m.rd .riserSlot 4 ≤ 1 ∧ m.cutCovers 4 0 = false
    ∧ (match m.put { rq := rqPour, flask := 1 } none 0 (m.journalSlot 4 (1 - m.rd .riserSlot 4)) (m.journalEntry (markPour .running)) [] with
        | .ok _ => true
        | .error _ => false) = true
    ∧ after (.markRecord 1) m (fun t => t.rd .riserSlot 4 = 1 && t.bit .hasRiser 4 && t.rd .riserAttempt 4 = 0 && t.pours.isEmpty
        && decide (Sp.get? t.mem.cells (0x2000 + 4096 + 0x80) = some 5 ∧ Sp.get? t.mem.cells (0x2000 + 4096 + 0x28) = some 3)) := by
  decide +kernel

/-- Flask 1 with replay on, a riser point of ladle 4 at index 2 that masks semaphore 0 with the value 5, and a pour that met a transient
fault. -/
def failing : State :=
  { withPour (regs owned [(.replayEn, 1, 1), (.journalBaseLo, 1, 1), (.hasRiser, 4, 1)]) { mmPour .faulted 0 1 16 with code := 0x12 } with
    mem := memAt [(0x2000, leBytes 2 8), (0x2028, [1]), (0x2080, [5])] }

theorem test_transient :
    let p := { mmPour .faulted 0 1 16 with code := 0x12 }
    failing.transient 4 = some p ∧ failing.bit .replaying 4 = false ∧ failing.bit .resetBusy 1 = false
    ∧ after (.transientFault 4) failing (fun t => t.bit .replaying 4 && t.rd .riserLastCode 4 = 0x12 && t.pours.all (·.cancelled)) := by
  decide +kernel

/-- That part while it replays: its pours are cancelled, or it waits. -/
def replaying (waits : Bool) (code attempt : Nat) : State :=
  let p := { mmPour .faulted 0 1 16 with code := code, cancelled := true }
  { regs failing [(.replaying, 4, 1), (.riserAttempt, 4, attempt)] with
    pours := if waits then [] else [p], ladles := [(4, { replay := some p, replayWaiting := waits })] }

theorem test_replay :
    (replaying false 0x12 0).cancelFlies 4 = false ∧ (replaying false 0x12 2).cancelFlies 4 = false
    ∧ after (.replayCancelDone 4) (replaying false 0x12 0) (fun t => t.rd .riserAttempt 4 = 1 && t.rd .replays 0 = 1 && (t.ladle 4).replayWaiting && t.pours.isEmpty)
    ∧ after (.replayCancelDone 4) (replaying false 0x12 2) (fun t => t.rd .ladleState 4 = 2 && t.rd .stopCode 4 = 0x90 && t.rd .replaysFailed 0 = 1) := by
  decide +kernel

theorem test_replay_waits :
    let s := replaying true 0x12 1
    let l := replaying true 0x70 1
    (s.ladle 4).replayWaiting = true ∧ s.bit .replaying 4 = true ∧ (s.ladle 4).riserHeat = none ∧ s.replayCondition (mmPour .faulted 0 1 16) = true
    ∧ after (.replayConditionMet 4) s (fun t => !t.bit .replaying 4 && t.rd .ladleHead 4 = 3 && t.rd .sem 64 = 5)
    ∧ l.replayCondition { mmPour .faulted 0 1 16 with code := 0x70 } = false
    ∧ after (.replayConditionMet 4) l (fun t => t.bit .replaying 4)
    ∧ after (.replayWaitTimeout 4) l (fun t => !t.bit .replaying 4 && t.rd .ladleState 4 = 2 && t.rd .stopCode 4 = 0x90) := by
  decide +kernel

/-! ### Numbers (the worked examples of the specification) -/

/-- The FP32 block of 03_number_formats.md, "Worked example: quantising a Drift activation block". -/
def driftBlock : List Nat :=
  [0x3e9eb852, 0xbf8f5c29, 0x0, 0x4039999a, 0x3e000000, 0xbec00000, 0x3fa00000, 0xbfe00000, 0x3d75c28f, 0x3f4ccccd, 0xbf0ccccd, 0x3fcccccd, 0xc0200000, 0x3f666666, 0xbe4ccccd, 0x3ee147ae, 0x3f8ccccd, 0xbd8f5c29, 0x3f2147ae, 0xbfb33333, 0x40033333, 0xbf733333, 0x3eb33333, 0x3e2e147b, 0xbf19999a, 0x3ff33333, 0xc00ccccd, 0x3e8a3d71, 0x3f000000, 0xbdf5c28f, 0x3faa3d71, 0xc0300000]

theorem test_quantise_example :
    quantBlock false (driftBlock.map (fun c => ofBits (BitVec.ofNat 32 c))) (List.replicate 32 .nearest)
      = (0x30, [1, 12, 0, 7, 0, 10, 4, 14, 0, 3, 10, 5, 14, 4, 9, 2, 4, 0, 3, 13, 6, 12, 1, 1, 10, 6, 14, 1, 2, 0, 5, 15], {}) := by
  decide +kernel

/-- The BF16 codes of sub-block 0 of 13_memory_tiers.md, "Worked example: one sub-block of a Harbour decoder feature map", and the peak of
sub-block 1. -/
def hazeBlock : List Val := ([0x4118, 0xc050, 0x3e20, 0x0, 0x3f80, 0xc0e0, 0x4020, 0x3f30].map bf16.toVal) ++ [bf16.toVal 0x3ecd] ++ List.replicate 55 .zero

theorem test_haze_example :
    ((hazeDecode 6 (hazeEncode 6 hazeBlock)).take 9).map Val.bits = [0x41180000, 0xc0500000, 0x3e800000, 0x0, 0x3f800000, 0xc0e00000, 0x40200000, 0x3f400000, 0x3ecc0000]
    ∧ ((hazeDecode 2 (hazeEncode 2 hazeBlock)).take 8).map Val.bits = [0x41000000, 0xc0800000, 0x0, 0x0, 0x0, 0xc1000000, 0x40800000, 0x0]
    ∧ hazeEncode 6 hazeBlock % 256 = 0x82 ∧ hazeEncode 6 hazeBlock / 256 % 64 = 5 * 8 := by
  decide +kernel

/-! ### Well-formed commands -/

/-- Mailbox commands by their constructor. -/
def boxed : List (Box → Instr) :=
  [.getInfo, .flaskEnable, .flaskDisable, .setAllot, .watchAllot, .segWrite, .segRead, .almanacArm, .almanacFree, .tableWrite, .groupWrite,
   .lend, .loanEnd, .mapBay, .revokeBay, .unmapBay, .setModes, .getPower, .cfgRead, .cfgWrite, .start, .stop, .getStartup, .getCert, .getEvidence,
   .fwBegin, .fwWrite, .fwVerify, .fwActivate, .fwCommit, .debugChallenge, .debugUnlock, .retireArm, .retire, .lifecycleProduction, .contrailClear,
   .contrailRead, .tgenResult, (.tgenRun · []), (.mboxGo · 0)]

/-- Commands of a port by their constructor. -/
def ported : List (Nat → Instr) :=
  [(.portCfgWrite · 0), .mboxWord, .beacon, .delayResp, .shift, .groupAbort, .rdReq, .wrReq, .rdResp, .wrAck, .flitSlot, .ackTimer, .retryTimeout,
   .trainingComplete, .trainTimeout, .retrainWaitEnd, .fecLock, .silence, .portDown, .grant, .refuse, .result, .pass, .poison, .seal, .verdict,
   (.corruptFlit · (.crc 0)), (.los · 0), (.symbolErrors · 0), (.laserSample · 0 0 false), (.dataFlit · (flit 0 [])), (.idleFlit · (flit 0 [])), (.nakFlit · (flit 0 [])),
   (.timeFlit · (flit 0 [])), (.initFlit · (flit 0 []))]

/-- Commands of an almanac entry, of a ladle, of a flask and of an array. -/
def entered : List (Nat → Instr) :=
  [(.almanacEntryArm · false 0), (.almanacEntryFree · false 0), .collPhase, .slice, .scrub, .telemetry, .bayDeadline, .heatGate, .entryWindowClose,
   .deferLeadCheck, (.reserveTimeout · 0)]

def ladled : List (Nat → Instr) :=
  [(.ladleHeadWrite · 0), .resume, .abort, .abortCancelDone, .ladleRecordDispatch, .heatCard, .heatPassStart, .passBlockReady, .heatEnd,
   (.heatSectionDispatch · 0), .transientFault, .replayCancelDone, .replayConditionMet, .replayWaitTimeout]

def flasked : List (Nat → Instr) := [(.cqHeadWrite · 0), (.eqHeadWrite · 0), .flaskReset, .flaskResetDone, (.enumerate · 0), .heldCompletionWrite]

def arrayed : List (Nat → Instr) :=
  [(.bankRelease · 0), .meshTileArrive, .emptyMarkerArrive, .breakArrive, .creditArrive, (.datapathParity · false), .arrayParkSave, .arrayTakeOwner,
   .arrayRestoreDone]

theorem test_wf_indices :
    (boxed.all (fun c => (c (.pf 7)).wf && (c (.vf 63)).wf && !(c (.pf 8)).wf && !(c (.vf 0)).wf && !(c (.vf 64)).wf)) = true
    ∧ (ported.all (fun c => (c 31).wf && !(c 32).wf)) = true ∧ (entered.all (fun c => (c 4095).wf && !(c 4096).wf)) = true
    ∧ (ladled.all (fun c => (c 255).wf && !(c 256).wf)) = true ∧ (flasked.all (fun c => (c 63).wf && !(c 64).wf)) = true
    ∧ (arrayed.all (fun c => (c 511).wf && !(c 512).wf)) = true := by
  decide +kernel

/-- Ill-formed commands, one for each further check. -/
def illFormed : List Instr :=
  [.vin50Rise 16, .selftestPhaseEnd [(512, 0)] [] [], .selftestPhaseEnd [] [512] [], .selftestPhaseEnd [] [] [16], .stackQualificationEnd 16 [],
   .stackQualificationEnd 0 [⟨1, 0, 0, 0⟩], .stackQualificationEnd 0 [⟨0, 64, 0, 0⟩], .samplePreload [true], .rcCounterRead (.bar4 (.vf 0)) 0 4,
   .rcCounterRead (.config (.vf 64)) 0 4, .flrVf 0, .flrVf 64, .bar2Read (.vf 0) 0 1, .bar2Read .pf0 0 0, .bar2Read .pf0 0 4097, .bar2Write (.vf 64) 0 [0] false,
   .bar2Write .pf0 0 [] false, .bar2Write .pf0 0 (List.replicate 513 0) false, .doorbell (.vf 0) 0 0, .doorbell .pf0 256 0,
   .registerWrite (.bar0 (.vf 0)) 0 1 0, .registerWrite .pf1 2 1 0, .registerWrite .pf1 0 256 0,
   .rcCounterRead (.bar0 (.vf 64)) 0 4, .rcCounterRead .pf1 0 0, .rcCounterRead .pf1 0 4097, .almanacNowLoRead (.vf 0), .semWrite 4096 0,
   .watchAvgWrite 4096 0, .tableRegisterWrite 256 .cfg 1 0, .tableRegisterWrite 0 .cfg 0 0, .groupEntryWrite 256 0 0, .groupEntryWrite 0 6 0,
   .tgenRun (.pf 0) [⟨16, 0, 0, 0⟩], .tgenRun (.pf 0) [⟨0, 64, 0, 0⟩], .bypass 256, .temperatureSample [] (List.replicate 4 0) (List.replicate 8 0),
   .temperatureSample (List.replicate 16 0) [] (List.replicate 8 0), .temperatureSample (List.replicate 16 0) (List.replicate 4 0) [],
   .thermalClassExit (.stack 16), .thermalClassExit (.die 4), .thermalClassExit (.engine 8), .scrubPage 16, .heatSectionDispatch 0 3,
   .enumerate 0 (2 ^ 44), .bankRelease 0 2, .dataFlit 0 { flit 0 [] with seq := 4096 }, .idleFlit 0 { flit 0 [] with tc := 4 },
   .nakFlit 0 { flit 0 [] with ack := 4096 }, .initFlit 0 { flit 0 [] with creditTc2 := 4096 }, .timeFlit 0 { flit 0 [] with payload := List.replicate 241 0 },
   .los 0 16, .symbolErrors 0 16, .lanePowerSample 128 0, .reserveTimeout 0 8, .chunk 64 0, .chunk 0 8, .reduceChunkDone 64 0, .sealWaitEnd 0 8,
   .verdictTimeout 64 0, .vfEnableSet 64, .pcieLinkUp 0 1, .pcieLinkUp 8 1, .pcieLinkUp 1 3, .dynamicAddressAssignment 128,
   .privateScanInstruction 0x7F, .privateScanInstruction 0xFF]

theorem test_wf_refuses : (illFormed.all (fun i => !i.wf)) = true := by decide +kernel

end Sys2Proof.Tests
end

section
/-!
SUPPORT. The pattern engine: what the version slots read after a retirement, an unbinding and a switch; how a GATHER that may start binds,
reads its offsets and writes its tile rows; and the settlement of O57 (R412 to R416, R427 to R433).
-/
namespace Sys2Proof.Machine

/-! ### Pours after the shared updates -/

@[simp] theorem settle_pour? (s : State) (id : Nat) : (settle s).pour? id = s.pour? id := by simp [State.pour?]

/-- The pours alone say which pour has a number. -/
theorem State.pour?_congr {s t : State} (h : t.pours = s.pours) (id : Nat) : t.pour? id = s.pour? id := by simp [State.pour?, h]

/-- A pour that is changed and keeps its number is found as changed. -/
theorem State.onPour_pour?_found {s : State} {id : Nat} {p : Pour} {f : Pour → Pour} (hp : s.pour? id = some p) (hf : (f p).id = p.id) :
    (s.onPour id f).pour? id = some (f p) := by
  rw [State.pour?_id hp] at hf
  simp only [State.onPour, State.pour?] at hp ⊢
  generalize s.pours = l at hp ⊢
  induction l with
  | nil => simp at hp
  | cons q r ih =>
    by_cases hq : q.id = id
    · obtain rfl : q = p := by simpa [hq] using hp
      simp [hq, hf]
    · simp only [List.find?_cons, hq, decide_false] at hp
      simp [hq, ih hp]

@[simp] theorem State.faultPour_mem (s : State) (p : Pour) (code detail : Nat) (failed : List Nat) :
    (s.faultPour p code detail failed).mem = s.mem := rfl
@[simp] theorem State.faultPour_csr (s : State) (p : Pour) (code detail : Nat) (failed : List Nat) :
    (s.faultPour p code detail failed).csr = s.csr := rfl

/-- A pour in which a fault is found stands faulted with its code. -/
theorem State.faultPour_outcome {s : State} {id : Nat} {p : Pour} (hp : s.pour? id = some p) (code detail : Nat) :
    ((s.faultPour p code detail).pour? id).map (fun q => (q.stage, q.code)) = some (.faulted, code) := by
  obtain rfl := State.pour?_id hp
  rw [State.faultPour, State.onPour_pour?_found hp rfl]
  rfl

/-- A pour that starts is not cancelled. -/
theorem State.starts_not_cancelled {s : State} {p : Pour} (h : s.starts p = true) : p.cancelled = false := by
  simp only [State.starts, Bool.and_eq_true, Bool.not_eq_true'] at h
  obtain ⟨⟨⟨_, hcancelled⟩, _⟩, _⟩ := h
  exact hcancelled

/-- The end of a pour keeps the register fields that neither its signal nor its record touches. -/
theorem State.endOk_rd (s : State) (p : Pour) (k : FKind) (i : Nat)
    (h : k ∉ [FKind.sem, .cacheHit, .cacheMiss, .cacheDrop, .cqTail, .cqArmed, .cqFull, .eqTail, .eqArmed, .eqOverflow, .eqLost, .ladleState,
      .stopCode, .heatStopPending]) : (s.endOk p).rd k i = s.rd k i := by
  rw [List.mem_cons, not_or] at h
  obtain ⟨hsem, hrest⟩ := h
  rw [State.endOk, State.endPour_rd _ _ _ _ _ _ hrest]
  split
  · rfl
  · rw [State.signal_rd, if_neg (fun e => hsem e.1)]

/-! ### The fields of a version slot -/

@[simp] theorem slotState_width (slot : Nat) : (slotState slot).info.width = 2 := by unfold slotState; split <;> rfl
@[simp] theorem slotInflight_width (slot : Nat) : (slotInflight slot).info.width = 5 := by unfold slotInflight; split <;> rfl
@[simp] theorem slotGen_width (slot : Nat) : (slotGen slot).info.width = 16 := by unfold slotGen; split <;> rfl

@[simp] theorem slotState_ne_sem (slot : Nat) : slotState slot ≠ .sem := by unfold slotState; split <;> decide
@[simp] theorem slotInflight_ne_sem (slot : Nat) : slotInflight slot ≠ .sem := by unfold slotInflight; split <;> decide
@[simp] theorem slotGen_ne_sem (slot : Nat) : slotGen slot ≠ .sem := by unfold slotGen; split <;> decide

@[simp] theorem slotInflight_ne_slotState (a b : Nat) : slotInflight a ≠ slotState b := by
  unfold slotInflight slotState; split <;> split <;> decide
@[simp] theorem slotGen_ne_slotState (a b : Nat) : slotGen a ≠ slotState b := by
  unfold slotGen slotState; split <;> split <;> decide
@[simp] theorem slotGen_ne_slotInflight (a b : Nat) : slotGen a ≠ slotInflight b := by
  unfold slotGen slotInflight; split <;> split <;> decide

/-- The two slots of a table have fields of their own. -/
theorem slotState_other {slot : Nat} (h : slot < 2) : slotState (1 - slot) ≠ slotState slot :=
  match slot, h with
  | 0, _ => by decide
  | 1, _ => by decide
theorem slotGen_other {slot : Nat} (h : slot < 2) : slotGen (1 - slot) ≠ slotGen slot :=
  match slot, h with
  | 0, _ => by decide
  | 1, _ => by decide

/-- The current slot is A or B. -/
theorem State.currentSlot_lt (s : State) (t : Nat) : s.currentSlot t < 2 := by
  unfold State.currentSlot; split <;> decide

/-! ### Retirement, unbinding and switch (R412 to R415) -/

/-- A retirement changes register fields only. -/
theorem State.retireSlot_only (s : State) (n slot : Nat) : ∃ c, s.retireSlot n slot = { s with csr := c } := by
  unfold State.retireSlot State.semAdd
  split
  · dsimp only
    split <;> exact ⟨_, rfl⟩
  · exact ⟨_, rfl⟩

/-- A retiring slot that nothing uses reads retired afterwards; but for RETIRE_SEM every other field reads as before. -/
theorem State.retireSlot_rd (s : State) (n slot : Nat) (k : FKind) (i : Nat) (hk : k ≠ .sem) :
    (s.retireSlot n slot).rd k i
      = if k = slotState slot ∧ i = n ∧ s.rd (slotState slot) n = 2 ∧ s.rd (slotInflight slot) n = 0 then 0 else s.rd k i := by
  have hret : (s.wr (slotState slot) n slRetired).rd k i = if k = slotState slot ∧ i = n then 0 else s.rd k i := by
    rw [State.rd_wr]; rfl
  have hguard : (decide (s.rd (slotState slot) n = slRetiring) && decide (s.rd (slotInflight slot) n = 0)) = true
      ↔ s.rd (slotState slot) n = 2 ∧ s.rd (slotInflight slot) n = 0 := by
    rw [Bool.and_eq_true, decide_eq_true_eq, decide_eq_true_eq]; rfl
  unfold State.retireSlot
  by_cases hidle : s.rd (slotState slot) n = 2 ∧ s.rd (slotInflight slot) n = 0
  · rw [if_pos (hguard.mpr hidle)]
    dsimp only
    split
    · rw [State.semAdd, State.rd_wr_ne _ _ _ _ hk, hret]; simp [hidle]
    · rw [hret]; simp [hidle]
  · rw [if_neg (mt hguard.mp hidle), if_neg (fun ⟨_, _, hboth⟩ => hidle hboth)]

/-- A GATHER that leaves its slot changes register fields only. -/
theorem State.unbindSlot_only (s : State) (n slot : Nat) : ∃ c, s.unbindSlot n slot = { s with csr := c } := by
  obtain ⟨c, e⟩ := (s.wr (slotInflight slot) n (s.rd (slotInflight slot) n - 1)).retireSlot_only n slot
  exact ⟨c, e⟩

theorem State.unbindSlot_inflight (s : State) (n slot : Nat) (h : s.rd (slotInflight slot) n ≤ 31) :
    (s.unbindSlot n slot).rd (slotInflight slot) n = s.rd (slotInflight slot) n - 1 := by
  rw [State.unbindSlot, State.retireSlot_rd _ _ _ _ _ (by simp), if_neg (by simp), State.rd_wr_same, slotInflight_width]
  omega

/-- The last GATHER of a retiring slot retires it (R414). -/
theorem State.unbindSlot_state (s : State) (n slot : Nat) (h : s.rd (slotInflight slot) n ≤ 31) :
    (s.unbindSlot n slot).rd (slotState slot) n
      = if s.rd (slotState slot) n = 2 ∧ s.rd (slotInflight slot) n ≤ 1 then 0 else s.rd (slotState slot) n := by
  have hin : (s.rd (slotInflight slot) n - 1) % 2 ^ 5 = 0 ↔ s.rd (slotInflight slot) n ≤ 1 := by omega
  rw [State.unbindSlot, State.retireSlot_rd _ _ _ _ _ (by simp), State.rd_wr_same, slotInflight_width,
    State.rd_wr_ne _ _ _ _ (slotInflight_ne_slotState _ _).symm]
  simp only [true_and, hin]

theorem State.unbindSlot_other_state (s : State) (n slot : Nat) (h : slot < 2) :
    (s.unbindSlot n slot).rd (slotState (1 - slot)) n = s.rd (slotState (1 - slot)) n := by
  rw [State.unbindSlot, State.retireSlot_rd _ _ _ _ _ (by simp), if_neg (fun e => slotState_other h e.1),
    State.rd_wr_ne _ _ _ _ (slotInflight_ne_slotState _ _).symm]

/-- A switch changes register fields only. -/
theorem State.switchTable_only (s : State) (t : Nat) : ∃ c, s.switchTable t = { s with csr := c } := by
  unfold State.switchTable
  obtain ⟨c, e⟩ := State.retireSlot_only (((s.wr (slotState (1 - s.currentSlot t)) t slCurrent).wr (slotGen (1 - s.currentSlot t)) t
    (if s.rd (slotGen (s.currentSlot t)) t = 0xFFFF then 1 else s.rd (slotGen (s.currentSlot t)) t + 1)).wr (slotState (s.currentSlot t)) t slRetiring)
    t (s.currentSlot t)
  exact ⟨c, e⟩

/-- What a switch leaves in the two slots of its table: the other slot current with the next generation, the old one retiring, or retired
when nothing uses it, with its generation and its count (R413, R414). -/
theorem State.switchTable_slots (s : State) (t : Nat) (hgen : s.rd (slotGen (s.currentSlot t)) t ≤ 0xFFFF) :
    (s.switchTable t).rd (slotState (1 - s.currentSlot t)) t = 1
    ∧ (s.switchTable t).rd (slotGen (1 - s.currentSlot t)) t
      = (if s.rd (slotGen (s.currentSlot t)) t = 0xFFFF then 1 else s.rd (slotGen (s.currentSlot t)) t + 1)
    ∧ (s.switchTable t).rd (slotState (s.currentSlot t)) t = (if s.rd (slotInflight (s.currentSlot t)) t = 0 then 0 else 2)
    ∧ (s.switchTable t).rd (slotGen (s.currentSlot t)) t = s.rd (slotGen (s.currentSlot t)) t
    ∧ (s.switchTable t).rd (slotInflight (s.currentSlot t)) t = s.rd (slotInflight (s.currentSlot t)) t := by
  have hstate := slotState_other (s.currentSlot_lt t)
  have hgens := slotGen_other (s.currentSlot_lt t)
  unfold State.switchTable
  generalize s.currentSlot t = old at hstate hgens hgen ⊢
  refine ⟨?_, ?_, ?_, ?_, ?_⟩
  · simp [State.retireSlot_rd, State.rd_wr, hstate, (slotGen_ne_slotState _ _).symm, slCurrent]
  · simp [State.retireSlot_rd, State.rd_wr]
    split <;> omega
  · simp [State.retireSlot_rd, State.rd_wr, slRetiring, (slotGen_ne_slotInflight _ _).symm]
  · simp [State.retireSlot_rd, State.rd_wr, hgens.symm]
  · simp [State.retireSlot_rd, State.rd_wr, (slotGen_ne_slotInflight _ _).symm]

/-! ### A GATHER that may start (R412, R416, R430 to R432) -/

theorem exec_gather (id : Nat) (s : State) : exec (.gather id) s = execGather id s := rfl
theorem exec_gatherEnd (id : Nat) (s : State) : exec (.gatherEnd id) s = execGatherEnd id s := rfl
theorem exec_flip (id : Nat) (s : State) : exec (.flip id) s = execFlip id s := rfl
theorem exec_flipSwitch (id : Nat) (s : State) : exec (.flipSwitch id) s = execFlipSwitch id s := rfl

/-- A GATHER that the engine may start now: it heads the queue, has not started, and the engine has a place for it (R436). -/
structure GatherMayStart (s : State) (id : Nat) (p : Pour) : Prop where
  pour : s.pour? id = some p
  opcode : p.opcode = 8
  unit : p.unit = .pattern
  starts : s.starts p = true
  fresh : p.stage ≠ .running
  room : s.gathers < 16

/-- The pour as it stands once it is bound to a slot of its table. -/
def Pour.boundTo (p : Pour) (slot : Nat) : Pour := { p with stage := .running, begun := true, aux := [p.table, slot] }

/-- The state in which a GATHER has bound to a slot: the slot counts it (R412). -/
def State.bindGather (s : State) (id : Nat) (p : Pour) (slot : Nat) : State :=
  (s.wr (slotInflight slot) p.table (s.rd (slotInflight slot) p.table + 1)).onPour id (fun _ => p.boundTo slot)

/-- The rows of the slot lie within one readable segment of the flask (R431). -/
def State.slotGranted (s : State) (id : Nat) (p : Pour) (slot : Nat) : Bool :=
  (s.asPour id).allowed p.flask (s.slotAddr p.table slot) (s.tableRows p.table * s.rowBytes p.table) .read

theorem State.bindGather_pour? {s : State} {id : Nat} {p : Pour} (hp : s.pour? id = some p) (slot : Nat) :
    (s.bindGather id p slot).pour? id = some (p.boundTo slot) :=
  State.onPour_pour?_found (s := s.wr _ _ _) hp rfl

section
variable {s : State} {id : Nat} {p : Pour} (h : GatherMayStart s id p)
include h

/-- What the start of a GATHER comes to: its checks, the slot to bind to, the rows of the slot, its bags (R416, R430 to R432). -/
theorem GatherMayStart.outcome : exec (.gather id) s = done
    (if s.checkGather p ≠ 0 then s.faultPour p (s.checkGather p) 0
    else (s.bindTo p).elim (s.faultPour p cTableVersionRetired 0) (fun slot =>
      if s.slotGranted id p slot = false then s.faultPour p cSegmentFault 0
      else if p.m = 0 then s.onPour id (fun q => { q with stage := .ran, evaluated := true })
      else (s.bindGather id p slot).gatherGo (p.boundTo slot) p.table slot)) := by
  obtain ⟨hp, hop, hu, hs, hf, hr⟩ := h
  cases hb : s.bindTo p with
  | none =>
    simp [exec_gather, execGather, hp, hop, hu, hs, hf, Nat.not_le.mpr hr, State.starts_not_cancelled hs, hb]
  | some slot =>
    simp [exec_gather, execGather, hp, hop, hu, hs, hf, Nat.not_le.mpr hr, State.starts_not_cancelled hs, hb, State.slotGranted,
      State.bindGather, Pour.boundTo]

theorem GatherMayStart.checkFails (hc : s.checkGather p ≠ 0) : exec (.gather id) s = done (s.faultPour p (s.checkGather p) 0) := by
  simp [h.outcome, hc]

theorem GatherMayStart.versionRetired (hc : s.checkGather p = 0) (hb : s.bindTo p = none) :
    exec (.gather id) s = done (s.faultPour p cTableVersionRetired 0) := by
  simp [h.outcome, hc, hb]

theorem GatherMayStart.notGranted {slot : Nat} (hc : s.checkGather p = 0) (hb : s.bindTo p = some slot) (hg : s.slotGranted id p slot = false) :
    exec (.gather id) s = done (s.faultPour p cSegmentFault 0) := by
  simp [h.outcome, hc, hb, hg]

theorem GatherMayStart.noBags {slot : Nat} (hc : s.checkGather p = 0) (hb : s.bindTo p = some slot) (hg : s.slotGranted id p slot = true)
    (hm : p.m = 0) : exec (.gather id) s = done (s.onPour id (fun q => { q with stage := .ran, evaluated := true })) := by
  simp [h.outcome, hc, hb, hg, hm]

theorem GatherMayStart.binds {slot : Nat} (hc : s.checkGather p = 0) (hb : s.bindTo p = some slot) (hg : s.slotGranted id p slot = true)
    (hm : p.m ≠ 0) : exec (.gather id) s = done ((s.bindGather id p slot).gatherGo (p.boundTo slot) p.table slot) := by
  simp [h.outcome, hc, hb, hg, hm]
end

/-! ### The work of a bound GATHER (R427, R433) -/

/-- Tile row `i` follows at once, no write of the pour being under way, and lands: `u` is the state after it. -/
def State.RowLands (s : State) (p : Pour) (t slot i : Nat) (u : State) : Prop :=
  (∀ q ∈ s.tc2, q.pour = some p.id → q.op ≠ 0x82) ∧ s.gatherRow p t slot i = .next u p

/-- Rows that land one after the other leave the state after the last, with the progress noted. -/
theorem State.gatherRows_of_lands (p : Pour) (t slot : Nat) (S : Nat → State) (n k : Nat)
    (h : ∀ i < k + n, (S i).RowLands p t slot i (S (i + 1))) :
    (S k).gatherRows p t slot n k = (S (k + n)).onPour p.id (fun q => { q with progress := k + n }) := by
  induction n generalizing k with
  | zero => rfl
  | succ n ih =>
    obtain ⟨hway, hrow⟩ := h k (by omega)
    have hclear : (S k).tc2.any (fun q => q.pour = some p.id && q.op = 0x82) = false := by
      simpa [List.any_eq_false] using hway
    have hrest := ih (k + 1) (fun i hi => h i (by omega))
    rw [State.gatherRows, if_neg (by simp [hclear]), hrow]
    simpa only [show k + 1 + n = k + (n + 1) by omega] using hrest

/-- What a GATHER leaves whose `n` rows have all landed, the last in the state `u`. -/
theorem State.rowsLanded_outcome (u : State) (id n : Nat) :
    let t := settle (u.onPour id (fun q => { q with progress := n }))
    t.mem = u.mem ∧ t.csr = u.csr ∧ t.pour? id = (u.pour? id).map (fun q => { q with progress := n }) := by
  refine ⟨by simp, by simp, ?_⟩
  rw [settle_pour?, State.onPour_pour? _ _ _ (by intro; rfl)]

/-- With POOL NONE a GATHER that has just been bound goes on to its tile rows. -/
theorem State.gatherGo_unpooled (s : State) (p : Pour) (t slot : Nat) (hcode : p.code = 0) (hparts : p.parts = []) (hprog : p.progress = 0)
    (hpool : p.pool = poolNone) :
    s.gatherGo p t slot = (s.onPour p.id (fun q => { q with parts := [[]] })).gatherRows p t slot (ceilDiv p.m 32) 0 := by
  simp [State.gatherGo, hcode, hparts, hprog, hpool]

/-- The read of every bag offset of a pooled GATHER. -/
def State.offsetRead (s : State) (p : Pour) : RdRes × State :=
  s.readLocal p.patternWho (s.hintOf p.flask p.dB.addr (4 * p.m) p.dB.hint .read) p.dB.addr (4 * p.m)

/-- A read of local memory leaves the pours. -/
@[simp] theorem State.offsetRead_pour? (s : State) (p : Pour) (id : Nat) : (s.offsetRead p).2.pour? id = s.pour? id := by
  obtain ⟨_, _, _, _, _, e⟩ := s.readLocal_only p.patternWho (s.hintOf p.flask p.dB.addr (4 * p.m) p.dB.hint .read) p.dB.addr (4 * p.m)
  exact State.pour?_congr (by rw [State.offsetRead, e]) id

/-- A pooled GATHER has just been bound, and its offsets lie in local memory and read clean. -/
structure OffsetsRead (s : State) (p : Pour) : Prop where
  code : p.code = 0
  parts : p.parts = []
  progress : p.progress = 0
  pooled : p.pool ≠ poolNone
  bags : p.m ≠ 0
  near : farKey p.dB.addr = false
  serves : s.drains p.dB.addr (4 * p.m) = false
  clean : (s.offsetRead p).1.code = 0

/-- The read of the offsets comes whole. -/
theorem OffsetsRead.fetch {s : State} {p : Pour} (h : OffsetsRead s p) :
    s.fetch p.patternWho (some p.id) [{ hint := s.hintOf p.flask p.dB.addr (4 * p.m) p.dB.hint .read, key := p.dB.addr, len := 4 * p.m }]
      = .got [(s.offsetRead p).1] (s.offsetRead p).2 :=
  s.fetch_local _ _ _ (show 4 * p.m ≠ 0 by have := h.bags; omega) h.near h.serves

/-- Offsets that break R427 fault the GATHER before it writes anything. -/
theorem OffsetsRead.illegal {s : State} {p : Pour} (h : OffsetsRead s p) (t slot : Nat)
    (hbad : (words32 (s.offsetRead p).1.bytes).headD 0 ≠ 0 ∨ offsetsOk p.k 0 (words32 (s.offsetRead p).1.bytes) = false) :
    s.gatherGo p t slot = (s.offsetRead p).2.failGather p.id { code := cFormatInvalid } := by
  simp [State.gatherGo, h.code, h.parts, h.pooled, h.fetch, loadStop, h.clean, -List.headD_eq_head?_getD, hbad]

/-- With legal offsets it goes on to its tile rows. -/
theorem OffsetsRead.legal {s : State} {p : Pour} (h : OffsetsRead s p) (t slot : Nat)
    (hzero : (words32 (s.offsetRead p).1.bytes).headD 0 = 0) (hok : offsetsOk p.k 0 (words32 (s.offsetRead p).1.bytes) = true) :
    s.gatherGo p t slot
      = ((s.offsetRead p).2.onPour p.id (fun q => { q with parts := [[]], words := words32 (s.offsetRead p).1.bytes })).gatherRows
          { p with words := words32 (s.offsetRead p).1.bytes } t slot (ceilDiv p.m 32) 0 := by
  simp [State.gatherGo, h.code, h.parts, h.progress, h.pooled, h.fetch, loadStop, h.clean, -List.headD_eq_head?_getD, hzero, hok]

/-- A running GATHER that meets a fault keeps running with the code until its end. -/
theorem State.failGather_outcome {s : State} {id : Nat} {p : Pour} (hp : s.pour? id = some p) (x : Stop) :
    ((s.failGather id x).pour? id).map (fun q => (q.stage, q.code)) = some (p.stage, x.code) := by
  rw [State.failGather, State.onPour_pour?_found hp rfl]
  rfl

/-! ### The ends of a GATHER and a FLIP -/

/-- A GATHER that has come to its end, with no request of it under way, leaves its slot and has run, or stands faulted. -/
theorem exec_gatherEnd_of_done {s : State} {id n slot : Nat} {p : Pour} (hp : s.pour? id = some p) (hop : p.opcode = 8)
    (hc : p.cancelled = false) (hst : p.stage = .running) (haux : p.aux = [n, slot])
    (hend : p.code ≠ 0 ∨ (p.parts ≠ [] ∧ p.progress = ceilDiv p.m 32)) (hout : ∀ q ∈ s.tc2, q.pour ≠ some id) :
    exec (.gatherEnd id) s
      = done ((s.unbindSlot n slot).onPour id (fun q => { q with stage := if q.code = 0 then .ran else .faulted, evaluated := true })) := by
  have hbeyond : (decide (p.code ≠ 0) || (!p.parts.isEmpty && decide (p.progress = ceilDiv p.m 32))) = true := by simpa using hend
  have hquiet : s.tc2.any (fun q => q.pour = some id) = false := by simpa [List.any_eq_false] using hout
  rw [exec_gatherEnd, execGatherEnd, hp]
  simp only [hop, hc, hst, haux, hbeyond, hquiet]
  rfl

/-- A FLIP that may switch: it heads the queue, its record is legal, it is no rerun of one that has switched, and its flask owns the table. -/
structure FlipMaySwitch (s : State) (id : Nat) (p : Pour) : Prop where
  pour : s.pour? id = some p
  opcode : p.opcode = 9
  unit : p.unit = .pattern
  starts : s.starts p = true
  legal : p.watchEn = false ∧ p.subop = 0 ∧ p.tileShape = 0 ∧ p.overflows = false
  first : p.index ∉ Sp.getD (s.ladle p.ladle).skipFlips p.source []
  valid : s.bit .tableValid p.table = true
  owner : s.rd .tableOwner p.table = p.flask

/-- The switch, noted with the ladle for a replay (R420). -/
def State.switchFor (s : State) (p : Pour) : State :=
  (s.switchTable p.table).onLadle p.ladle (fun r => { r with flips := Sp.modify r.flips p.source [] (p.index :: ·) })

theorem FlipMaySwitch.waits {s : State} {id : Nat} {p : Pour} (h : FlipMaySwitch s id p)
    (hbusy : s.rd (slotState (1 - s.currentSlot p.table)) p.table ≠ 0) : exec (.flipSwitch id) s = done s := by
  obtain ⟨hp, hop, hu, hs, ⟨hw, hsub, htile, hover⟩, hfirst, hv, how⟩ := h
  simp [exec_flipSwitch, execFlipSwitch, hp, hop, hu, hs, hw, hsub, htile, hover, hfirst, hv, how, slRetired, hbusy]

theorem FlipMaySwitch.switches {s : State} {id : Nat} {p : Pour} (h : FlipMaySwitch s id p)
    (hfree : s.rd (slotState (1 - s.currentSlot p.table)) p.table = 0) : exec (.flipSwitch id) s = done ((s.switchFor p).endOk p) := by
  obtain ⟨hp, hop, hu, hs, ⟨hw, hsub, htile, hover⟩, hfirst, hv, how⟩ := h
  simp [exec_flipSwitch, execFlipSwitch, hp, hop, hu, hs, hw, hsub, htile, hover, hfirst, hv, how, slRetired, hfree, State.switchFor]

/-- A switch changes no cut of a ladle. -/
theorem State.switchFor_cutCovers (s : State) (p : Pour) (i : Nat) : (s.switchFor p).cutCovers p.ladle i = s.cutCovers p.ladle i := by
  obtain ⟨c, e⟩ := s.switchTable_only p.table
  simp only [State.cutCovers, State.switchFor, State.onLadle_ladle_same, e]
  rfl

/-- The fields of the slots are none of those that the end of a pour touches. -/
theorem State.switchFor_endOk_rd (s : State) (p : Pour) (i : Nat) {k : FKind}
    (hk : k ∈ [FKind.tableStateA, .tableStateB, .tableInflightA, .tableInflightB, .tableGenA, .tableGenB]) :
    ((s.switchFor p).endOk p).rd k i = (s.switchTable p.table).rd k i := by
  rw [State.endOk_rd, State.switchFor, State.onLadle_rd]
  simp only [List.mem_cons, List.not_mem_nil, or_false] at hk
  rcases hk with rfl | rfl | rfl | rfl | rfl | rfl <;> decide

theorem slotState_mem (slot : Nat) :
    slotState slot ∈ [FKind.tableStateA, .tableStateB, .tableInflightA, .tableInflightB, .tableGenA, .tableGenB] := by
  unfold slotState; split <;> decide
theorem slotInflight_mem (slot : Nat) :
    slotInflight slot ∈ [FKind.tableStateA, .tableStateB, .tableInflightA, .tableInflightB, .tableGenA, .tableGenB] := by
  unfold slotInflight; split <;> decide
theorem slotGen_mem (slot : Nat) :
    slotGen slot ∈ [FKind.tableStateA, .tableStateB, .tableInflightA, .tableInflightB, .tableGenA, .tableGenB] := by
  unfold slotGen; split <;> decide

/-! ### The obligation -/

/-- Settles O57: the lemmas above give the outcome of each of the four commands; the tile rows follow by induction on their number. -/
theorem patternPours : Obligations.PatternPours := by
  unfold Obligations.PatternPours
  refine ⟨?gather, ?gatherEnd, ?flip, ?flipSwitch⟩
  case gather =>
    intro s id p hp hop hu hs hf hr
    have h : GatherMayStart s id p := ⟨hp, hop, hu, hs, hf, hr⟩
    obtain rfl := State.pour?_id hp
    refine ⟨fun hc => ?_, fun hc hb => ?_, fun slot hc hb => ⟨fun hg => ?_, fun hg hm => ?_, fun hg hm hcode hparts hprog => ?_⟩⟩
    · exact ⟨_, h.checkFails hc, by rw [settle_pour?, State.faultPour_outcome hp], by simp, by simp⟩
    · exact ⟨_, h.versionRetired hc hb, by rw [settle_pour?, State.faultPour_outcome hp]; rfl, by simp, by simp⟩
    · exact ⟨_, h.notGranted hc hb hg, by rw [settle_pour?, State.faultPour_outcome hp]; rfl, by simp, by simp⟩
    · exact ⟨_, h.noBags hc hb hg hm, by simp [hp], by simp, by simp⟩
    · have hgo := h.binds hc hb hg hm
      refine ⟨fun hpool S hS0 hrows => ?_, fun hpool hnear hserves hclean => ?_⟩
      · have hrun := State.gatherRows_of_lands (p.boundTo slot) p.table slot S (ceilDiv p.m 32) 0 (fun i hi => hrows i (by omega))
        rw [Nat.zero_add, hS0] at hrun
        have hrows1 := State.gatherGo_unpooled (s.bindGather p.id p slot) (p.boundTo slot) p.table slot hcode hparts hprog hpool
        exact ⟨_, hgo.trans (congrArg done (hrows1.trans hrun)), State.rowsLanded_outcome _ _ _⟩
      · have ho : OffsetsRead (s.bindGather p.id p slot) (p.boundTo slot) := ⟨hcode, hparts, hprog, hpool, hm, hnear, hserves, hclean⟩
        refine ⟨fun hbad => ?_, fun hzero hok S hS0 hrows => ?_⟩
        · have hpour : ((s.bindGather p.id p slot).offsetRead (p.boundTo slot)).2.pour? p.id = some (p.boundTo slot) := by
            rw [State.offsetRead_pour?, State.bindGather_pour? hp]
          exact ⟨_, hgo.trans (congrArg done (ho.illegal _ _ hbad)), by rw [settle_pour?]; exact State.failGather_outcome hpour _, settle_mem _⟩
        · have hrun := State.gatherRows_of_lands
            { p.boundTo slot with words := words32 ((s.bindGather p.id p slot).offsetRead (p.boundTo slot)).1.bytes } p.table slot S (ceilDiv p.m 32) 0 (fun i hi => hrows i (by omega))
          rw [Nat.zero_add, hS0] at hrun
          exact ⟨_, hgo.trans (congrArg done ((ho.legal _ _ hzero hok).trans hrun)), State.rowsLanded_outcome _ _ _⟩
  case gatherEnd =>
    intro s id n slot p hp hop hc hst haux hslot hend hout hin
    obtain ⟨c, e⟩ := s.unbindSlot_only n slot
    have hpour : (s.unbindSlot n slot).pour? id = some p := (State.pour?_congr (by rw [e]) id).trans hp
    refine ⟨_, exec_gatherEnd_of_done hp hop hc hst haux hend hout, ?_, ?_, ?_, ?_, ?_⟩
    · rw [settle_pour?, State.onPour_pour?_found hpour rfl]; rfl
    · rw [settle_rd, State.onPour_rd, State.unbindSlot_inflight _ _ _ hin]
    · rw [settle_rd, State.onPour_rd, State.unbindSlot_state _ _ _ hin]
    · rw [settle_rd, State.onPour_rd, State.unbindSlot_other_state _ _ _ hslot]
    · rw [settle_mem, State.onPour_mem, e]
  case flip =>
    intro s id p hp hop hu hst hc
    refine ⟨fun hfence hroom => ?_, fun hfence => ?_⟩
    · refine ⟨settle { s with pours := s.pours.filter (fun q => q.id ≠ id) ++ [{ p with unit := .pattern }] }, ?_, by simp, by simp, by simp⟩
      simp [exec_flip, execFlip, done, hp, hop, hu, hst, hc, hfence, hroom]
    · exact ⟨settle s, by simp [exec_flip, execFlip, done, hp, hfence], by simp, by simp, by simp⟩
  case flipSwitch =>
    intro s id p hp hop hu hs hw hsub htile hover hfirst hv how hcut
    have h : FlipMaySwitch s id p := ⟨hp, hop, hu, hs, ⟨hw, hsub, htile, hover⟩, hfirst, hv, how⟩
    refine ⟨fun hbusy => ?_, fun hfree hgen => ?_⟩
    · exact ⟨_, h.waits hbusy, settle_pours s, settle_csr s, settle_mem s⟩
    · have hended := State.endOk_ended (s.switchFor p) p (State.starts_not_cancelled hs) ((s.switchFor_cutCovers p p.index).trans hcut)
      obtain ⟨h1, h2, h3, h4, h5⟩ := s.switchTable_slots p.table hgen
      refine ⟨_, h.switches hfree, by rw [settle_pour?, ← State.pour?_id hp]; exact hended.gone, ?_⟩
      simp only [settle_rd, State.switchFor_endOk_rd s p _ (slotState_mem _), State.switchFor_endOk_rd s p _ (slotGen_mem _),
        State.switchFor_endOk_rd s p _ (slotInflight_mem _)]
      exact ⟨h1, h2, h3, h4, h5⟩

end Sys2Proof.Machine
end

section
/-!
SUPPORT. Software's access to the almanac clock: what a field reads after a write cut from a word, what the messages to the host are after a
command, and what the time registers read after their commands; and the settlement of O14 (R445, R461, R1079).
-/
namespace Sys2Proof.Machine

/-! ### Fields cut from a word -/

/-- A field cut from a word fits its width. -/
theorem bits_lt (x lo w : Nat) : bits x lo w < 2 ^ w := by
  unfold bits
  exact Nat.mod_lt _ (Nat.two_pow_pos w)

/-- A field written with the bits of a word that belong to it reads those bits. -/
theorem State.rd_wr_bits (s : State) {k : FKind} {w : Nat} (i x lo : Nat) (hw : k.info.width = w) :
    (s.wr k i (bits x lo w)).rd k i = bits x lo w := by
  rw [State.rd_wr_same, hw, Nat.mod_eq_of_lt (bits_lt x lo w)]

/-- The low bytes of a number are those of its remainder. -/
theorem leBytes_mod (x n : Nat) : leBytes (x % 2 ^ (8 * n)) n = leBytes x n := by
  induction n generalizing x with
  | zero => rfl
  | succ n ih =>
    have hpow : 2 ^ (8 * (n + 1)) = 256 * 2 ^ (8 * n) := by rw [Nat.mul_add, Nat.pow_add]; omega
    have hlow : BitVec.ofNat 8 (x % (256 * 2 ^ (8 * n))) = BitVec.ofNat 8 x := by
      apply BitVec.eq_of_toNat_eq
      simp
    rw [leBytes, leBytes, hpow, hlow, Nat.mod_mul_right_div_self, ih]

/-! ### Messages to the host -/

@[simp] theorem State.fire_out (s : State) (v : Nat) : (s.fire v).host.out = s.host.out := by
  unfold State.fire; split <;> rfl

@[simp] theorem State.partEvent_out (s : State) : s.partEvent.host.out = s.host.out := by
  unfold State.partEvent
  dsimp only
  split
  · exact s.fire_out _
  · rfl

/-- What follows a command sends messages after those sent already. -/
theorem settle_out_prefix (s : State) : s.host.out <+: (settle s).host.out := by
  have hout : (settle s).host.out = s.partEvent.sendHeld.host.out := rfl
  rw [hout, State.sendHeld, ← s.partEvent_out]
  exact List.prefix_append _ _

/-! ### TIME_CFG (R1079) -/

/-- The state after a write of TIME_CFG that reaches the part. -/
def State.timeCfgWritten (s : State) (v : Nat) : State :=
  let source := if bits v 0 2 = 3 then s else s.wr .sourceSel 0 (bits v 0 2)
  let policy := if 2 ≤ bits v 24 2 then source else source.wr .deferPolicy 0 (bits v 24 2)
  ((policy.wr .timePlane 0 (bits v 2 3)).wr .holdoverLimit 0 (bits v 8 8)).wr .deferLead 0 (bits v 16 8)

theorem exec_timeCfgWrite {s : State} (value : Word32) (hup : s.bar0Up = true) :
    exec (.timeCfgWrite value) s = done (s.timeCfgWritten value.toNat) := by
  have hexec : exec (.timeCfgWrite value) s = execTimeCfgWrite value s := rfl
  simp only [hexec, execTimeCfgWrite, hup, if_true, State.timeCfgWritten]

/-- The fields of TIME_CFG. -/
def timeCfgFields : List FKind := [.sourceSel, .deferPolicy, .timePlane, .holdoverLimit, .deferLead]

section
variable (s : State) (v : Nat)

/-- The three fields that take every value read what was written. -/
theorem State.timeCfgWritten_timePlane : (s.timeCfgWritten v).rd .timePlane = bits v 2 3 := by
  rw [State.timeCfgWritten, State.rd_wr_ne _ _ _ _ (by decide), State.rd_wr_ne _ _ _ _ (by decide), State.rd_wr_bits (w := 3) _ _ _ _ rfl]

theorem State.timeCfgWritten_holdoverLimit : (s.timeCfgWritten v).rd .holdoverLimit = bits v 8 8 := by
  rw [State.timeCfgWritten, State.rd_wr_ne _ _ _ _ (by decide), State.rd_wr_bits (w := 8) _ _ _ _ rfl]

theorem State.timeCfgWritten_deferLead : (s.timeCfgWritten v).rd .deferLead = bits v 16 8 := by
  rw [State.timeCfgWritten, State.rd_wr_bits (w := 8) _ _ _ _ rfl]

/-- The other fields read as the writes of SOURCE_SEL and DEFER_POLICY leave them. -/
theorem State.timeCfgWritten_sourceSel :
    (s.timeCfgWritten v).rd .sourceSel = if bits v 0 2 = 3 then s.rd .sourceSel else bits v 0 2 := by
  have hcut := s.rd_wr_bits (k := .sourceSel) (w := 2) 0 v 0 rfl
  simp only [State.timeCfgWritten, State.rd_wr_ne, apply_ite (State.rd · FKind.sourceSel 0), hcut, ne_eq, reduceCtorEq, not_false_eq_true, ite_self]

theorem State.timeCfgWritten_deferPolicy :
    (s.timeCfgWritten v).rd .deferPolicy = if 2 ≤ bits v 24 2 then s.rd .deferPolicy else bits v 24 2 := by
  have hcut (t : State) := t.rd_wr_bits (k := .deferPolicy) (w := 2) 0 v 24 rfl
  simp only [State.timeCfgWritten, State.rd_wr_ne, apply_ite (State.rd · FKind.deferPolicy 0), hcut, ne_eq, reduceCtorEq, not_false_eq_true, ite_self]

/-- A write of TIME_CFG leaves every other register field alone. -/
theorem State.timeCfgWritten_rd_other {k : FKind} (hk : k ∉ timeCfgFields) (i : Nat) : (s.timeCfgWritten v).rd k i = s.rd k i := by
  simp only [timeCfgFields, List.mem_cons, List.not_mem_nil, or_false, not_or] at hk
  obtain ⟨hsource, hpolicy, hplane, hlimit, hlead⟩ := hk
  simp only [State.timeCfgWritten, State.rd_wr_ne, apply_ite (State.rd · k i), ne_eq, hsource, hpolicy, hplane, hlimit, hlead,
    not_false_eq_true, ite_self]

theorem State.timeCfgWritten_time : (s.timeCfgWritten v).time = s.time := by
  simp only [State.timeCfgWritten, State.wr_time, apply_ite State.time, ite_self]

end

/-! ### TICK_CFG (R461) -/

/-- The state after a write of TICK_CFG that reaches the part, with the TICK_DELAY that it covers. -/
def State.tickCfgWritten (s : State) (delay : Option (BitVec 16)) : State :=
  (delay.elim s (fun d => s.wr .tickDelay 0 d.toNat)).setBit .tickLoadArm

theorem exec_tickLoadArm {s : State} (delay : Option (BitVec 16)) (hup : s.bar0Up = true) :
    exec (.tickLoadArm delay) s = done (s.tickCfgWritten delay) := by
  have hexec : exec (.tickLoadArm delay) s = execTickLoadArm delay s := rfl
  cases delay <;> simp only [hexec, execTickLoadArm, hup, if_true, State.tickCfgWritten, Option.elim]

section
variable (s : State) (delay : Option (BitVec 16))

theorem State.tickCfgWritten_tickLoadArm : (s.tickCfgWritten delay).bit .tickLoadArm = true := by
  rw [State.tickCfgWritten, State.setBit, State.bit, State.rd_wr_same]
  rfl

/-- A TICK_DELAY that the write covers is read as written, and one that it does not cover as before. -/
theorem State.tickCfgWritten_tickDelay :
    (s.tickCfgWritten delay).rd .tickDelay = (delay.map BitVec.toNat).getD (s.rd .tickDelay) := by
  rw [State.tickCfgWritten, State.setBit, State.rd_wr_ne _ _ _ _ (by decide)]
  cases delay with
  | none => rfl
  | some d => exact (s.rd_wr_same _ _ _).trans (Nat.mod_eq_of_lt d.isLt)

theorem State.tickCfgWritten_time : (s.tickCfgWritten delay).time = s.time := by
  cases delay <;> rfl

end

/-! ### ALMANAC_NOW (R445) -/

/-- The state after a read of ALMANAC_NOW_LO that reaches the part. -/
def State.nowLoRead (s : State) : State :=
  (s.send (.data (leBytes (s.now % 2 ^ 32) 4) false)).wr .nowHi 0 (s.now / 2 ^ 32)

theorem exec_almanacNowLoRead_pf0 {s : State} (hup : s.bar0Up = true) : exec (.almanacNowLoRead .pf0) s = done s.nowLoRead := by
  have hexec : exec (.almanacNowLoRead .pf0) s = execAlmanacNowLoRead .pf0 s := rfl
  simp only [hexec, execAlmanacNowLoRead, hup, if_true, State.nowLoRead]

/-- The latched half fits NOW_HI, since almanac time is a number of 64 bits (R9). -/
theorem State.nowLoRead_nowHi (s : State) : s.nowLoRead.rd .nowHi = s.now / 2 ^ 32 := by
  have hnow : s.now < 2 ^ 32 * 2 ^ 32 := Nat.mod_lt _ (by decide)
  exact (State.rd_wr_same _ _ _ _).trans (Nat.mod_eq_of_lt (Nat.div_lt_of_lt_mul hnow))

/-- The read returns the low bytes of the instant whose high half it latches. -/
theorem State.nowLoRead_out (s : State) : HostMsg.data (leBytes s.now 4) false ∈ s.nowLoRead.host.out := by
  rw [State.nowLoRead, State.wr_host, State.send, leBytes_mod s.now 4]
  exact List.mem_append_right _ (List.mem_singleton_self _)

theorem State.nowLoRead_time (s : State) : s.nowLoRead.time = s.time := rfl

/-! ### The obligation -/

/-- Settles O14: each command ends in the state named above, whose fields the lemmas read; what follows a command changes no register
field, leaves the clock alone and keeps the messages sent. -/
theorem timeRegisters : Obligations.TimeRegisters := by
  unfold Obligations.TimeRegisters
  refine ⟨?timeCfg, ?tickArm, ?nowRead⟩
  case timeCfg =>
    intro s value hup
    refine ⟨_, exec_timeCfgWrite value hup, ?_⟩
    simp only [settle_rd, settle_time]
    exact ⟨s.timeCfgWritten_sourceSel _, s.timeCfgWritten_deferPolicy _, s.timeCfgWritten_timePlane _, s.timeCfgWritten_holdoverLimit _,
      s.timeCfgWritten_deferLead _, s.timeCfgWritten_time _, fun _ i hk => s.timeCfgWritten_rd_other _ hk i⟩
  case tickArm =>
    intro s delay hup
    refine ⟨_, exec_tickLoadArm delay hup, ?_⟩
    simp only [settle_rd, settle_bit, settle_time]
    exact ⟨s.tickCfgWritten_tickLoadArm delay, s.tickCfgWritten_tickDelay delay, s.tickCfgWritten_time delay⟩
  case nowRead =>
    intro s hup
    refine ⟨_, exec_almanacNowLoRead_pf0 hup, ?_⟩
    simp only [settle_rd, settle_time]
    exact ⟨s.nowLoRead_time, s.nowLoRead_nowHi, (settle_out_prefix _).mem s.nowLoRead_out⟩

end Sys2Proof.Machine
end

section
/-!
SUPPORT. The brick enumerator and patrol scrub: what ENUMERATE does with a descriptor in local memory, how long its lists and entries are,
which bricks a causal list holds, and what one command of patrol scrub leaves; and the settlement of O58 (R321 to R340, R649 to R655).
-/
namespace Sys2Proof.Machine

/-! ### ENUMERATE (R337 to R340) -/

/-- The state in which the enumerator has stopped before its first list, with a code. -/
def State.enumFailed (s : State) (c : Nat) : State := { s with enumPos := 0, enumCode := c }

/-- A flask whose command ENUMERATE is acted on. -/
structure EnumServes (s : State) (f : Nat) : Prop where
  ready : s.ready = true
  flask : f < 64
  enabled : s.bit .flaskEnabled f = true
  idle : s.bit .resetBusy f = false

/-- The read of the header of a descriptor. -/
def State.headerRead (s : State) (f a : Nat) : RdRes × State := s.readLocal (enumWho f) (s.hintOf f a 64 0 .read) a 64

/-- The header of a descriptor lies in local memory, may be read and reads clean. -/
structure HeaderReads (s : State) (f a : Nat) : Prop where
  allowed : s.allowed f a 64 .read = true
  near : farKey a = false
  serves : s.drains a 64 = false
  clean : (s.headerRead f a).1.code = 0

theorem exec_enumerate (f a : Nat) (s : State) : exec (.enumerate f a) s = execEnumerate f a s := rfl

/-- A fetch of no bytes reads nothing and changes nothing. -/
theorem State.fetch_nothing (s : State) (who : Who) (pour : Option Nat) (hint key : Nat) :
    s.fetch who pour [{ hint := hint, key := key, len := 0 }] = .got [{ bytes := [] }] s := by
  simp [State.fetch, State.askAll, State.take1]

/-- The read of the header comes whole. -/
theorem HeaderReads.fetch {s : State} {f a : Nat} (h : HeaderReads s f a) :
    s.fetch (enumWho f) none [{ hint := s.hintOf f a 64 0 .read, key := a, len := 64 }] = .got [(s.headerRead f a).1] (s.headerRead f a).2 :=
  s.fetch_local _ _ _ (Nat.succ_ne_zero 63) h.near h.serves

section
variable {s : State} {f : Nat} (h : EnumServes s f) (a : Nat)
include h

theorem EnumServes.notAllowed (ha : s.allowed f a 64 .read = false) : exec (.enumerate f a) s = done (s.enumFailed cSegmentFault) := by
  obtain ⟨hready, hflask, henabled, hidle⟩ := h
  simp [exec_enumerate, execEnumerate, hready, Nat.not_le.mpr hflask, henabled, hidle, ha, State.enumFailed]

theorem EnumServes.breaksRule (hr : HeaderReads s f a) (hok : (patternOf (s.headerRead f a).1.bytes).ok = false) :
    exec (.enumerate f a) s = done ((s.headerRead f a).2.enumFailed cFormatInvalid) := by
  obtain ⟨hready, hflask, henabled, hidle⟩ := h
  simp [exec_enumerate, execEnumerate, hready, Nat.not_le.mpr hflask, henabled, hidle, hr.allowed, hr.fetch, hr.clean, hok, State.enumFailed]

/-- Without global bricks there is no global entry to read, and the lists follow the header at once. -/
theorem EnumServes.expands (hr : HeaderReads s f a) (hok : (patternOf (s.headerRead f a).1.bytes).ok = true)
    (hglobals : (patternOf (s.headerRead f a).1.bytes).globals = 0) :
    exec (.enumerate f a) s = done (State.writeLists f (patternOf (s.headerRead f a).1.bytes)
      ((patternOf (s.headerRead f a).1.bytes).lists []) 0 (s.headerRead f a).2) := by
  obtain ⟨hready, hflask, henabled, hidle⟩ := h
  simp [exec_enumerate, execEnumerate, hready, Nat.not_le.mpr hflask, henabled, hidle, hr.allowed, hr.fetch, hr.clean, hok, hglobals,
    State.fetch_nothing, chunks]
end

/-! ### Entries and lists (R332 to R336) -/

theorem Pattern.entry_length (d : Pattern) (j : Nat) (v : Option Visit) : (d.entry j v).length = 32 := by
  cases v with
  | none => simp [Pattern.entry]
  | some v => simp [Pattern.entry]

/-- A list that fits is filled up to VISIT_MAX with unused entries (R332). -/
theorem Pattern.steps_length (d : Pattern) (vs : List (Option Visit)) (h : vs.length ≤ d.visitMax) : (d.steps vs).length = d.visitMax := by
  have hnone : vs[d.visitMax]? = none := List.getElem?_eq_none h
  simp only [Pattern.steps, hnone, List.take_of_length_le h, List.length_append, List.length_map, List.length_nil, List.length_replicate]
  omega

theorem Pattern.lists_length (d : Pattern) (gl : List GlobalEntry) :
    (d.lists gl).length = (d.qLast - d.qFirst + 1) * 2 ^ d.stackLog2 + if d.globalQuery = true then d.globals else 0 := by
  have hgrid (g : Nat → List (Option Visit)) (n : Nat) :
      (((List.range n).map (fun i => (List.range (2 ^ d.stackLog2)).map (fun j => (j, g i)))).flatten).length = n * 2 ^ d.stackLog2 := by
    induction n with
    | zero => exact (Nat.zero_mul _).symm
    | succ n ih =>
      rw [List.range_succ, List.map_append, List.flatten_append, List.length_append, ih, List.map_singleton, List.flatten_singleton,
        List.length_map, List.length_range, Nat.succ_mul]
  rw [Pattern.lists, List.length_append, hgrid]
  cases d.globalQuery with
  | false => simp
  | true => simp

/-! ### The bricks of a causal list (R324, R332) -/

/-- A brick of a window lies within the window and within the padded extent. -/
theorem mem_windowRange_le {c radius hi extent x : Nat} (h : x ∈ windowRange c radius hi extent) : x ≤ hi ∧ x ≤ extent - 1 := by
  obtain ⟨i, hi', rfl⟩ := List.mem_map.mp h
  rw [List.mem_range] at hi'
  omega

/-- The frame of bricks that a brick lies in, from its number (R324); an extent of no bricks makes every quotient 0. -/
theorem brick_frame_le {t h w bh bw : Nat} (hh : h ≤ bh - 1) (hw : w ≤ bw - 1) : ((t * bh + h) * bw + w) / (bh * bw) ≤ t := by
  rcases Nat.eq_zero_or_pos bw with rfl | hbw
  · simp
  rcases Nat.eq_zero_or_pos bh with rfl | hbh
  · simp
  have hrow : ((t * bh + h) * bw + w) / bw = t * bh + h := by
    rw [Nat.mul_comm, Nat.mul_add_div hbw, Nat.div_eq_of_lt (by omega), Nat.add_zero]
  have hframe : (t * bh + h) / bh = t := by
    rw [Nat.mul_comm, Nat.mul_add_div hbh, Nat.div_eq_of_lt (by omega), Nat.add_zero]
  exact Nat.le_of_eq (by rw [Nat.mul_comm bh bw, ← Nat.div_div_eq_div_mul, hrow, hframe])

/-- A visit of a local brick in a grid list: its brick is of the window, lies in the local area and gives its record's address. -/
theorem Pattern.gridVisits_local {d : Pattern} {gl : List GlobalEntry} {q : Nat} {v : Visit}
    (hv : some v ∈ d.gridVisits gl q) (hlocal : v.isGlobal = false) :
    ∃ bt bh bw, bt ≤ (if d.causal then q / (d.bh * d.bw) else q / (d.bh * d.bw) + d.rt) ∧ bh ≤ d.bh - 1 ∧ bw ≤ d.bw - 1
      ∧ v.brick = (bt * d.bh + bh) * d.bw + bw ∧ d.areaFirst ≤ v.brick ∧ v.brick ≤ d.areaLast
      ∧ v.addr = d.localBase + (v.brick - d.areaFirst) * d.stride := by
  rcases List.mem_append.mp hv with hglobal | hgrid
  · obtain ⟨e, _, he⟩ := List.mem_map.mp hglobal
    obtain rfl := Option.some.inj he
    exact absurd hlocal (by simp [Pattern.globalVisit])
  · obtain ⟨⟨bt, bh, bw⟩, hcell, hvisit⟩ := List.mem_filterMap.mp hgrid
    obtain ⟨_, hrows, hcell⟩ := List.mem_flatten.mp hcell
    obtain ⟨t, ht, rfl⟩ := List.mem_map.mp hrows
    obtain ⟨_, hrow, hcell⟩ := List.mem_flatten.mp hcell
    obtain ⟨h, hh, rfl⟩ := List.mem_map.mp hrow
    obtain ⟨w, hw, hthw⟩ := List.mem_map.mp hcell
    obtain ⟨rfl, rfl, rfl⟩ : t = bt ∧ h = bh ∧ w = bw := by simpa only [Prod.mk.injEq] using hthw
    dsimp only at hvisit
    split at hvisit
    · cases hvisit
    · split at hvisit
      · cases hvisit
      next harea =>
        obtain rfl := Option.some.inj (Option.some.inj hvisit)
        simp only [Bool.or_eq_true, decide_eq_true_eq, not_or, Nat.not_lt] at harea
        exact ⟨_, _, _, (mem_windowRange_le ht).1, (mem_windowRange_le hh).2, (mem_windowRange_le hw).2, rfl, harea.1, harea.2, rfl⟩

/-! ### Patrol scrub (R649 to R655) -/

/-- The words of a visited range are read: only the fields that a read of memory may change differ after it. -/
theorem State.scrubRead_rd (s : State) (a len : Nat) (k : FKind) (i : Nat) (h : k ∉ readKinds) : (s.scrubRead a len).rd k i = s.rd k i := by
  unfold State.scrubRead
  split
  · exact foldl_rel (fun s t : State => t.rd k i = s.rd k i) (fun _ => rfl) (fun _ _ _ e e' => e'.trans e) _
      (fun t _ => t.noteWord_rd _ _ _ _ k i h) _ _
  · rfl

theorem State.scrubSram_rd (s : State) (die : Nat) (k : FKind) (i : Nat) (h : k ∉ readKinds) : (s.scrubSram die).rd k i = s.rd k i := by
  unfold State.scrubSram
  dsimp only
  split
  · rfl
  · exact foldl_rel (fun s t : State => t.rd k i = s.rd k i) (fun _ => rfl) (fun _ _ _ e e' => e'.trans e) _
      (fun t g => t.scrubRead_rd _ _ k i h) _ _

/-- The state after the read of a stack's next page, if it has one there. -/
def State.scrubStack (s : State) (stack : Nat) : State := (s.stackPage stack (s.rd .scrubPos stack)).elim s (s.scrubRead · 4096)

/-- The state with scrub of a stack gone on from a page to the next of so many, or to page 0 with one pass more (R655, log entry 32). -/
def State.scrubAdvance (s : State) (stack page pages : Nat) : State :=
  if page + 1 < pages then s.wr .scrubPos stack (page + 1) else (s.wr .scrubPos stack 0).wr .scrubPasses stack (s.rd .scrubPasses stack + 1)

theorem State.scrubStack_rd (s : State) (stack : Nat) (k : FKind) (i : Nat) (h : k ∉ readKinds) : (s.scrubStack stack).rd k i = s.rd k i := by
  unfold State.scrubStack
  cases s.stackPage stack (s.rd .scrubPos stack) with
  | none => rfl
  | some a => exact s.scrubRead_rd a 4096 k i h

/-- The number of every page fits the 25 bits of SCRUB_POS. -/
theorem State.stackPages_lt (s : State) : s.stackPages < 2 ^ 25 := by
  unfold State.stackPages State.stackGiB
  split <;> decide

section
variable (s : State) (stack page : Nat) {pages : Nat}

theorem State.scrubAdvance_pos (h : pages < 2 ^ 25) :
    (s.scrubAdvance stack page pages).rd .scrubPos stack = if page + 1 < pages then page + 1 else 0 := by
  unfold State.scrubAdvance
  split
  · rw [State.rd_wr_same]
    exact Nat.mod_eq_of_lt (show page + 1 < 2 ^ 25 by omega)
  · rw [State.rd_wr_ne _ _ _ _ (by decide), State.rd_wr_same, Nat.zero_mod]

theorem State.scrubAdvance_passes : (s.scrubAdvance stack page pages).rd .scrubPasses stack
    = if page + 1 < pages then s.rd .scrubPasses stack else (s.rd .scrubPasses stack + 1) % 2 ^ 32 := by
  unfold State.scrubAdvance
  split
  · exact State.rd_wr_ne _ _ _ _ (by decide)
  · exact State.rd_wr_same _ _ _ _

/-- The positions of the other stacks stay. -/
theorem State.scrubAdvance_pos_other {j : Nat} (h : j ≠ stack) : (s.scrubAdvance stack page pages).rd .scrubPos j = s.rd .scrubPos j := by
  unfold State.scrubAdvance
  split
  · exact State.rd_wr_idx _ _ _ h
  · rw [State.rd_wr_ne _ _ _ _ (by decide), State.rd_wr_idx _ _ _ h]
end

theorem exec_scrubPage (stack : Nat) (s : State) : exec (.scrubPage stack) s = execScrubPage stack s := rfl

/-- A SCRUB entry that is open names the stack (R649). -/
def State.scrubsStack (s : State) (stack : Nat) : Bool := s.scrubOpen.any (fun e => e.2.testBit stack)

section
variable {s : State} {stack : Nat}

theorem exec_scrubPage_closed (hwin : s.scrubsStack stack = false) : exec (.scrubPage stack) s = done s := by
  rw [exec_scrubPage, execScrubPage, ← State.scrubsStack, hwin]
  simp

theorem exec_scrubPage_skips (hstack : stack < 16) (hwin : s.scrubsStack stack = true) (hclass : s.rd .stackClass stack ≠ 0) :
    exec (.scrubPage stack) s = done (s.setBit .scrubSkipped) := by
  rw [exec_scrubPage, execScrubPage, ← State.scrubsStack, hwin]
  simp [Nat.not_le.mpr hstack, hclass]

theorem exec_scrubPage_reads (hstack : stack < 16) (hwin : s.scrubsStack stack = true) (hclass : s.rd .stackClass stack = 0) :
    exec (.scrubPage stack) s
      = done (((s.scrubStack stack).scrubAdvance stack (s.rd .scrubPos stack) s.stackPages).scrubSram stack) := by
  rw [exec_scrubPage, execScrubPage, ← State.scrubsStack, hwin, State.scrubAdvance, State.scrubStack]
  cases hpage : s.stackPage stack (s.rd .scrubPos stack) with
  | none => simp [Nat.not_le.mpr hstack, hclass, hpage]
  | some a => simp [Nat.not_le.mpr hstack, hclass, hpage]
end

/-! ### The obligation -/

/-- Settles O58: each command ends in a state named above, whose fields the lemmas read; the visits of a causal list come from window bricks
of no later frame than the query's own. -/
theorem enumeratorAndScrub : Obligations.EnumeratorAndScrub := by
  unfold Obligations.EnumeratorAndScrub
  refine ⟨⟨?enumerate, Pattern.entry_length, Pattern.steps_length, fun d gl _ => d.lists_length gl, ?causal⟩, ?scrub⟩
  case enumerate =>
    intro s f a hready hflask henabled hidle
    have h : EnumServes s f := ⟨hready, hflask, henabled, hidle⟩
    refine ⟨fun ha => ⟨_, h.notAllowed a ha, ?_⟩, fun ha hnear hserves hclean => ?_⟩
    · exact ⟨settle_enumCode _, settle_enumPos _, settle_mem _, settle_csr _⟩
    · have hr : HeaderReads s f a := ⟨ha, hnear, hserves, hclean⟩
      refine ⟨fun hok => ⟨_, h.breaksRule a hr hok, ?_⟩, fun hok hglobals => ⟨_, h.expands a hr hok hglobals, ?_⟩⟩
      · exact ⟨settle_enumCode _, settle_enumPos _, settle_mem _⟩
      · exact ⟨settle_enumCode _, settle_enumPos _, settle_mem _, settle_tc2 _⟩
  case causal =>
    intro d gl q v hcausal hv hlocal
    obtain ⟨bt, bh, bw, ht, hh, hw, hbrick, hfirst, hlast, haddr⟩ := Pattern.gridVisits_local hv hlocal
    rw [hcausal, if_pos rfl] at ht
    refine ⟨?_, hfirst, hlast, haddr⟩
    calc v.brick / (d.bh * d.bw) = ((bt * d.bh + bh) * d.bw + bw) / (d.bh * d.bw) := by rw [hbrick]
      _ ≤ bt := brick_frame_le hh hw
      _ ≤ q / (d.bh * d.bw) := ht
  case scrub =>
    intro s k hk
    refine ⟨fun hwin => ⟨_, exec_scrubPage_closed hwin, settle_csr _, settle_mem _⟩, fun hwin hclass => ?_, fun hwin hclass => ?_⟩
    · refine ⟨_, exec_scrubPage_skips hk hwin hclass, ?_, ?_, settle_mem _⟩
      · rw [settle_bit, State.setBit, State.bit, State.rd_wr_same]
        rfl
      · rw [settle_rd, State.setBit, State.rd_wr_ne _ _ _ _ (by decide)]
    · refine ⟨_, exec_scrubPage_reads hk hwin hclass, ?_, ?_, fun j hj => ?_⟩
      · rw [settle_rd, State.scrubSram_rd _ _ _ _ (by decide), State.scrubAdvance_pos _ _ _ s.stackPages_lt]
      · rw [settle_rd, State.scrubSram_rd _ _ _ _ (by decide), State.scrubAdvance_passes, State.scrubStack_rd _ _ _ _ (by decide)]
      · rw [settle_rd, State.scrubSram_rd _ _ _ _ (by decide), State.scrubAdvance_pos_other _ _ _ hj, State.scrubStack_rd _ _ _ _ (by decide)]

end Sys2Proof.Machine
end

section
/-!
SUPPORT. Riser points: which fields a journal entry gives back, what the end of a pour leaves, and the state in which a MARK's record is
current; and the settlement of O59 (R797 to R800, R806, R807).
-/
namespace Sys2Proof.Machine

/-! ### Fields of an entry -/

/-- A field behind the bytes `a` is read from what follows them. -/
theorem jField_append_add {a : List Byte} {off : Nat} (h : a.length = off) (r : List Byte) (k n : Nat) :
    jField (a ++ r) (off + k) n = jField r k n := by
  rw [jField, ← h, List.drop_length_add_append]
  rfl

/-- A number at the front of the bytes reads as itself, cut to its width. -/
theorem jField_leBytes_append (x n : Nat) (r : List Byte) : jField (leBytes x n ++ r) 0 n = x % 2 ^ (8 * n) := by
  rw [jField, List.drop_zero, List.take_left' (leBytes_length x n), leNat_leBytes]

/-- Pieces of one width follow each other without a gap. -/
theorem length_flatten_map {α : Type} {l : List α} {g : α → List Byte} {w : Nat} (h : ∀ a ∈ l, (g a).length = w) :
    ((l.map g).flatten).length = w * l.length := by
  have hwidths : (l.map g).map List.length = List.replicate l.length w :=
    List.map_map.trans (List.map_eq_replicate_iff.mpr h)
  rw [List.length_flatten, hwidths, List.sum_replicate_nat, Nat.mul_comm]

/-- The `i`th of numbers of one width is read at `i` widths. -/
theorem jField_flatten_leBytes {α : Type} (l : List α) (g : α → Nat) (w : Nat) (r : List Byte) (i : Nat) (hi : i < l.length) :
    jField ((l.map (fun a => leBytes (g a) w)).flatten ++ r) (w * i) w = g l[i] % 2 ^ (8 * w) := by
  induction l generalizing i with
  | nil => exact absurd hi (Nat.not_lt_zero i)
  | cons a l ih =>
    rw [List.map_cons, List.flatten_cons, List.append_assoc]
    cases i with
    | zero => exact jField_leBytes_append (g a) w _
    | succ i =>
      rw [Nat.mul_succ, Nat.add_comm, jField_append_add (leBytes_length (g a) w)]
      exact ih i (Nat.lt_of_succ_lt_succ hi)

/-! ### The journal entry (R807) -/

@[simp] theorem padTo_length {α : Type} (l : List α) (n : Nat) (d : α) : (padTo l n d).length = n := by
  rw [padTo, List.length_take, List.length_append, List.length_replicate]
  omega

@[simp] theorem loopIters_length (h : Heat) (sec : Nat) : (loopIters h sec).length = 4 := by
  unfold loopIters
  split
  · exact padTo_length _ _ _
  · exact List.length_replicate

/-- The semaphores of a flask as an entry saves them. -/
def State.savedSems (s : State) (f : Nat) : List Byte := ((List.range 64).map (fun i => leBytes (s.rd .sem (64 * f + i)) 4)).flatten

@[simp] theorem State.savedSems_length (s : State) (f : Nat) : (s.savedSems f).length = 256 := by
  rw [State.savedSems, length_flatten_map (fun i _ => leBytes_length _ 4), List.length_range]

/-- The parts of an entry, in order: the index, the position in the heat, the words of the MARK, the time, the semaphores, the ranges and
the watch slots. -/
theorem State.journalEntry_layout (s : State) (p : Pour) : ∃ heat ranges slots : List Byte,
    heat.length = 32 ∧ ranges.length = 256 ∧ slots.length = 8 * p.markCount
    ∧ s.journalEntry p = leBytes p.index 4 ++ (heat ++ (leBytes (p.param 16 26) 4 ++ (leBytes (p.f bitA 64) 8 ++ (leBytes s.now 8
      ++ (List.replicate 72 0 ++ (s.savedSems p.flask ++ (ranges ++ slots))))))) := by
  rw [State.journalEntry]
  simp only [List.append_assoc]
  refine ⟨_, _, _, ?heat, padTo_length _ 256 0, ?slots, rfl⟩
  case heat =>
    split
    next hp h _ _ =>
      have hsections := length_flatten_map (l := List.range 3) (g := fun i => leBytes ((h.sections[i]?).elim 0 (·.pos)) 4)
        (fun i _ => leBytes_length _ 4)
      have hloops := length_flatten_map (l := loopIters h hp.sec) (g := fun i => leBytes i 3) (fun i _ => leBytes_length i 3)
      simp only [List.length_append, leBytes_length, hsections, hloops, List.length_range, loopIters_length]
    next => exact List.length_replicate
  case slots =>
    rw [length_flatten_map (w := 8), List.length_range]
    intro i _
    rw [List.length_append, leBytes_length, leBytes_length]

/-- An entry gives back the index, the mask and every semaphore that it saved. -/
theorem State.journalEntry_fields (s : State) (p : Pour) :
    jField (s.journalEntry p) 0 4 = p.index % 2 ^ 32
    ∧ jField (s.journalEntry p) 0x28 8 = p.f bitA 64
    ∧ (∀ i < 64, jField (s.journalEntry p) (0x80 + 4 * i) 4 = s.rd .sem (64 * p.flask + i) % 2 ^ 32)
    ∧ (s.journalEntry p).length = 0x280 + 8 * p.markCount := by
  obtain ⟨heat, ranges, slots, hheat, hranges, hslots, e⟩ := s.journalEntry_layout p
  rw [e]
  refine ⟨jField_leBytes_append _ _ _, ?mask, fun i hi => ?sem, ?length⟩
  case mask =>
    rw [show 0x28 = 4 + (32 + (4 + 0)) from rfl, jField_append_add (leBytes_length _ 4), jField_append_add hheat,
      jField_append_add (leBytes_length _ 4), jField_leBytes_append]
    exact Nat.mod_eq_of_lt (bits_lt _ _ _)
  case sem =>
    rw [show 0x80 + 4 * i = 4 + (32 + (4 + (8 + (8 + (72 + 4 * i))))) by omega, jField_append_add (leBytes_length _ 4), jField_append_add hheat,
      jField_append_add (leBytes_length _ 4), jField_append_add (leBytes_length _ 8), jField_append_add (leBytes_length _ 8),
      jField_append_add List.length_replicate, State.savedSems,
      jField_flatten_leBytes _ _ _ _ i (by rwa [List.length_range]), List.getElem_range]
  case length =>
    simp only [List.length_append, leBytes_length, hheat, List.length_replicate, State.savedSems_length, hranges, hslots]
    omega

/-! ### The end of a pour that may lie in a cut -/

/-- A pour ends OK, or, cancelled or in the cut of its ladle, it leaves nothing (R551). -/
theorem State.endOk_cases (s : State) (p : Pour) : EndedOk s (s.endOk p) p ∨ s.endOk p = s.dropPour p.id := by
  by_cases h : (p.cancelled || s.cutCovers p.ladle p.index) = true
  · exact .inr (by rw [State.endOk, if_pos h, State.endPour, if_pos h])
  · rw [Bool.not_eq_true, Bool.or_eq_false_iff] at h
    obtain ⟨hcancelled, hcut⟩ := h
    exact .inl (s.endOk_ended p hcancelled hcut)

theorem State.endOk_gone (s : State) (p : Pour) : (s.endOk p).pour? p.id = none := by
  obtain h | h := s.endOk_cases p
  · exact h.gone
  · rw [h, State.dropPour_gone]

/-- A pour that asks for no completion record writes no memory as it ends OK. -/
theorem State.endOk_mem_of_silent (s : State) (p : Pour) (h : p.completeEn = false) : (s.endOk p).mem = s.mem := by
  obtain h' | h' := s.endOk_cases p
  · exact (h'.silent h).1
  · rw [h', State.dropPour_mem]

/-! ### MARK (R797) -/

theorem exec_mark (id : Nat) (s : State) : exec (.mark id) s = execMark id s := rfl

/-- A MARK that may start runs as soon as its fence holds. -/
theorem exec_mark_runs {s : State} {id : Nat} {p : Pour} (hp : s.pour? id = some p) (hop : p.opcode = 0xF) (hs : s.starts p = true)
    (hf : s.markFence p = true) : exec (.mark id) s = done (s.onPour id (fun q => { q with stage := .running })) := by
  simp [exec_mark, execMark, hp, hop, hs, hf]

/-- Until its fence holds a MARK changes nothing. -/
theorem exec_mark_waits {s : State} {id : Nat} {p : Pour} (hp : s.pour? id = some p) (hf : s.markFence p = false) :
    exec (.mark id) s = done s := by
  simp [exec_mark, execMark, hp, hf]

/-! ### The record of a MARK (R798 to R800, R806) -/

theorem exec_markRecord (id : Nat) (s : State) : exec (.markRecord id) s = execMarkRecord id s := rfl

/-- The state after the write of the entry, `u`, with the slot written made current: the riser point of the ladle with ATTEMPT 0, the heat
kept with it, and no FLIP noted since. -/
def State.withRiser (s u : State) (p : Pour) : State :=
  ((((u.wr .riserSlot p.ladle (1 - s.rd .riserSlot p.ladle)).setBit .hasRiser p.ladle).wr .riserAttempt p.ladle 0).wr .riserMark p.ladle
    (p.heat.elim p.index (·.prog))).onLadle p.ladle (fun r =>
      { r with
        riserHeat := if p.heat.isSome then
          (Sp.get? s.heats p.ladle).map (fun h => { h with sections := h.sections.map (fun x => { x with record := none }) }) else none,
        flips := [], skipFlips := [] })

theorem State.withRiser_mem (s u : State) (p : Pour) : (s.withRiser u p).mem = u.mem := rfl

/-- The register fields of the riser point that a record leaves. -/
theorem State.withRiser_riser (s u : State) (p : Pour) :
    (s.withRiser u p).rd .riserSlot p.ladle = 1 - s.rd .riserSlot p.ladle ∧ (s.withRiser u p).rd .hasRiser p.ladle = 1
    ∧ (s.withRiser u p).rd .riserAttempt p.ladle = 0
    ∧ (s.withRiser u p).rd .riserMark p.ladle = (p.heat.elim p.index (·.prog)) % 2 ^ 32 := by
  have hslot : (1 - s.rd .riserSlot p.ladle) % 2 ^ FKind.riserSlot.info.width = 1 - s.rd .riserSlot p.ladle :=
    Nat.mod_eq_of_lt (Nat.lt_succ_of_le (Nat.sub_le _ _))
  simp only [State.withRiser, State.setBit, State.onLadle_rd, State.rd_wr]
  exact ⟨hslot, rfl, rfl, rfl⟩

/-- A running MARK whose entry is written makes the slot current and ends. -/
theorem exec_markRecord_of_put {s u : State} {id : Nat} {p : Pour} (hp : s.pour? id = some p) (hop : p.opcode = 0xF)
    (hst : p.stage = .running) (hc : p.cancelled = false)
    (hput : s.put { rq := rqPour, flask := p.flask } none 0 (s.journalSlot p.ladle (1 - s.rd .riserSlot p.ladle)) (s.journalEntry p) [] = .ok u) :
    exec (.markRecord id) s = done ((s.withRiser u p).endOk p) := by
  rw [exec_markRecord, execMarkRecord, hp]
  simp only [hop, hst, hc, hput, State.withRiser]
  cases p.heat with
  | none => rfl
  | some hpos => rfl

/-! ### The obligation -/

/-- Settles O59: a MARK runs or waits by its fence alone; its record ends in the state `State.withRiser`, whose riser fields the end of the
pour keeps; and each field of an entry is read behind the parts before it. -/
theorem riserPoints : Obligations.RiserPoints := by
  unfold Obligations.RiserPoints
  refine ⟨?mark, ?record, State.journalEntry_fields⟩
  case mark =>
    intro s id p hp hop hs
    cases hf : s.markFence p with
    | true =>
      refine ⟨_, exec_mark_runs hp hop hs hf, settle_csr _, settle_mem _, ?_⟩
      rw [if_pos rfl, settle_pour?, State.onPour_pour?_found hp rfl]
      rfl
    | false => exact ⟨_, exec_mark_waits hp hf, settle_csr s, settle_mem s, settle_pours s⟩
  case record =>
    intro s u id p hp hop hst hc _ _ hput
    obtain ⟨hslot, hhas, hattempt, hmark⟩ := s.withRiser_riser u p
    refine ⟨_, exec_markRecord_of_put hp hop hst hc hput, ?_, ?_, ?_, ?_, ?_, fun hsilent => ?_⟩
    · rw [settle_rd, State.endOk_rd _ _ _ _ (by decide), hslot]
    · rw [settle_bit, State.bit, State.endOk_rd _ _ _ _ (by decide), hhas]
      rfl
    · rw [settle_rd, State.endOk_rd _ _ _ _ (by decide), hattempt]
    · rw [settle_rd, State.endOk_rd _ _ _ _ (by decide), hmark]
    · rw [settle_pour?, State.endOk_gone]
    · rw [settle_mem, State.endOk_mem_of_silent _ _ hsilent, State.withRiser_mem]

end Sys2Proof.Machine
end

section
/-!
SUPPORT. The boot ROM's check: which bank it may run, and the state that each report of the check leaves; and the settlement of O6 (R909,
R913, R918; log entries 52 and 61).
-/
namespace Sys2Proof.Machine

/-! ### The image that runs -/

/-- A bank runs when its image is valid and no FW_BEGIN has left it marked invalid. -/
theorem State.bankRuns_iff (s : State) (bank : Nat) : s.bankRuns bank = true ↔ bank ∉ s.sec.unverified ∧ s.imageCheck bank = 0 := by
  rw [State.bankRuns, Bool.and_eq_true, decide_eq_true_eq, decide_eq_true_eq]

/-- The state in which the image of a bank has begun to run, as a trial or not: the check is over and the identity keys are derived (R918). -/
def State.runImage (s : State) (bank : Nat) (trial : Bool) : State :=
  { s with
    sec := if trial then s.sec.deriveKeys.setRecord s.sec.preferred none else s.sec.deriveKeys
    start := { s.start with imageRuns := true, runBank := bank, runTrial := trial, tried := [], checkDue := false } }

@[simp] theorem State.runImage_csr (s : State) (bank : Nat) (trial : Bool) : (s.runImage bank trial).csr = s.csr := rfl
@[simp] theorem State.runImage_phase (s : State) (bank : Nat) (trial : Bool) : (s.runImage bank trial).phase = s.phase := rfl
@[simp] theorem State.runImage_start (s : State) (bank : Nat) (trial : Bool) : (s.runImage bank trial).start =
    { s.start with imageRuns := true, runBank := bank, runTrial := trial, tried := [], checkDue := false } := rfl

/-- An image that is not on trial leaves TRIAL as it was. -/
@[simp] theorem State.runImage_keeps_trial (s : State) (bank : Nat) : (s.runImage bank false).sec.trial = s.sec.trial := rfl

/-- After the image that the bank record names first has begun to run no trial stands (R913). -/
theorem State.runImage_clears_trial (s : State) (bank : Nat) : (s.runImage bank s.sec.trial.isSome).sec.trial = none := by
  cases h : s.sec.trial with
  | none => exact (s.runImage_keeps_trial bank).trans h
  | some b => rfl

/-! ### What a report of the check comes to -/

/-- The boot ROM's check of the banks is under way: the part is neither off nor in recovery, and no image runs whose check is over. -/
structure BootRomChecks (s : State) : Prop where
  on : s.phase ≠ .off
  notRecovery : s.phase ≠ .recovery
  due : s.start.imageRuns = false ∨ s.start.checkDue = true

/-- The state in which the check has found neither bank valid. -/
def State.enterRecovery (s : State) : State :=
  { s with phase := .recovery, start := { s.start with imageRuns := false, tried := [], checkDue := false } }

@[simp] theorem State.enterRecovery_csr (s : State) : s.enterRecovery.csr = s.csr := rfl
@[simp] theorem State.enterRecovery_sec (s : State) : s.enterRecovery.sec = s.sec := rfl
@[simp] theorem State.enterRecovery_phase (s : State) : s.enterRecovery.phase = .recovery := rfl
@[simp] theorem State.enterRecovery_imageRuns (s : State) : s.enterRecovery.start.imageRuns = false := rfl

section
variable {s : State} (h : BootRomChecks s)
include h

/-- The first bank is checked while none has been tried, then the other, and then there is none left (R909). -/
theorem BootRomChecks.outcome : exec .bootRomCheckDone s = done (match s.start.tried with
    | [] => if s.bankRuns s.firstBank then s.runImage s.firstBank s.sec.trial.isSome
        else { s with start := { s.start with tried := [s.firstBank] } }
    | b :: _ => if s.bankRuns (1 - b) then s.runImage (1 - b) false else s.enterRecovery) := by
  obtain ⟨hon, hrecovery, hdue⟩ := h
  have hchecks : ¬ ((decide (s.phase = .off) || decide (s.phase = .recovery) || (s.start.imageRuns && !s.start.checkDue)) = true) := by
    rw [decide_eq_false hon, decide_eq_false hrecovery, Bool.false_or, Bool.false_or]
    cases hdue with
    | inl himage => simp only [himage, Bool.false_and, Bool.false_eq_true, not_false_iff]
    | inr hcheck => simp only [hcheck, Bool.not_true, Bool.and_false, Bool.false_eq_true, not_false_iff]
  change execBootRomCheckDone s = _
  rw [execBootRomCheckDone, if_neg hchecks]
  cases htried : s.start.tried <;> rfl

theorem BootRomChecks.firstRuns (ht : s.start.tried = []) (hr : s.bankRuns s.firstBank = true) :
    exec .bootRomCheckDone s = done (s.runImage s.firstBank s.sec.trial.isSome) := by
  simp only [h.outcome, ht, hr, if_true]

theorem BootRomChecks.firstFails (ht : s.start.tried = []) (hr : ¬ s.bankRuns s.firstBank = true) :
    exec .bootRomCheckDone s = done { s with start := { s.start with tried := [s.firstBank] } } := by
  simp only [h.outcome, ht, if_neg hr]

theorem BootRomChecks.secondRuns {b : Nat} (ht : s.start.tried = [b]) (hr : s.bankRuns (1 - b) = true) :
    exec .bootRomCheckDone s = done (s.runImage (1 - b) false) := by
  simp only [h.outcome, ht, hr, if_true]

theorem BootRomChecks.secondFails {b : Nat} (ht : s.start.tried = [b]) (hr : ¬ s.bankRuns (1 - b) = true) :
    exec .bootRomCheckDone s = done s.enterRecovery := by
  simp only [h.outcome, ht, if_neg hr]
end

/-! ### The obligation -/

/-- Settles O6: while the check is under way each report has one of the four outcomes above, by the bank under check and by whether it
may run. -/
theorem bootRomCheck : Obligations.BootRomCheck := by
  unfold Obligations.BootRomCheck
  intro s hon hrecovery hdue
  have h : BootRomChecks s := ⟨hon, hrecovery, hdue⟩
  simp only [← State.bankRuns_iff]
  refine ⟨fun ht => ?first, fun b ht => ?second⟩
  case first =>
    by_cases hr : s.bankRuns s.firstBank = true
    · exact ⟨_, h.firstRuns ht hr, by simp, by simp, fun _ => by simp [State.firstBank, State.runImage_clears_trial], fun hn => absurd hr hn⟩
    · exact ⟨_, h.firstFails ht hr, by simp, by simp, fun hv => absurd hv hr, fun _ => by simp [State.firstBank]⟩
  case second =>
    by_cases hr : s.bankRuns (1 - b) = true
    · exact ⟨_, h.secondRuns ht hr, by simp, by simp, fun _ => by simp, fun hn => absurd hr hn⟩
    · exact ⟨_, h.secondFails ht hr, by simp, by simp, fun hv => absurd hv hr, fun _ => by simp⟩

end Sys2Proof.Machine
end

section
/-!
SUPPORT. The power governor: a bit of PWR_EVENT, the bounds of DUTY, and the three stages of a power measurement; and the settlement of O10
(R949, R955, R956, R972).
-/
namespace Sys2Proof.Machine

/-! ### A bit of PWR_EVENT -/

/-- A bit of PWR_EVENT that sets reads 1 (R972). -/
theorem State.powerEvent_bit (s : State) {k : FKind} (hk : k ≠ .hostIntCause) (hw : k.info.width = 1) : (s.powerEvent k).bit k = true := by
  rw [State.powerEvent, State.cause, State.setBit, State.bit, State.rd_wr_ne _ _ _ _ hk, State.rd_wr_same, hw]
  rfl

/-- A bit of PWR_EVENT that sets changes that bit and HOST_INT_CAUSE only. -/
theorem State.powerEvent_rd_ne (s : State) {k k' : FKind} (j : Nat) (hk : k' ≠ k) (hcause : k' ≠ .hostIntCause) :
    (s.powerEvent k).rd k' j = s.rd k' j := by
  rw [State.powerEvent, State.cause, State.rd_wr_ne _ _ _ _ hcause, State.setBit, State.rd_wr_ne _ _ _ _ hk]

/-! ### Bounds of DUTY -/

theorem State.dutyLimit_le (s : State) : s.dutyLimit ≤ 256 := by
  unfold State.dutyLimit
  split <;> decide

/-- The classes of the compute dies alone decide duty_limit (R956). -/
theorem State.dutyLimit_congr {s t : State} (h : ∀ d, t.rd .dieClass d = s.rd .dieClass d) : t.dutyLimit = s.dutyLimit := by
  simp only [State.dutyLimit, h]

/-- R956 applies in every branch of the governor. -/
theorem governor_le_limit (duty limit cap pIn : Nat) : governor duty limit cap pIn ≤ limit := Nat.min_le_right _ _

/-! ### The stages of a measurement -/

/-- The state in which what was measured is stored (R949). -/
def State.withPowerSample (s : State) (volts amps watts : Nat) : State :=
  ((s.wr .pwrVolts 0 (min volts 65535)).wr .pwrAmps 0 (min amps 65535)).wr .pwrWatts 0 (min watts 65535)

/-- The state after the input voltage is compared with its limits of 46 and 56 V. -/
def State.warnInput (s : State) (volts : Nat) : State :=
  if volts < 4600 || 5600 < volts then s.powerEvent .pwrInputWarn else s

/-- The state in which the governor has set DUTY and, if DUTY fell, GOVERNED. -/
def State.withDuty (s : State) (new : Nat) : State :=
  if new < s.rd .duty then ((s.wr .duty 0 new).powerEvent .pwrGoverned).pulse 2 6 else s.wr .duty 0 new

/-- A sample above the range of its field is stored as the field's largest value. -/
theorem min_field_mod (x : Nat) : min x 65535 % 2 ^ 16 = min x 65535 :=
  Nat.mod_eq_of_lt (Nat.lt_of_le_of_lt (Nat.min_le_right _ _) (by decide))

theorem State.withPowerSample_volts (s : State) (volts amps watts : Nat) :
    (s.withPowerSample volts amps watts).rd .pwrVolts = min volts 65535 := by
  rw [State.withPowerSample, State.rd_wr_ne _ _ _ _ (by decide), State.rd_wr_ne _ _ _ _ (by decide), State.rd_wr_same]
  exact min_field_mod volts

theorem State.withPowerSample_amps (s : State) (volts amps watts : Nat) :
    (s.withPowerSample volts amps watts).rd .pwrAmps = min amps 65535 := by
  rw [State.withPowerSample, State.rd_wr_ne _ _ _ _ (by decide), State.rd_wr_same]
  exact min_field_mod amps

theorem State.withPowerSample_watts (s : State) (volts amps watts : Nat) :
    (s.withPowerSample volts amps watts).rd .pwrWatts = min watts 65535 := by
  rw [State.withPowerSample, State.rd_wr_same]
  exact min_field_mod watts

theorem State.withPowerSample_rd_ne (s : State) (volts amps watts : Nat) {k : FKind} (j : Nat)
    (hvolts : k ≠ .pwrVolts) (hamps : k ≠ .pwrAmps) (hwatts : k ≠ .pwrWatts) :
    (s.withPowerSample volts amps watts).rd k j = s.rd k j := by
  rw [State.withPowerSample, State.rd_wr_ne _ _ _ _ hwatts, State.rd_wr_ne _ _ _ _ hamps, State.rd_wr_ne _ _ _ _ hvolts]

theorem State.warnInput_bit (s : State) {volts : Nat} (h : volts < 4600 ∨ 5600 < volts) : (s.warnInput volts).bit .pwrInputWarn = true := by
  rw [State.warnInput, if_pos (by simpa using h), State.powerEvent_bit s (by decide) rfl]

theorem State.warnInput_rd_ne (s : State) (volts : Nat) {k : FKind} (j : Nat) (hk : k ≠ .pwrInputWarn) (hcause : k ≠ .hostIntCause) :
    (s.warnInput volts).rd k j = s.rd k j := by
  unfold State.warnInput
  split
  · exact s.powerEvent_rd_ne j hk hcause
  · rfl

theorem State.warnInput_only (s : State) (volts : Nat) : ∃ c, s.warnInput volts = { s with csr := c } := by
  unfold State.warnInput
  split
  · exact ⟨_, rfl⟩
  · exact ⟨_, rfl⟩

theorem State.withDuty_duty (s : State) {new : Nat} (hnew : new < 2 ^ 9) : (s.withDuty new).rd .duty = new := by
  have hwritten : (s.wr .duty 0 new).rd .duty = new := (s.rd_wr_same .duty 0 new).trans (Nat.mod_eq_of_lt hnew)
  unfold State.withDuty
  split
  · rw [State.pulse_rd, State.powerEvent_rd_ne _ _ (by decide) (by decide), hwritten]
  · exact hwritten

theorem State.withDuty_governed (s : State) {new : Nat} (hfall : new < s.rd .duty) : (s.withDuty new).bit .pwrGoverned = true := by
  rw [State.withDuty, if_pos hfall, State.bit, State.pulse_rd]
  exact State.powerEvent_bit _ (by decide) rfl

theorem State.withDuty_rd_ne (s : State) (new : Nat) {k : FKind} (j : Nat)
    (hduty : k ≠ .duty) (hgoverned : k ≠ .pwrGoverned) (hcause : k ≠ .hostIntCause) : (s.withDuty new).rd k j = s.rd k j := by
  unfold State.withDuty
  split
  · rw [State.pulse_rd, State.powerEvent_rd_ne _ _ hgoverned hcause, State.rd_wr_ne _ _ _ _ hduty]
  · exact s.rd_wr_ne _ _ _ hduty

/-- A signal of the probe mux that is high for a moment changes what the mux holds only (R1028). -/
theorem State.pulse_only (s : State) (g i : Nat) : ∃ pr, s.pulse g i = { s with probe := pr } := by
  unfold State.pulse
  split
  · exact ⟨_, rfl⟩
  · exact ⟨_, rfl⟩

theorem State.withDuty_only (s : State) (new : Nat) : ∃ c pr, s.withDuty new = { s with csr := c, probe := pr } := by
  unfold State.withDuty
  split
  · obtain ⟨pr, hpulse⟩ := ((s.wr .duty 0 new).powerEvent .pwrGoverned).pulse_only 2 6
    exact ⟨_, pr, hpulse⟩
  · exact ⟨_, _, rfl⟩

/-! ### The whole measurement -/

/-- The DUTY that a measurement of `watts` leads to (R955). -/
def State.nextDuty (s : State) (watts : Nat) : Nat := governor (s.rd .duty) s.dutyLimit (envelopeCap (s.rd .envelope)) watts

/-- The governor's DUTY fits the field. -/
theorem State.nextDuty_lt (s : State) (watts : Nat) : s.nextDuty watts < 2 ^ 9 :=
  calc s.nextDuty watts ≤ s.dutyLimit := governor_le_limit _ _ _ _
    _ ≤ 256 := s.dutyLimit_le
    _ < 2 ^ 9 := by decide

/-- The state after a power measurement, before the outputs are driven. -/
def State.measurePower (s : State) (volts amps watts : Nat) : State :=
  ((s.withPowerSample volts amps watts).warnInput volts).withDuty (s.nextDuty watts)

/-- What a measurement stores and warns of is nothing that the governor reads. -/
theorem State.warnInput_withPowerSample_rd (s : State) (volts amps watts : Nat) {k : FKind} (j : Nat)
    (hk : k ∉ [FKind.pwrVolts, .pwrAmps, .pwrWatts, .pwrInputWarn, .hostIntCause]) :
    ((s.withPowerSample volts amps watts).warnInput volts).rd k j = s.rd k j := by
  simp only [List.mem_cons, List.not_mem_nil, or_false, not_or] at hk
  obtain ⟨hvolts, hamps, hwatts, hwarn, hcause⟩ := hk
  rw [State.warnInput_rd_ne _ _ _ hwarn hcause, State.withPowerSample_rd_ne _ _ _ _ _ hvolts hamps hwatts]

/-- A part that has input power acts on a measurement in the three stages above. -/
theorem exec_powerMeasurement (s : State) (volts amps watts : Nat) (h : s.island = true) :
    exec (.powerMeasurement volts amps watts) s = done (s.measurePower volts amps watts) := by
  have hread {k : FKind} (j : Nat) (hk : k ∉ [FKind.pwrVolts, .pwrAmps, .pwrWatts, .pwrInputWarn, .hostIntCause]) :=
    s.warnInput_withPowerSample_rd volts amps watts j hk
  have hnext : ((s.withPowerSample volts amps watts).warnInput volts).nextDuty watts = s.nextDuty watts := by
    rw [State.nextDuty, hread 0 (by decide), hread 0 (by decide), State.dutyLimit_congr fun d => hread d (by decide)]
    rfl
  have hoff : ¬ (!s.island) = true := by rw [h]; decide
  rw [State.measurePower, ← hnext]
  change execPowerMeasurement volts amps watts s = _
  rw [execPowerMeasurement, if_neg hoff]
  rfl

/-- A measurement touches the register fields and what the probe mux holds only. -/
theorem State.measurePower_only (s : State) (volts amps watts : Nat) :
    ∃ c pr, s.measurePower volts amps watts = { s with csr := c, probe := pr } := by
  obtain ⟨c, hwarn⟩ := (s.withPowerSample volts amps watts).warnInput_only volts
  obtain ⟨c', pr, hduty⟩ := ((s.withPowerSample volts amps watts).warnInput volts).withDuty_only (s.nextDuty watts)
  refine ⟨c', pr, ?_⟩
  rw [State.measurePower, hduty, hwarn]
  rfl

/-! ### The obligation -/

/-- Settles O10: what a field reads after a measurement is what the stage that writes it has written. That DUTY was at most 256 before
is not needed, since duty_limit bounds the new one. -/
theorem powerGovernor : Obligations.PowerGovernor := by
  unfold Obligations.PowerGovernor
  intro s volts amps watts hisland _
  have hwarned (hv : volts < 4600 ∨ 5600 < volts) : (settle (s.measurePower volts amps watts)).bit .pwrInputWarn = true := by
    rw [settle_bit, State.measurePower, State.bit, State.withDuty_rd_ne _ _ _ (by decide) (by decide) (by decide)]
    exact State.warnInput_bit _ hv
  have hsample {k : FKind} (hk : k ∉ [FKind.duty, .pwrGoverned, .hostIntCause, .pwrInputWarn]) :
      (settle (s.measurePower volts amps watts)).rd k = (s.withPowerSample volts amps watts).rd k := by
    simp only [List.mem_cons, List.not_mem_nil, or_false, not_or] at hk
    obtain ⟨hduty, hgoverned, hcause, hwarn⟩ := hk
    rw [settle_rd, State.measurePower, State.withDuty_rd_ne _ _ _ hduty hgoverned hcause, State.warnInput_rd_ne _ _ _ hwarn hcause]
  obtain ⟨c, pr, honly⟩ := s.measurePower_only volts amps watts
  refine ⟨_, exec_powerMeasurement s volts amps watts hisland, ?voltsStored, ?ampsStored, ?wattsStored, ?duty, fun hfall => ?governed,
    fun hlow => hwarned (.inl hlow), fun hhigh => hwarned (.inr hhigh), ?mem, ?pours, ?arrays, ?phase⟩
  case voltsStored => rw [hsample (by decide), State.withPowerSample_volts]
  case ampsStored => rw [hsample (by decide), State.withPowerSample_amps]
  case wattsStored => rw [hsample (by decide), State.withPowerSample_watts]
  case duty =>
    rw [settle_rd, State.measurePower, State.withDuty_duty _ (s.nextDuty_lt watts)]
    rfl
  case governed =>
    rw [settle_bit]
    refine State.withDuty_governed _ ?_
    rw [State.warnInput_withPowerSample_rd _ _ _ _ _ (by decide)]
    exact hfall
  case mem => rw [settle_mem, honly]
  case pours => rw [settle_pours, honly]
  case arrays => rw [settle_arrays, honly]
  case phase => rw [settle_phase, honly]

end Sys2Proof.Machine
end

section
/-!
SUPPORT. The phases of a start-up from STANDBY to RECORD: what a bit of a fence map reads after it is set, what loading the fence table
leaves, and the state that the end of each phase leads to; and the settlement of O7 (R976 to R982, R986, R1006, R1007).
-/
namespace Sys2Proof.Machine

/-! ### A bit of a fence map (R11, R66, R68) -/

/-- The bit of an array in a fence map: a word for each row, a bit for each column. -/
def State.mapBit (s : State) (k : FKind) (a : Nat) : Bool := (s.rd k (arrayY a)).testBit (arrayX a)

theorem State.fenced_eq_mapBit (s : State) (a : Nat) : s.fenced a = s.mapBit .fenceMap a := rfl
theorem State.routeFenced_eq_mapBit (s : State) (a : Nat) : s.routeFenced a = s.mapBit .routeFenceMap a := rfl

/-- A bit of a map depends on its word alone. -/
theorem State.mapBit_congr {s t : State} {k : FKind} {a : Nat} (h : t.rd k (arrayY a) = s.rd k (arrayY a)) : t.mapBit k a = s.mapBit k a :=
  congrArg (Nat.testBit · (arrayX a)) h

/-- The state with the bit of an array set in a fence map. -/
def State.setMapBit (s : State) (k : FKind) (a : Nat) : State := s.wr k (arrayY a) (s.rd k (arrayY a) ||| 1 <<< arrayX a)

theorem arrayX_lt (a : Nat) : arrayX a < 32 := Nat.mod_lt a (by decide)

/-- An array is the one at its column and row. -/
theorem array_eq_iff (a b : Nat) : a = b ↔ arrayY a = arrayY b ∧ arrayX a = arrayX b := by
  unfold arrayY arrayX
  omega

/-- In a word with bit `x` set, cut to `w` bits, the other bits below `w` stand as before. -/
theorem testBit_set_bit_mod {y w : Nat} (v x : Nat) (hy : y < w) : ((v ||| 1 <<< x) % 2 ^ w).testBit y = (v.testBit y || decide (x = y)) := by
  rw [Nat.testBit_mod_two_pow, decide_eq_true hy, Bool.true_and, Nat.testBit_or, Nat.one_shiftLeft, Nat.testBit_two_pow]

/-- Setting the bit of an array in a map of 32 columns sets that bit and no other. -/
theorem State.setMapBit_mapBit (s : State) {k : FKind} (hk : k.info.width = 32) (a b : Nat) :
    (s.setMapBit k a).mapBit k b = (s.mapBit k b || decide (a = b)) := by
  rw [State.mapBit, State.setMapBit, State.rd_wr, hk]
  by_cases hrow : arrayY a = arrayY b
  · rw [if_pos ⟨rfl, hrow.symm⟩, testBit_set_bit_mod _ _ (arrayX_lt b), State.mapBit, hrow]
    simp only [array_eq_iff a b, hrow, true_and]
  · rw [if_neg (fun h => hrow h.2.symm), decide_eq_false (fun h => hrow ((array_eq_iff a b).mp h).1), Bool.or_false]
    rfl

/-! ### Loading the fence table (R986) -/

/-- An entry of the fence table in the registers: the array's bit and its CAUSE. -/
def State.loadFence (s : State) (e : Nat × Nat) : State := (s.setMapBit .fenceMap e.1).wr .fenceCause e.1 e.2

/-- A router fence of the fence table in the registers; CAUSE of an array that is not itself fenced becomes 0x5. -/
def State.loadRouteFence (s : State) (a : Nat) : State :=
  if (s.setMapBit .routeFenceMap a).fenced a then s.setMapBit .routeFenceMap a else (s.setMapBit .routeFenceMap a).wr .fenceCause a 5

theorem State.loadFence_only (s : State) (e : Nat × Nat) : ∃ c, s.loadFence e = { s with csr := c } := ⟨_, rfl⟩

theorem State.loadRouteFence_only (s : State) (a : Nat) : ∃ c, s.loadRouteFence a = { s with csr := c } := by
  unfold State.loadRouteFence
  split <;> exact ⟨_, rfl⟩

theorem State.loadFence_fenced (s : State) (e : Nat × Nat) (b : Nat) : (s.loadFence e).fenced b = (s.fenced b || decide (e.1 = b)) := by
  rw [State.fenced_eq_mapBit, State.fenced_eq_mapBit, ← s.setMapBit_mapBit rfl]
  exact State.mapBit_congr (State.rd_wr_ne _ _ _ _ (by decide))

theorem State.loadRouteFence_routeFenced (s : State) (a b : Nat) : (s.loadRouteFence a).routeFenced b = (s.routeFenced b || decide (a = b)) := by
  rw [State.routeFenced_eq_mapBit, State.routeFenced_eq_mapBit, ← s.setMapBit_mapBit rfl, State.loadRouteFence]
  split
  · rfl
  · exact State.mapBit_congr (State.rd_wr_ne _ _ _ _ (by decide))

theorem State.loadFence_rd (s : State) (e : Nat × Nat) {k : FKind} (hmap : k ≠ .fenceMap) (hcause : k ≠ .fenceCause) (i : Nat) :
    (s.loadFence e).rd k i = s.rd k i := by
  rw [State.loadFence, State.rd_wr_ne _ _ _ _ hcause, State.setMapBit, State.rd_wr_ne _ _ _ _ hmap]

theorem State.loadRouteFence_rd (s : State) (a : Nat) {k : FKind} (hmap : k ≠ .routeFenceMap) (hcause : k ≠ .fenceCause) (i : Nat) :
    (s.loadRouteFence a).rd k i = s.rd k i := by
  have hset : (s.setMapBit .routeFenceMap a).rd k i = s.rd k i := State.rd_wr_ne _ _ _ _ hmap
  rw [State.loadRouteFence]
  split
  · exact hset
  · rw [State.rd_wr_ne _ _ _ _ hcause, hset]

/-- Where each step leaves a test true or makes it true by the element that it marks, the test holds at the end when it held at the start or
some element marks it. -/
theorem foldl_marks {α β : Type} {f : β → α → β} {test : β → Bool} {marks : α → Bool} (hf : ∀ b a, test (f b a) = (test b || marks a))
    (l : List α) (b : β) : test (l.foldl f b) = (test b || l.any marks) := by
  induction l generalizing b with
  | nil => exact (Bool.or_false _).symm
  | cons a l ih => rw [List.foldl_cons, ih, hf, Bool.or_assoc, List.any_cons]

/-- The array fences of the table in the registers. -/
def State.loadArrayFences (s : State) : State := s.contrail.fenced.foldl State.loadFence s

theorem State.loadArrayFences_only (s : State) : ∃ c, s.loadArrayFences = { s with csr := c } :=
  foldl_keeps (fun t : State => ∃ c, t = { s with csr := c }) _ _ _ ⟨_, rfl⟩ fun t e ⟨_, ht⟩ => by
    obtain ⟨c, h⟩ := t.loadFence_only e
    exact ⟨c, by rw [h, ht]⟩

/-- The table's array fences are loaded first, then its router fences. -/
theorem State.loadFences_eq (s : State) : s.loadFences = s.contrail.routeFenced.foldl State.loadRouteFence s.loadArrayFences := by
  obtain ⟨c, h⟩ := s.loadArrayFences_only
  have hcontrail : s.loadArrayFences.contrail = s.contrail := by rw [h]
  rw [← hcontrail]
  rfl

/-- Loading the table touches the register fields only. -/
theorem State.loadFences_only (s : State) : ∃ c, s.loadFences = { s with csr := c } := by
  rw [s.loadFences_eq]
  refine foldl_keeps (fun t : State => ∃ c, t = { s with csr := c }) _ _ _ s.loadArrayFences_only fun t a ⟨_, ht⟩ => ?_
  obtain ⟨c, h⟩ := t.loadRouteFence_only a
  exact ⟨c, by rw [h, ht]⟩

theorem State.loadFences_contrail (s : State) : s.loadFences.contrail = s.contrail := by
  obtain ⟨c, h⟩ := s.loadFences_only
  rw [h]

/-- Of the register fields the two maps and the causes alone change. -/
theorem State.loadFences_rd (s : State) {k : FKind} (hmap : k ≠ .fenceMap) (hroute : k ≠ .routeFenceMap) (hcause : k ≠ .fenceCause) (i : Nat) :
    s.loadFences.rd k i = s.rd k i := by
  rw [s.loadFences_eq]
  refine foldl_keeps (fun t : State => t.rd k i = s.rd k i) _ _ _ ?_ fun t a ht => (t.loadRouteFence_rd a hroute hcause i).trans ht
  exact foldl_keeps (fun t : State => t.rd k i = s.rd k i) _ _ _ rfl fun t e ht => (t.loadFence_rd e hmap hcause i).trans ht

/-- The arrays fenced after the table is loaded are those fenced before and those it lists. -/
theorem State.loadFences_fenced (s : State) (b : Nat) : s.loadFences.fenced b = (s.fenced b || s.contrail.fenced.any (fun e => decide (e.1 = b))) := by
  have hroutes (t : State) (a : Nat) : (t.loadRouteFence a).fenced b = t.fenced b :=
    State.mapBit_congr (t.loadRouteFence_rd a (by decide) (by decide) _)
  rw [s.loadFences_eq, State.loadArrayFences, ← foldl_marks (test := (State.fenced · b)) (fun t e => t.loadFence_fenced e b)]
  exact foldl_keeps (fun t : State => t.fenced b = s.loadArrayFences.fenced b) _ _ _ rfl fun t a ht => (hroutes t a).trans ht

/-- The routers fenced after the table is loaded are those fenced before and those it lists. -/
theorem State.loadFences_routeFenced (s : State) (b : Nat) :
    s.loadFences.routeFenced b = (s.routeFenced b || s.contrail.routeFenced.any (fun a => decide (a = b))) := by
  have harrays : s.loadArrayFences.routeFenced b = s.routeFenced b :=
    foldl_keeps (fun t : State => t.routeFenced b = s.routeFenced b) _ _ _ rfl fun t e ht =>
      (State.mapBit_congr (t.loadFence_rd e (by decide) (by decide) _)).trans ht
  rw [s.loadFences_eq, foldl_marks (test := (State.routeFenced · b)) (fun t a => t.loadRouteFence_routeFenced a b), harrays]

theorem State.loadFences_fences_listed (s : State) {e : Nat × Nat} (he : e ∈ s.contrail.fenced) : s.loadFences.fenced e.1 = true := by
  rw [s.loadFences_fenced, List.any_eq_true.mpr ⟨e, he, decide_eq_true rfl⟩, Bool.or_true]

theorem State.loadFences_routeFences_listed (s : State) {a : Nat} (ha : a ∈ s.contrail.routeFenced) : s.loadFences.routeFenced a = true := by
  rw [s.loadFences_routeFenced, List.any_eq_true.mpr ⟨a, ha, decide_eq_true rfl⟩, Bool.or_true]

/-! ### A phase that fails (R1006, R1007) -/

@[simp] theorem State.failStart_phase (s : State) (cause : Nat) : (s.failStart cause).phase = .failed := by
  rw [State.failStart, State.contrailAdd_phase]

theorem State.failStart_failCause (s : State) {cause : Nat} (h : cause < 16) : (s.failStart cause).rd .failCause = cause := by
  rw [State.failStart, State.contrailAdd_rd _ _ _ _ _ _ _ (by decide)]
  exact (State.rd_wr_same _ _ _ _).trans (Nat.mod_eq_of_lt h)

/-- A command that ends in a failed phase leaves the part in FAILED, with the phase's FAIL_CAUSE. -/
theorem State.failStart_outcome (s : State) {cause : Nat} (h : cause < 16) :
    ∃ t, (done (s.failStart cause) : Host.Outcome State Fault Refusal) = .next t ∧ t.phase = .failed ∧ t.rd .failCause = cause :=
  ⟨_, rfl, by rw [settle_phase, s.failStart_phase], by rw [settle_rd, s.failStart_failCause h]⟩

/-! ### The ends of the phases (R976 to R982) -/

/-- The state in which POWER has begun. -/
def State.enterPower (s : State) : State := { s with phase := .power, start := { s.start with startTaken := false } }

/-- What lets a part out of STANDBY: a START, or a start-up that waits for none, with HOLD and STRAP_3 at 0 (R977, R978). -/
def State.MayStart (s : State) : Prop :=
  s.start.startTaken = true
    ∨ (s.start.needStart = false ∧ bits (itemOf s.contrail.stored 3) 0 1 = 0 ∧ s.pins.straps.getLsbD 3 = false)

theorem exec_startCondition {s : State} (hphase : s.phase = .standby) (himage : s.start.imageRuns = true) (hvin : s.pins.vin50 = true)
    (hstart : s.MayStart) : exec .startCondition s = done s.enterPower := by
  change execStartCondition s = _
  refine congrArg done (if_pos ?_)
  obtain htaken | ⟨hneed, hhold, hstrap⟩ := hstart
  · simp only [hphase, himage, hvin, htaken, decide_true, Bool.and_true, Bool.true_or]
  · simp only [hphase, himage, hvin, hneed, hhold, hstrap, decide_true, Bool.and_true, Bool.not_false, Bool.or_true]

/-- The state in which compute power is good. -/
def State.raisePwrGood (s : State) : State := { s with pins := { s.pins with pwrGood := true } }

/-- The state in which compute power has failed to come up: back in STANDBY, which waits for a START. -/
def State.failPower (s : State) : State :=
  { s.wr .failCause 0 5 with phase := .standby, start := { s.start with needStart := true, startTaken := false } }

theorem State.failPower_failCause (s : State) : s.failPower.rd .failCause = 5 := s.rd_wr_same .failCause 0 5

theorem exec_powerPhaseEnd_good {s : State} (hphase : s.phase = .power) (hgood : s.pins.pwrGood = false) :
    exec (.powerPhaseEnd true) s = done (if s.pins.perstN then s.raisePwrGood.enterIdentity else s.raisePwrGood) := by
  change execPowerPhaseEnd true s = _
  rw [execPowerPhaseEnd, if_neg (by simp [hphase, hgood])]
  rfl

theorem exec_powerPhaseEnd_bad {s : State} (hphase : s.phase = .power) (hgood : s.pins.pwrGood = false) :
    exec (.powerPhaseEnd false) s = done s.failPower := by
  change execPowerPhaseEnd false s = _
  rw [execPowerPhaseEnd, if_neg (by simp [hphase, hgood])]
  rfl

/-- The state in which the fuses have been read and the identity keys derived, and RECORD begins (R918). -/
def State.enterRecord (s : State) : State :=
  { s.wr .hostOrder 0 (if s.part1024 then 1 else 0) with phase := .record, sec := s.sec.deriveKeys }

theorem State.enterRecord_rd (s : State) {k : FKind} (hk : k ≠ .hostOrder) (i : Nat) : s.enterRecord.rd k i = s.rd k i :=
  State.rd_wr_ne s 0 i _ hk

theorem exec_identityPhaseEnd {s : State} (hphase : s.phase = .identity) (ok : Bool) :
    exec (.identityPhaseEnd ok) s = done (if ok then s.enterRecord else s.failStart 1) := by
  change execIdentityPhaseEnd ok s = _
  rw [execIdentityPhaseEnd, if_neg (not_not_intro hphase)]
  rfl

/-- The state in which the fence table is loaded and SELFTEST begins. -/
def State.enterSelftest (s : State) : State := { s.loadFences with phase := .selftest }

theorem exec_recordPhaseEnd {s : State} (hphase : s.phase = .record) (ok : Bool) :
    exec (.recordPhaseEnd ok) s = done (if ok then s.enterSelftest else s.failStart 2) := by
  change execRecordPhaseEnd ok s = _
  rw [execRecordPhaseEnd, if_neg (not_not_intro hphase)]
  rfl

/-! ### The obligation -/

/-- Settles O7: each phase ends in the state named above for it; in RECORD the fence table is loaded, an array of which is fenced when it
was or the table lists it. -/
theorem startupThroughRecord : Obligations.StartupThroughRecord := by
  unfold Obligations.StartupThroughRecord
  refine ⟨fun s hphase himage hvin hstart => ?standby, fun s hphase hgood => ?power, fun s hphase => ?identity, fun s hphase => ?record⟩
  case standby =>
    exact ⟨_, exec_startCondition hphase himage hvin hstart, settle_phase _, by rw [settle_start, State.enterPower], settle_csr _, settle_sec _⟩
  case power =>
    rw [exec_powerPhaseEnd_good hphase hgood, exec_powerPhaseEnd_bad hphase hgood]
    refine ⟨fun hperst => ?_, fun hperst => ?_, _, rfl, settle_phase _, ?_, by rw [settle_start, State.failPower]⟩
    · rw [if_pos hperst]
      exact ⟨_, rfl, settle_phase _, settle_pwrGood _, by rw [settle_start]; rfl, settle_csr _⟩
    · rw [if_neg (by rw [hperst]; decide)]
      exact ⟨_, rfl, (settle_phase _).trans hphase, settle_pwrGood _, settle_csr _⟩
    · rw [settle_rd, s.failPower_failCause]
  case identity =>
    rw [exec_identityPhaseEnd hphase, exec_identityPhaseEnd hphase]
    refine ⟨⟨_, rfl, settle_phase _, settle_sec _, fun k i hk => ?_⟩, s.failStart_outcome (by decide)⟩
    exact (settle_rd _ k i).trans (s.enterRecord_rd hk i)
  case record =>
    rw [exec_recordPhaseEnd hphase, exec_recordPhaseEnd hphase]
    refine ⟨⟨_, rfl, settle_phase _, (settle_contrail _).trans s.loadFences_contrail, fun e he => ?_, fun a ha => ?_,
      fun k i hmap hroute hcause => ?_⟩, s.failStart_outcome (by decide)⟩
    · exact (State.mapBit_congr (settle_rd _ _ _)).trans (s.loadFences_fences_listed he)
    · exact (State.mapBit_congr (settle_rd _ _ _)).trans (s.loadFences_routeFences_listed ha)
    · exact (settle_rd _ k i).trans (s.loadFences_rd hmap hroute hcause i)

end Sys2Proof.Machine
end

section
/-!
SUPPORT. The contrail record, its windows, SEC_BUF and the secure commands that read and clear the record or run the traffic generators: what
each leaves; and the settlement of O32 (R937 to R941, R1010 to R1025, R1037 to R1041).
-/
namespace Sys2Proof.Machine

/-! ### Writing an entry (R1010, R1017 to R1019) -/

/-- An entry goes to the first-fault region as well as to its ring slot. -/
def State.copiesEntry (s : State) (e : CtEvent) : Bool := firstFaultKind e.kind && decide (s.contrail.ffCount < firstSlots)

/-- The bytes of an entry that is written now. -/
def State.entryBytes (s : State) (e : CtEvent) : List Byte := e.bytes s.contrail.nextSeq (s.copiesEntry e)

/-- The record after an entry is written. -/
theorem State.writeEntry_contrail (s : State) (e : CtEvent) : (s.writeEntry e).contrail = { s.contrail with
    nextSeq := s.contrail.nextSeq + 1
    ring := Sp.put s.contrail.ring ((s.contrail.nextSeq.toNat - 1) % ringSlots) (s.entryBytes e)
    newestFault := if firstFaultKind e.kind then s.entryBytes e else s.contrail.newestFault
    first := if s.copiesEntry e then Sp.put s.contrail.first s.contrail.ffCount (s.entryBytes e) else s.contrail.first
    ffCount := if s.copiesEntry e then s.contrail.ffCount + 1 else s.contrail.ffCount } := by
  have hwrite : s.writeEntry e = if s.copiesEntry e then _ else _ := rfl
  rw [hwrite]
  split <;> rfl

theorem State.writeEntry_ffNew {s : State} {e : CtEvent} (h : s.copiesEntry e = true) : (s.writeEntry e).bit .ffNew = true := by
  have hwrite : s.writeEntry e = if s.copiesEntry e then _ else _ := rfl
  rw [hwrite, if_pos h, State.setBit, State.bit, State.rd_wr_same]
  rfl

/-- The state in which the oldest waiting entry has been taken and `r` wait. -/
def State.tookEntry (s : State) (r : List CtEvent) : State := { s with contrail := { s.contrail with queue := r } }

theorem exec_contrailEntryWrite {s : State} {e : CtEvent} {r : List CtEvent} (hlost : s.contrail.lostDue = 0)
    (hqueue : s.contrail.queue = e :: r) : exec .contrailEntryWrite s = done ((s.tookEntry r).writeEntry e) := by
  have hexec : exec .contrailEntryWrite s = execContrailEntryWrite s := rfl
  rw [hexec, execContrailEntryWrite, if_neg (not_not_intro hlost), hqueue]
  rfl

/-- An entry that finds room waits behind the others. -/
theorem State.contrailAdd_contrail_of_room {s : State} (hroom : s.contrail.queue.length < 1024) (kind flask code : Nat) (arg : List Byte) :
    ∃ e : CtEvent, e.kind = kind
      ∧ (s.contrailAdd kind flask code arg).contrail = { s.contrail with queue := s.contrail.queue ++ [e] } := by
  rw [State.contrailAdd, if_pos hroom]
  exact ⟨_, rfl, rfl⟩

/-! ### Windows (R1022 to R1025) -/

/-- A message sent by a command is among those sent since. -/
theorem mem_drop_settle_out {s t : State} {m : HostMsg} (h : t.host.out = s.host.out ++ [m]) :
    m ∈ (settle t).host.out.drop s.host.out.length := by
  obtain ⟨later, hlater⟩ := settle_out_prefix t
  rw [← hlater, h, List.append_assoc, List.drop_left]
  exact List.mem_append_left _ (List.mem_singleton_self m)

section
variable {s : State}

theorem exec_ctSelWrite_bar0 (value : Word32) (hup : s.bar0Up = true) : exec (.ctSelWrite false value) s
    = done { (s.wr .ctSlot 0 (bits value.toNat 0 19)).wr .ctRegion 0 (bits value.toNat 31 1) with
        contrail := { s.contrail with latch := s.contrail.slot (bits value.toNat 31 1) (bits value.toNat 0 19) } } := by
  have hexec : exec (.ctSelWrite false value) s = execCtSelWrite false value s := rfl
  rw [hexec, execCtSelWrite, if_neg Bool.false_ne_true, if_pos hup]

theorem exec_ctSelWrite_mgmt (value : Word32) (hisland : s.island = true) : exec (.ctSelWrite true value) s
    = done { (s.wr .mgtCtSlot 0 (bits value.toNat 0 19)).wr .mgtCtRegion 0 (bits value.toNat 31 1) with
        contrail := { s.contrail with mgtLatch := s.contrail.slot (bits value.toNat 31 1) (bits value.toNat 0 19), mgtPtr := 0 } } := by
  have hexec : exec (.ctSelWrite true value) s = execCtSelWrite true value s := rfl
  rw [hexec, execCtSelWrite, if_pos rfl, if_pos hisland]

theorem exec_ctDataRead (hisland : s.island = true) : exec .ctDataRead s
    = done { s.send (.data ((s.contrail.mgtLatch.drop s.contrail.mgtPtr).take 4) false) with
        contrail := { s.contrail with mgtPtr := (s.contrail.mgtPtr + 4) % 128 } } := by
  have hexec : exec .ctDataRead s = execCtDataRead s := rfl
  rw [hexec, execCtDataRead, if_pos hisland]

end

/-! ### SEC_BUF (R937, R938) -/

/-- A buffer of 32 KiB with bytes stored from an offset and a number of places on. -/
def bufStore (off n : Nat) (l : List Byte) (b : Sp Byte) : Sp Byte :=
  (l.zipIdx n).foldl (fun b e => Sp.put b ((off + e.2) % 32768) e.1) b

theorem State.bufPut_buf (s : State) (off : Nat) (l : List Byte) : (s.bufPut off l).sec.buf = bufStore off 0 l s.sec.buf := rfl

theorem bufStore_cons (off n : Nat) (x : Byte) (l : List Byte) (b : Sp Byte) :
    bufStore off n (x :: l) b = bufStore off (n + 1) l (Sp.put b ((off + n) % 32768) x) := rfl

/-- A place where no byte is stored keeps its byte. -/
theorem get?_bufStore_out {off n k : Nat} {l : List Byte} (h : ∀ j < l.length, (off + (n + j)) % 32768 ≠ k) (b : Sp Byte) :
    Sp.get? (bufStore off n l b) k = Sp.get? b k := by
  induction l generalizing n b with
  | nil => rfl
  | cons x l ih =>
    have hlater : ∀ j < l.length, (off + (n + 1 + j)) % 32768 ≠ k := fun j hj => by
      have := h (j + 1) (Nat.succ_lt_succ hj)
      rwa [Nat.add_right_comm n 1 j]
    exact (ih hlater _).trans (Sp.get?_put_ne _ _ (h 0 (Nat.succ_pos _)).symm)

/-- No more bytes than the buffer holds are read back, each at its place. -/
theorem get?_bufStore {off n i : Nat} {l : List Byte} (hi : i < l.length) (hfits : l.length ≤ 32768) (b : Sp Byte) :
    Sp.get? (bufStore off n l b) ((off + (n + i)) % 32768) = l[i]? := by
  induction l generalizing n i b with
  | nil => exact absurd hi (Nat.not_lt_zero i)
  | cons x l ih =>
    rw [List.length_cons] at hi hfits
    rw [bufStore_cons]
    cases i with
    | zero => rw [get?_bufStore_out (fun j hj => by omega), Nat.add_zero, Sp.get?_put_same, List.getElem?_cons_zero]
    | succ i =>
      rw [List.getElem?_cons_succ, ← ih (n := n + 1) (Nat.lt_of_succ_lt_succ hi) (by omega), Nat.add_right_comm n 1 i]
      rfl

/-- The state in which BUF_PTR has advanced by one word. -/
def State.advanceBufPtr (s : State) (p : Nat) : State := s.wr .bufPtr 0 ((p + 4) % 32768)

theorem State.advanceBufPtr_bufPtr (s : State) (p : Nat) : (s.advanceBufPtr p).rd .bufPtr = (p + 4) % 32768 :=
  (s.rd_wr_same _ _ _).trans (Nat.mod_eq_of_lt (Nat.mod_lt _ (by decide)))

theorem exec_bufDataAccess_write {s : State} (value : Word32) (hisland : s.island = true) : exec (.bufDataAccess (some value)) s
    = done ((s.bufPut (s.rd .bufPtr) (leBytes value.toNat 4)).advanceBufPtr (s.rd .bufPtr)) := by
  have hexec : exec (.bufDataAccess (some value)) s = execBufDataAccess (some value) s := rfl
  rw [hexec, execBufDataAccess, if_pos hisland]
  rfl

theorem exec_bufDataAccess_read {s : State} (hisland : s.island = true) : exec (.bufDataAccess none) s
    = done ((s.send (.data (s.bufBytes (s.rd .bufPtr) 4) false)).advanceBufPtr (s.rd .bufPtr)) := by
  have hexec : exec (.bufDataAccess none) s = execBufDataAccess none s := rfl
  rw [hexec, execBufDataAccess, if_pos hisland]
  rfl

/-! ### Running a secure command of PF1 (R936, R939 to R941) -/

/-- A secure command with its result, as MBOX_COMMAND_END will publish it. -/
def BoxCmd.answer (c : BoxCmd) (r : CmdResult) : BoxCmd :=
  { c with done := true, rc := r.1, resp := r.2.1.map (fun e => (e.1, BitVec.ofNat 32 e.2)) }

/-- The state in which a secure command of PF1 has run with a result: one that ended OK stands in the event chain (R926). -/
def BoxCmd.ranWith (c : BoxCmd) (r : CmdResult) : State :=
  let t := if r.1 = 0 then r.2.2.chain (0x100 + c.cmd) (c.d 0) else r.2.2
  { t with mbox := { t.mbox with secRunning := some (c.answer r), secLast := 0 } }

/-- A command of PF1 that is taken, is accepted from PF1 and carries no bit outside its fields runs. -/
theorem State.runSecure_of_takes {s : State} {code : Nat} {c : BoxCmd} {m rec : Bool} {fields : List (Nat × Nat)}
    {f : BoxCmd → State → CmdResult} (h : TakesSecure s .secPf1 code c)
    (hfields : ∀ e ∈ fields, c.d e.1 &&& (2 ^ 32 - 1 - e.2) = 0) :
    s.runSecure .secPf1 code true m rec fields f = c.ranWith (f c s) := by
  obtain ⟨hnext, hsender, rfl, hrecovery, hlifecycle⟩ := h
  have hany : ¬fields.any (fun e => c.d e.1 &&& (2 ^ 32 - 1 - e.2) ≠ 0) = true := by
    simpa using fun a b he => hfields (a, b) he
  have hnotRetired : ¬(decide (s.sec.lifecycle = 0xF) && decide (c.cmd ≠ 0x01)) = true := by simp [hlifecycle]
  have hsource : ¬(!(if Box.secPf1 = Box.secPf1 then true else m)) = true := by simp
  rw [State.runSecure, hnext]
  dsimp only
  rw [if_neg (by simp [hsender, hrecovery]), if_neg hnotRetired, if_neg hsource, if_neg hany]
  rfl

section
variable (c : BoxCmd) (r : CmdResult)

theorem BoxCmd.ranWith_secRunning : (c.ranWith r).mbox.secRunning = some (c.answer r) := rfl

theorem BoxCmd.ranWith_csr : (c.ranWith r).csr = r.2.2.csr := by
  unfold BoxCmd.ranWith; split <;> rfl
theorem BoxCmd.ranWith_mem : (c.ranWith r).mem = r.2.2.mem := by
  unfold BoxCmd.ranWith; split <;> rfl
theorem BoxCmd.ranWith_contrail : (c.ranWith r).contrail = r.2.2.contrail := by
  unfold BoxCmd.ranWith; split <;> rfl
theorem BoxCmd.ranWith_tgen : (c.ranWith r).tgen = r.2.2.tgen := by
  unfold BoxCmd.ranWith; split <;> rfl
theorem BoxCmd.ranWith_buf : (c.ranWith r).sec.buf = r.2.2.sec.buf := by
  unfold BoxCmd.ranWith; split <;> rfl

/-- Once a command has run, it waits with its answer. -/
theorem BoxCmd.ranWith_settled : (settle (c.ranWith r)).mbox.secRunning = some (c.answer r) := by
  rw [settle_mbox, BoxCmd.ranWith_secRunning]

theorem BoxCmd.ranWith_okCmd_answered (t : State) (resp : List (Nat × Nat)) : AnsweredSecure (settle (c.ranWith (okCmd t resp))) c resp :=
  c.ranWith_settled _

end

/-! ### CONTRAIL_CLEAR and CONTRAIL_READ (R1020, R1021, R1037) -/

/-- The state in which the first-fault region is empty, and the entry that says so is queued. -/
def State.clearFirstFaults (s : State) : State :=
  ({ s with contrail := { s.contrail with first := [], ffCount := 0, newestFault := [] } }).contrailAdd 0x0C 0 0
    (leBytes s.contrail.ffCount 4)

/-- Where no other entry waits, the one that says so is the only one to wait. -/
theorem State.clearFirstFaults_contrail (s : State) (hqueue : s.contrail.queue = []) : ∃ e : CtEvent, e.kind = 0x0C
    ∧ s.clearFirstFaults.contrail = { s.contrail with first := [], ffCount := 0, newestFault := [], queue := [e] } := by
  obtain ⟨e, hkind, hcontrail⟩ := State.contrailAdd_contrail_of_room
    (s := { s with contrail := { s.contrail with first := [], ffCount := 0, newestFault := [] } }) (by simp [hqueue]) 0x0C 0 0
    (leBytes s.contrail.ffCount 4)
  exact ⟨e, hkind, by rw [State.clearFirstFaults, hcontrail, hqueue]; rfl⟩

/-- What CONTRAIL_CLEAR comes to: the request names the newest first-fault entry by its SEQ and its CRC. -/
def BoxCmd.clearResult (c : BoxCmd) (s : State) : CmdResult :=
  if s.contrail.ffCount = 0 || s.contrail.queue.any (fun e => firstFaultKind e.kind)
      || leNat (s.contrail.newestFault.take 8) ≠ c.d2 0 || leNat ((s.contrail.newestFault.drop 124).take 4) ≠ c.d 2 then failCmd s secBadArg
  else okCmd s.clearFirstFaults

section
variable {s : State} {c : BoxCmd}

theorem exec_contrailClear (h : TakesSecure s .secPf1 0x0D c) : exec (.contrailClear .secPf1) s = done (c.ranWith (c.clearResult s)) :=
  congrArg done (State.runSecure_of_takes (f := BoxCmd.clearResult) h (by simp))

theorem BoxCmd.clearResult_named (hcount : s.contrail.ffCount ≠ 0) (hqueue : s.contrail.queue = [])
    (hseq : leNat (s.contrail.newestFault.take 8) = c.d2 0) (hcrc : leNat ((s.contrail.newestFault.drop 124).take 4) = c.d 2) :
    c.clearResult s = okCmd s.clearFirstFaults := by
  rw [BoxCmd.clearResult, if_neg (by simp [hcount, hqueue, hseq, hcrc])]

theorem BoxCmd.clearResult_unnamed (h : s.contrail.ffCount = 0 ∨ leNat (s.contrail.newestFault.take 8) ≠ c.d2 0
    ∨ leNat ((s.contrail.newestFault.drop 124).take 4) ≠ c.d 2) : c.clearResult s = failCmd s secBadArg := by
  refine if_pos ?_
  obtain hzero | hseq | hcrc := h
  · rw [decide_eq_true hzero, Bool.true_or, Bool.true_or, Bool.true_or]
  · rw [decide_eq_true hseq, Bool.or_true, Bool.true_or]
  · rw [decide_eq_true hcrc, Bool.or_true]

/-- The entries that CONTRAIL_READ copies. -/
def BoxCmd.readEntries (c : BoxCmd) (s : State) : List (List Byte) :=
  (List.range (c.d 1)).map (fun i => s.contrail.slot (bits (c.d 0) 31 1) (bits (c.d 0) 0 19 + i))

/-- A read of one entry copies the slot that the request names. -/
theorem BoxCmd.readEntries_one (hone : c.d 1 = 1) :
    (c.readEntries s).flatten = s.contrail.slot (bits (c.d 0) 31 1) (bits (c.d 0) 0 19) := by
  rw [BoxCmd.readEntries, hone]
  exact List.append_nil _

theorem exec_contrailRead (h : TakesSecure s .secPf1 0x12 c) (hfields : c.d 0 &&& 0x7FF80000 = 0) (hpos : 0 < c.d 1) (hmax : c.d 1 ≤ 256) :
    exec (.contrailRead .secPf1) s = done (c.ranWith (okCmd (s.bufPut 0 (c.readEntries s).flatten) [(0, c.d 1)])) := by
  have hexec : exec (.contrailRead .secPf1) s = execContrailRead .secPf1 s := rfl
  rw [hexec, execContrailRead, State.runSecure_of_takes h (by simpa using hfields)]
  have hcount : ¬(decide (c.d 1 = 0) || decide (256 < c.d 1)) = true := by
    rw [decide_eq_false (Nat.ne_of_gt hpos), decide_eq_false (Nat.not_lt.mpr hmax)]
    decide
  dsimp only
  rw [if_neg hcount]
  rfl

/-! ### The traffic generators (R1037 to R1041) -/

/-- A number of `n` bits has none in common with a mask that begins at bit `n`. -/
theorem and_shiftLeft_of_lt {x n : Nat} (h : x < 2 ^ n) (k : Nat) : x &&& k <<< n = 0 := by
  apply Nat.eq_of_testBit_eq
  intro i
  rw [Nat.testBit_and, Nat.testBit_shiftLeft, Nat.zero_testBit]
  by_cases hi : n ≤ i
  · rw [Nat.testBit_lt_two_pow (Nat.lt_of_lt_of_le h (Nat.pow_le_pow_right (by decide) hi)), Bool.false_and]
  · rw [decide_eq_false hi, Bool.false_and, Bool.and_false]

/-- A run over stacks that the part may test leaves every word of the pattern area undefined, whatever it found. -/
theorem exec_tgenRun_tests (results : List ChannelTest) (h : TakesSecure s .secPf1 0x10 c) (hfields : c.d 0 < 0x40000)
    (hready : s.ready = true) (hidle : s.flaskActive = false) (hchosen : bitList (c.d 0) 16 ≠ []) (hpos : 0 < c.d 2)
    (hmax : c.d 2 ≤ s.stackGiB * 16) : ∃ (t : State) (resp : List (Nat × Nat)),
      t.mem = (s.forgetWhere (s.tested (bitList (c.d 0) 16) (c.d 2))).mem
      ∧ exec (.tgenRun .secPf1 results) s = done (c.ranWith (okCmd t resp)) := by
  have hexec : exec (.tgenRun .secPf1 results) s = execTgenRun .secPf1 results s := rfl
  have hmask : c.d 0 &&& (2 ^ 32 - 1 - 0xFFFFF) = 0 := and_shiftLeft_of_lt (n := 20) (by omega) 0xFFF
  have hpattern : bits (c.d 0) 16 4 < 4 := by
    rw [bits, Nat.shiftRight_eq_div_pow]
    omega
  have hrequest : ¬(decide (bitList (c.d 0) 16 = []) || decide (4 ≤ bits (c.d 0) 16 4) || decide (c.d 2 = 0)
      || decide (s.stackGiB * 16 < c.d 2)) = true := by
    rw [decide_eq_false hchosen, decide_eq_false (Nat.not_le.mpr hpattern), decide_eq_false (Nat.ne_of_gt hpos),
      decide_eq_false (Nat.not_lt.mpr hmax)]
    decide
  rw [hexec, execTgenRun, State.runSecure_of_takes h (by simpa using hmask)]
  dsimp only
  rw [if_neg (by simp [hready]), if_neg (by simp [hidle]), if_neg hrequest]
  refine ⟨_, _, ?_, rfl⟩
  exact foldl_keeps (fun t : State => t.mem = _) _ _ _ rfl fun t st ht => ht

theorem exec_tgenRun_active (results : List ChannelTest) (h : TakesSecure s .secPf1 0x10 c) (hfields : c.d 0 < 0x100000)
    (hready : s.ready = true) (hactive : s.flaskActive = true) :
    exec (.tgenRun .secPf1 results) s = done (c.ranWith (failCmd s secFlaskActive)) := by
  have hexec : exec (.tgenRun .secPf1 results) s = execTgenRun .secPf1 results s := rfl
  have hmask : c.d 0 &&& (2 ^ 32 - 1 - 0xFFFFF) = 0 := and_shiftLeft_of_lt (n := 20) hfields 0xFFF
  rw [hexec, execTgenRun, State.runSecure_of_takes h (by simpa using hmask)]
  dsimp only
  rw [if_neg (by simp [hready]), if_pos hactive]

theorem exec_tgenResult (h : TakesSecure s .secPf1 0x11 c) (hfields : c.d 0 < 16) :
    let r := Sp.getD s.tgen (c.d 0) (0, 0, 0)
    exec (.tgenResult .secPf1) s = done (c.ranWith (okCmd s [(0, r.1), (1, r.1 >>> 32), (2, r.2.1), (3, r.2.2)])) := by
  have hexec : exec (.tgenResult .secPf1) s = execTgenResult .secPf1 s := rfl
  have hmask : c.d 0 &&& (2 ^ 32 - 1 - 0xF) = 0 := and_shiftLeft_of_lt (n := 4) hfields 0xFFFFFFF
  rw [hexec, execTgenResult, State.runSecure_of_takes h (by simpa using hmask)]

/-- A cell is left exactly when the test does not hold of it. -/
theorem State.mem_forgetWhere_cells (test : Nat → Bool) (e : Nat × Byte) :
    e ∈ (s.forgetWhere test).mem.cells ↔ e ∈ s.mem.cells ∧ test e.1 = false := by
  rw [State.forgetWhere, List.mem_filter, Bool.not_eq_true']

end

/-! ### The obligation -/

/-! ### The obligation -/

/-- Settles O32: each command ends in the state named above for it, whose record, windows, buffer, memory and answer the lemmas read. -/
theorem contrailAndTraffic : Obligations.ContrailAndTraffic := by
  unfold Obligations.ContrailAndTraffic
  refine ⟨⟨fun s e r hlost hqueue => ?entry, fun s value hup => ?selectBar0, fun s value hisland => ?selectMgmt, fun s hisland => ?data,
    fun s value hisland => ?bufWrite, fun s hisland => ?bufRead⟩,
    ⟨fun s c h hcount hqueue hseq hcrc => ?clear, fun s c h hother => ?clearRefused, fun s c h hfields hpos hmax => ?read,
      fun s results c h hfields hready hidle hchosen hpos hmax => ?run, fun s results c h hfields hready hactive => ?runRefused,
      fun s c h hfields => ?result⟩⟩
  case entry =>
    refine ⟨_, exec_contrailEntryWrite hlost hqueue, ?_⟩
    rw [settle_contrail, settle_bit, State.writeEntry_contrail]
    refine ⟨rfl, rfl, Sp.get?_put_same _ _ _, fun hcopy => ?_, fun hcopy => ?_, rfl⟩
    · have hcopies : (s.tookEntry r).copiesEntry e = true := hcopy
      rw [if_pos hcopies, if_pos hcopies]
      exact ⟨Sp.get?_put_same _ _ _, rfl, State.writeEntry_ffNew hcopies⟩
    · have hcopies : ¬(s.tookEntry r).copiesEntry e = true := Bool.eq_false_iff.mp hcopy
      rw [if_neg hcopies, if_neg hcopies]
      exact ⟨rfl, rfl⟩
  case selectBar0 =>
    refine ⟨_, exec_ctSelWrite_bar0 value hup, ?_⟩
    rw [settle_contrail, settle_rd]
    exact ⟨rfl, rfl, (State.rd_wr_ne _ _ _ _ (by decide)).trans (State.rd_wr_bits (w := 19) _ _ _ _ rfl)⟩
  case selectMgmt =>
    refine ⟨_, exec_ctSelWrite_mgmt value hisland, ?_⟩
    rw [settle_contrail]
    exact ⟨rfl, rfl, rfl⟩
  case data =>
    refine ⟨_, exec_ctDataRead hisland, mem_drop_settle_out rfl, ?_⟩
    rw [settle_contrail, settle_csr]
    exact ⟨rfl, rfl⟩
  case bufWrite =>
    refine ⟨_, exec_bufDataAccess_write value hisland, ?_⟩
    rw [settle_sec, settle_rd, State.advanceBufPtr_bufPtr]
    refine ⟨fun i hi => ?_, rfl⟩
    have hread := get?_bufStore (off := s.rd .bufPtr) (n := 0) (l := leBytes value.toNat 4) (by simpa using hi) (by simp) s.sec.buf
    rwa [Nat.zero_add] at hread
  case bufRead =>
    refine ⟨_, exec_bufDataAccess_read hisland, ?_⟩
    rw [settle_sec, settle_rd, State.advanceBufPtr_bufPtr]
    exact ⟨rfl, mem_drop_settle_out rfl, rfl⟩
  case clear =>
    refine ⟨_, exec_contrailClear h, ?_⟩
    rw [BoxCmd.clearResult_named hcount hqueue hseq hcrc, settle_contrail, BoxCmd.ranWith_contrail]
    obtain ⟨e, hkind, hcontrail⟩ := s.clearFirstFaults_contrail hqueue
    refine ⟨c.ranWith_okCmd_answered _ _, ?_⟩
    rw [okCmd, hcontrail]
    exact ⟨rfl, rfl, rfl, by rw [List.map_singleton, hkind]⟩
  case clearRefused =>
    refine ⟨_, _, exec_contrailClear h, BoxCmd.ranWith_settled _ _, rfl, ?_⟩
    rw [BoxCmd.clearResult_unnamed hother, settle_contrail, BoxCmd.ranWith_contrail]
    exact ⟨rfl, rfl⟩
  case read =>
    refine ⟨_, exec_contrailRead h hfields hpos hmax, c.ranWith_okCmd_answered _ _, ?_, fun j v hbyte hlen hone => ?_⟩
    · rw [settle_contrail, BoxCmd.ranWith_contrail]
      rfl
    · have hj : j < 128 := hlen ▸ (List.getElem?_eq_some_iff.mp hbyte).1
      have hread := get?_bufStore (off := 0) (n := 0) (hlen.symm ▸ hj) (by omega) s.sec.buf
      rw [Nat.zero_add, Nat.zero_add, Nat.mod_eq_of_lt (by omega), hbyte] at hread
      rw [settle_sec, BoxCmd.ranWith_buf, okCmd, State.bufPut_buf, BoxCmd.readEntries_one hone]
      exact hread
  case run =>
    obtain ⟨t, resp, hmem, hexec⟩ := exec_tgenRun_tests results h hfields hready hidle hchosen hpos hmax
    refine ⟨_, _, hexec, BoxCmd.ranWith_settled _ _, rfl, rfl, ?_⟩
    rw [settle_mem, BoxCmd.ranWith_mem, okCmd, hmem]
    exact ⟨fun e he => (State.mem_forgetWhere_cells _ e).mp he, fun e he hkept => (State.mem_forgetWhere_cells _ e).mpr ⟨he, hkept⟩⟩
  case runRefused =>
    refine ⟨_, _, exec_tgenRun_active results h hfields hready hactive, BoxCmd.ranWith_settled _ _, rfl, rfl, ?_⟩
    rw [settle_mem, settle_tgen, settle_csr, BoxCmd.ranWith_mem, BoxCmd.ranWith_tgen, BoxCmd.ranWith_csr]
    exact ⟨rfl, rfl, rfl⟩
  case result =>
    refine ⟨_, exec_tgenResult h hfields, c.ranWith_okCmd_answered _ _, ?_⟩
    rw [settle_tgen, BoxCmd.ranWith_tgen]
    rfl

end Sys2Proof.Machine
end

section
/-!
SUPPORT. The test access port and the probe mux: which level a land shows under an instruction and which data register it shifts, what a
write of PROBE_CFG leaves; and the settlement of O33 (R1027 to R1036).
-/
namespace Sys2Proof.Machine

/-! ### Lands and data register under an instruction (R1034, R1035) -/

/-- Whether EXTEST, CLAMP and HIGHZ take effect depends on the phase alone, which `settle` keeps. -/
@[simp] theorem settle_scanPhase (s : State) : (settle s).scanPhase = s.scanPhase := by
  rw [State.scanPhase, State.scanPhase, settle_phase]

section
variable {s : State}

/-- Outside OFF, STANDBY and RECOVERY every instruction leaves every land to the part. -/
theorem State.landOut_of_not_scanPhase (hphase : s.scanPhase = false) (land : Nat) : s.landOut land = some (s.ownLevel land) := by
  simp only [State.landOut, hphase, Bool.false_and, Bool.false_eq_true, if_false]

/-- HIGHZ leaves every land floating while it takes effect. -/
theorem State.landOut_highz (hphase : s.scanPhase = true) (hir : s.tap.ir = 0x05) (land : Nat) : s.landOut land = none := by
  have hdrives : ¬(s.scanPhase && (decide (s.tap.ir = 0x03) || decide (s.tap.ir = 0x04))) = true := by rw [hir]; simp
  rw [State.landOut, if_neg hdrives, if_pos (by simp [hphase, hir])]

theorem State.dataReg_extest (hir : s.tap.ir = 0x03) : s.dataReg = if s.scanPhase then s.tap.boundary else s.tap.dr := by
  simp only [State.dataReg, hir, decide_true, Bool.and_true]

/-- Every instruction but EXTEST shifts the register that it selected. -/
theorem State.dataReg_of_ir_ne (hir : s.tap.ir ≠ 0x03) : s.dataReg = s.tap.dr := by
  simp only [State.dataReg, hir, decide_false, Bool.and_false, Bool.false_eq_true, if_false]

end

/-! ### The boundary register (R1036) -/

theorem scanCells_length : scanCells.length = 53 := by decide

theorem State.scanCapture_length (s : State) : s.scanCapture.length = 53 := by
  rw [State.scanCapture, List.length_map, scanCells_length]

/-- As many cells as the boundary register has are loaded as they stand. -/
theorem scanLoad_of_length {cells : List Bool} (h : cells.length = 53) : scanLoad cells = cells := by
  rw [scanLoad, scanCells_length, ← h, List.take_length, padTo, Nat.sub_self, List.replicate_zero, List.append_nil, List.take_length]

/-! ### Instructions -/

theorem State.tapBypass_ir (s : State) (code : Nat) : (s.tapBypass code).tap.ir = BitVec.ofNat 8 code := rfl

/-- EXTEST selects its instruction over the bypass register and keeps the boundary register; what it captures depends on the phase. -/
theorem exec_extest (s : State) : ∃ captured, exec .extest s
    = done { s with tap := { ctrl := .runTestIdle, ir := 0x03, boundary := s.tap.boundary, dr := [false], captured := captured } } := by
  have hexec : exec .extest s = execExtest s := rfl
  rw [hexec, execExtest]
  split <;> exact ⟨_, rfl⟩

/-- An instruction of the range 0x80 to 0xFE is selected with some data register, which is the bypass register unless scope SCAN is open. -/
theorem exec_privateScanInstruction (s : State) (code : Nat) : ∃ dr, (s.unlocked 1 = false → dr = [false])
    ∧ exec (.privateScanInstruction code) s
      = done { s with tap := { s.tap with ctrl := .runTestIdle, ir := BitVec.ofNat 8 code, dr := dr } } := by
  have hexec : exec (.privateScanInstruction code) s = execPrivateScanInstruction code s := rfl
  rw [hexec, execPrivateScanInstruction]
  split
  next hopen =>
    simp only [Bool.and_eq_true] at hopen
    exact ⟨_, fun hclosed => absurd (hopen.2.symm.trans hclosed) (by decide), rfl⟩
  next => exact ⟨_, fun _ => rfl, rfl⟩

/-! ### PROBE_CFG (R1027 to R1032) -/

theorem State.unlocked_eq_true (s : State) (b : Nat) : s.unlocked b = true ↔ s.sec.lifecycle = 3 ∧ s.sec.scope.testBit b := by
  rw [State.unlocked, Bool.and_eq_true, decide_eq_true_eq]

theorem State.unlocked_eq_false (s : State) (b : Nat) : s.unlocked b = false ↔ ¬(s.sec.lifecycle = 3 ∧ s.sec.scope.testBit b) := by
  rw [← s.unlocked_eq_true b, Bool.not_eq_true]

/-- The fields of PROBE_CFG other than the group. -/
def State.probeOthersWritten (s : State) (v : Nat) : State :=
  ((s.wr .probeDiv 0 (bits v 8 2)).wr .probeEnable 0 (bits v 10 1)).wr .probeActFlask 0 (bits v 16 6)

/-- The registers after a write of PROBE_CFG: a group of the restricted range is not selected while scope PROBE is closed. -/
def State.probeCfgWritten (s : State) (v : Nat) : State :=
  if decide (4 ≤ bits v 0 8) && !s.unlocked 0 then (s.probeOthersWritten v).setBit .probeDenied
  else (s.probeOthersWritten v).wr .probeGroup 0 (bits v 0 8)

/-- The probe mux once its registers are those of `t`: what was held for other signals than those selected before is gone (R1027). -/
def State.reselectProbe (s t : State) : State :=
  if t.rd .probeGroup = s.rd .probeGroup && t.rd .probeActFlask = s.rd .probeActFlask then t
  else { t with probe := { t.probe with held := 0 } }

theorem exec_probeCfgWrite {s : State} (value : Word32) (hup : s.bar0Up = true) :
    exec (.probeCfgWrite value) s = done (s.reselectProbe (s.probeCfgWritten value.toNat)) := by
  have hexec : exec (.probeCfgWrite value) s
    = done (if !s.bar0Up then s else s.reselectProbe (s.probeCfgWritten value.toNat)) := rfl
  rw [hexec, if_neg (by simp [hup])]

theorem State.reselectProbe_csr (s t : State) : (s.reselectProbe t).csr = t.csr := by
  rw [State.reselectProbe]
  split <;> rfl

theorem State.reselectProbe_lands (s t : State) : (s.reselectProbe t).probe.lands = t.probe.lands := by
  rw [State.reselectProbe]
  split <;> rfl

theorem State.probeCfgWritten_probe (s : State) (v : Nat) : (s.probeCfgWritten v).probe = s.probe := by
  rw [State.probeCfgWritten]
  split <;> rfl

section
variable (s : State) (v : Nat)

/-- A field that the choice of a group leaves alone reads as the other fields' writes leave it. -/
theorem State.probeCfgWritten_rd {k : FKind} (hdenied : k ≠ .probeDenied) (hgroup : k ≠ .probeGroup) :
    (s.probeCfgWritten v).rd k 0 = (s.probeOthersWritten v).rd k 0 := by
  rw [State.probeCfgWritten]
  split
  · exact State.rd_wr_ne _ _ _ _ hdenied
  · exact State.rd_wr_ne _ _ _ _ hgroup

theorem State.probeOthersWritten_rd {k : FKind} (hdiv : k ≠ .probeDiv) (henable : k ≠ .probeEnable) (hact : k ≠ .probeActFlask) :
    (s.probeOthersWritten v).rd k 0 = s.rd k 0 := by
  rw [State.probeOthersWritten, State.rd_wr_ne _ _ _ _ hact, State.rd_wr_ne _ _ _ _ henable, State.rd_wr_ne _ _ _ _ hdiv]

theorem State.probeCfgWritten_probeDiv : (s.probeCfgWritten v).rd .probeDiv 0 = bits v 8 2 := by
  rw [State.probeCfgWritten_rd _ _ (by decide) (by decide), State.probeOthersWritten, State.rd_wr_ne _ _ _ _ (by decide),
    State.rd_wr_ne _ _ _ _ (by decide), State.rd_wr_bits (w := 2) _ _ _ _ rfl]

theorem State.probeCfgWritten_probeEnable : (s.probeCfgWritten v).rd .probeEnable 0 = bits v 10 1 := by
  rw [State.probeCfgWritten_rd _ _ (by decide) (by decide), State.probeOthersWritten, State.rd_wr_ne _ _ _ _ (by decide),
    State.rd_wr_bits (w := 1) _ _ _ _ rfl]

theorem State.probeCfgWritten_probeActFlask : (s.probeCfgWritten v).rd .probeActFlask 0 = bits v 16 6 := by
  rw [State.probeCfgWritten_rd _ _ (by decide) (by decide), State.probeOthersWritten, State.rd_wr_bits (w := 6) _ _ _ _ rfl]

variable {s v}

/-- A group that is refused is recorded, and the one selected before stays. -/
theorem State.probeCfgWritten_refused (h : (decide (4 ≤ bits v 0 8) && !s.unlocked 0) = true) :
    (s.probeCfgWritten v).rd .probeGroup 0 = s.rd .probeGroup 0 ∧ (s.probeCfgWritten v).bit .probeDenied = true := by
  rw [State.probeCfgWritten, if_pos h, State.setBit, State.bit, State.rd_wr_ne _ _ _ _ (by decide), State.rd_wr_same,
    State.probeOthersWritten_rd _ _ (by decide) (by decide) (by decide)]
  exact ⟨rfl, rfl⟩

/-- A group that is not refused is selected, and PROBE_DENIED keeps what it recorded. -/
theorem State.probeCfgWritten_selected (h : ¬(decide (4 ≤ bits v 0 8) && !s.unlocked 0) = true) :
    (s.probeCfgWritten v).rd .probeGroup 0 = bits v 0 8 ∧ (s.probeCfgWritten v).rd .probeDenied 0 = s.rd .probeDenied 0 := by
  rw [State.probeCfgWritten, if_neg h, State.rd_wr_bits (w := 8) _ _ _ _ rfl, State.rd_wr_ne _ _ _ _ (by decide),
    State.probeOthersWritten_rd _ _ (by decide) (by decide) (by decide)]
  exact ⟨rfl, rfl⟩

end

theorem State.probing_congr {s t : State} (hphase : t.phase = s.phase) (hcsr : t.csr = s.csr) : t.probing = s.probing := by
  rw [State.probing, State.probing, State.ready, State.ready, State.bit, State.bit, hphase, State.rd_congr hcsr]

/-- While the mux does not drive, its lands are low; else `settle` keeps them (R1029). -/
theorem settle_probe_lands (s : State) : (settle s).probe.lands = if (settle s).probing then s.probe.lands else 0 := by
  have hheld : (settle s).probe = s.partEvent.sendHeld.driveAlert.holdProbe.probe := rfl
  have hprobing : s.partEvent.sendHeld.driveAlert.probing = (settle s).probing := State.probing_congr (by simp) (by simp)
  rw [hheld, State.holdProbe, hprobing]
  split
  · rw [State.driveAlert_probe, State.sendHeld_probe, State.partEvent_probe]
  · rfl

/-! ### The obligation -/

/-- Settles O33: each instruction of the test access port leaves the state named above, whose lands and data register the lemmas read, and a
write of PROBE_CFG leaves its registers and the lands. -/
theorem scanAndProbes : Obligations.ScanAndProbes := by
  unfold Obligations.ScanAndProbes
  refine ⟨fun s => ⟨_, rfl, ?reset⟩, fun s => ⟨_, rfl, ?idcode⟩, fun s cells hlen => ⟨_, rfl, ?sample⟩, fun s => ?extest,
    fun s hphase => ?extestOwn, fun s hphase => ⟨_, rfl, ?highzFloats⟩, fun s hphase => ⟨_, rfl, ?highzOwn⟩, fun s => ⟨_, rfl, ?clamp⟩,
    fun s => ⟨_, rfl, ?highz⟩, fun s code => ⟨_, rfl, ?bypass⟩, fun s code _ _ => ?privateCode, fun s value hup => ?probe⟩
  case reset | idcode =>
    rw [settle_tap, settle_csr]
    exact ⟨rfl, rfl, rfl⟩
  case sample =>
    rw [settle_tap, settle_csr]
    exact ⟨scanLoad_of_length hlen, scanLoad_of_length hlen, rfl, s.scanCapture_length, rfl⟩
  case extest =>
    obtain ⟨captured, hexec⟩ := exec_extest s
    refine ⟨_, hexec, ?_⟩
    rw [State.dataReg_extest (by rw [settle_tap]), settle_scanPhase, settle_tap, settle_csr]
    exact ⟨rfl, rfl, rfl, rfl⟩
  case extestOwn =>
    obtain ⟨captured, hexec⟩ := exec_extest s
    exact ⟨_, hexec, State.landOut_of_not_scanPhase (by rw [settle_scanPhase]; exact hphase)⟩
  case highzFloats =>
    exact State.landOut_highz (by rw [settle_scanPhase]; exact hphase) (by rw [settle_tap]; rfl)
  case highzOwn =>
    refine ⟨State.landOut_of_not_scanPhase (by rw [settle_scanPhase]; exact hphase), fun u htap huphase => ?_⟩
    exact State.landOut_highz huphase (by rw [htap, settle_tap]; rfl)
  case clamp | highz =>
    rw [State.dataReg_of_ir_ne (by rw [settle_tap, State.tapBypass_ir]; decide), settle_tap, settle_csr]
    exact ⟨rfl, rfl, rfl⟩
  case bypass =>
    rw [settle_tap, settle_csr]
    refine ⟨?_, rfl, rfl⟩
    simp only [State.tapBypass, ← Bool.decide_and, decide_eq_true_eq, apply_ite (BitVec.ofNat 8)]
    rfl
  case privateCode =>
    obtain ⟨dr, hdr, hexec⟩ := exec_privateScanInstruction s code
    refine ⟨_, hexec, ?_⟩
    rw [settle_tap, settle_csr, settle_mem, settle_sec, ← s.unlocked_eq_false 1]
    exact ⟨rfl, rfl, rfl, rfl, hdr⟩
  case probe =>
    refine ⟨_, exec_probeCfgWrite value hup, ?_⟩
    have hcsr := s.reselectProbe_csr (s.probeCfgWritten value.toNat)
    simp only [settle_probe_lands, settle_rd, State.bit, State.rd_congr hcsr, ← State.unlocked_eq_false]
    refine ⟨s.probeCfgWritten_probeDiv _, s.probeCfgWritten_probeEnable _, s.probeCfgWritten_probeActFlask _,
      by rw [State.reselectProbe_lands, State.probeCfgWritten_probe], ?_⟩
    split
    next hrefused => exact State.probeCfgWritten_refused (by simpa using hrefused)
    next hselected => exact State.probeCfgWritten_selected (by simpa using hselected)

end Sys2Proof.Machine
end
